-- ==== Sys2Proof/Word.lean ====
section
/-! DEFINITION. The word types of the SPX-W5160 (Wilkor): 64-bit scalar words, bytes, and the numbers that name
cores, dies, registers and tenants (R1, R2, R4). -/

namespace Sys2Proof

/-- A scalar register value (R16). -/
abbrev Word := BitVec 64

/-- One byte of memory (R4). -/
abbrev Byte := BitVec 8

/-- A register number 0–31 of any 32-entry register file. -/
abbrev Reg := Fin 32

/-- A global core number 0–127 (R2). -/
abbrev CoreId := Fin 128

/-- A compute die 0–3 (R1). -/
abbrev DieId := Fin 4

/-- A tenant number 0–7 (R32, TENANT). -/
abbrev TenantId := Fin 8

/-- A crossbar port of one die (R340). -/
abbrev Port := Fin 64

end Sys2Proof
end

