-- ==== Sys2Proof/Syntax.lean ====
section
/-! DEFINITION. The abstract syntax: the operand forms of the four instruction formats (R56–R75), the payloads that the
indivisible steps of the part carry, and the one inductive `Instr`, one constructor per row of spec/opcode_table.json. -/

namespace Sys2Proof

/-- The five engine queues, in the order of the token ring (R24, R26). -/
inductive Engine | ld | mx | vx | st | cp
deriving DecidableEq, Repr

/-- Scope codes 000–111 (R68, R291). -/
inductive Scope | eng | core | group | die | device | peer | host | system
deriving DecidableEq, Repr

/-- NUL of a branch: none, `.NT` (annul when not taken), `.T` (annul when taken) (R69, R105). -/
inductive Nul | none | notTaken | taken
deriving DecidableEq, Repr

/-- FENCE kinds (R70, R249). -/
inductive FenceKind | acq | rel | acqRel
deriving DecidableEq, Repr

/-- The token bits of a V or M instruction (R24, R49). -/
structure Tokens where
  waitL : Bool
  waitR : Bool
  postL : Bool
  postR : Bool
deriving DecidableEq, Repr

/-- A 16-bit operand field of a V instruction (R61). -/
inductive Operand
  /-- KIND 00: view `vw` from row `row`, row step code `rstep` (steps 1, 2, 4, 0), column offset 128 × `cb`. -/
  | view (vw : Reg) (row : Fin 32) (rstep : Fin 4) (cb : Fin 4)
  /-- KIND 01: operand-ring entry at depth `depth`. -/
  | ring (depth : Fin 8)
  /-- KIND 10: scalar register Xn (majors 0x00–0x07) or stream handle Sn (majors 0x08–0x0A). -/
  | reg (n : Reg)
  /-- KIND 11: a mask register or a permutation register number. -/
  | special (n : Fin 16)
deriving DecidableEq, Repr

/-- The third operand: a field, or with LIT = 1 the literal LIT32 (R62). -/
inductive Src2
  | op (o : Operand)
  | lit (v : BitVec 32)
deriving DecidableEq, Repr

/-- The fields of the three parcels of a V instruction other than its major and FN (R60, R64). `bit21` is PZ in majors
0x00–0x07 and PEN in majors 0x08–0x0A. -/
structure VWord where
  fmt   : BitVec 5
  mod   : BitVec 4
  bit21 : Bool
  pm    : Fin 8
  tok   : Tokens
  d     : Operand
  s1    : Operand
  s2    : Src2
  xfn   : BitVec 16
deriving DecidableEq, Repr

/-- The fields of the six parcels of an M instruction other than its major and FN (R65). The fields named "minus one" hold
the encoded value. -/
structure MWord where
  asc    : Bool
  za     : Bool
  ft     : Bool
  mrepM1 : Fin 4
  acc    : Fin 4
  aview  : Reg
  tok    : Tokens
  kstepM1 : Fin 64
  wslot  : Fin 64
  akb    : Fin 64
  arow   : BitVec 12
  mod    : BitVec 4
  sview  : Reg
  cfmt   : BitVec 5
  bfmt   : BitVec 5
  afmt   : BitVec 5
  qview  : Reg
  dfmt   : BitVec 5
  drow   : BitVec 12
  dview  : Reg
  scale  : BitVec 32
deriving DecidableEq, Repr

/-! ### Payloads of the part's own steps -/

/-- A memory that a physical access reaches (R256). -/
inductive Space
  | plate (c : CoreId)
  | hbm
  | tier2
  | wstore (d : DieId)
  | peer (m : Nat)
  | host
deriving DecidableEq, Repr

/-- One operation of a write at a memory port (R298). -/
inductive PortOp
  /-- Plain store of bytes; `marked` bytes carry poison (R356). -/
  | bytes (sp : Space) (cells : List (Nat × Byte)) (marked : Bool)
  /-- CPYA element: format code, operation 0 ADD … 5 XOR (R231). -/
  | accum (sp : Space) (addr : Nat) (fmt : BitVec 5) (op : BitVec 3) (v : BitVec 64) (marked : Bool)
  /-- CATOM element: operation 0 FADD, 1 SWAP, 2 CAS (R231). -/
  | atom (sp : Space) (addr : Nat) (fmt : BitVec 5) (op : BitVec 2) (v w : BitVec 64) (marked : Bool)
  /-- A read of bytes; `last` is the second read of a granule under REPLAY_THEN_ZERO (R219). -/
  | read (sp : Space) (addr n : Nat) (last : Bool)
  /-- The data of a read on its way back (R341). -/
  | back
  /-- The data of a multicast for the destination at this port, which applies it in notice order (R346). -/
  | cast (id : Nat) (c : CoreId)
deriving DecidableEq, Repr

/-- What a packet is sent for: a global access of the sequencer, a tile of LD or ST, an index tile, each under its number, a copy, a packet
taken from another module, or nothing of this module. -/
inductive Carrier
  | scalar (num : Nat)
  | tile (num : Nat)
  | index (num : Nat)
  | copy (id : Nat)
  | inbound (id : Nat)
  | outside
deriving DecidableEq, Repr

/-- What a release covers (R238, R294): its scope, and for each core the count below which its stores are covered. -/
structure Covered where
  scope : Scope
  known : List (CoreId × Nat)
deriving DecidableEq, Repr

/-- What a packet does at the port it is bound for: the issuing core, what it is sent for, what the issuer had acquired when it was
sent (R304), the releases that its writes carry (R294, R295), and its operations. -/
structure PortWrite where
  src   : CoreId
  of_   : Carrier
  known : List (CoreId × Nat) := []
  rels  : List Covered := []
  ops   : List PortOp
deriving DecidableEq, Repr

/-- A packet in the crossbar (R341): its number, its output port on this die, the port it entered by, its beats, the die and port it
is bound for, the bytes of the memory that it reads or writes, its lane, the tenant whose traffic it is, and what it does; the die cycle
before which a resend keeps it back (R361), and whether it has met a refresh (R353). -/
structure Packet where
  num     : Nat
  inPort  : Port
  outPort : Port
  beats   : Nat
  dstDie  : DieId
  dstPort : Port
  sp      : Space
  addr    : Nat
  bytes   : Nat
  lane    : Nat
  tenant  : Nat
  msg     : PortWrite
  notBefore : Nat := 0
  met     : Bool := false
deriving DecidableEq, Repr

/-- A remote semaphore operation (R239). -/
inductive SemOp
  | add (v : BitVec 32)
  | set (v : BitVec 32)
deriving DecidableEq, Repr

/-- Pool operations (R241). -/
inductive PoolOp | wbegin | wend | wnext | rbegin | rend | rnext | query
deriving DecidableEq, Repr

/-- Ring operations (R245). -/
inductive RingOp | acq | pub | take | free | close (err : Bool) | brk | stat
deriving DecidableEq, Repr

/-- A pool or ring operation on its way to its home: the issuing core, its kernel and rank, the declaration entry, the
reply it expects, the address of the instruction, and the release that it makes (R236, R243, R244, R247, R286). -/
structure HomeReq (op : Type) where
  src  : CoreId
  kid  : Nat
  rank : Nat
  home : CoreId
  entry : Nat
  op   : op
  rid  : Nat
  det  : Bool
  addr : Word
  /-- The time of issue, in die cycles since reset. -/
  sent : Nat
  rel  : Option Covered
deriving DecidableEq, Repr

/-- What a home answers: register values, or a fault at the reply's S-cycle (R241, R244, R245, R247). -/
inductive Reply
  | values (vs : List Word)
  | overcommit
  | broken
deriving DecidableEq, Repr

/-- A tile of a reduction with the bitmap of its leaves, from a core (leaf) or a node (R325). -/
structure RedPacket where
  srcCore  : CoreId
  srcNode  : Option (Fin 8)
  copy     : Option Nat
  dstCore  : CoreId
  dstNode  : Fin 8
  bitmap   : BitVec 64
  tile     : List Byte
  marked   : Bool
  order    : Nat
  known    : List (CoreId × Nat)
deriving DecidableEq, Repr

/-- A node's answer to an RCONT: accepted (ACCEPT code) or refused with a reason (R327, R329). -/
inductive RedAnswer
  | accept (late : Bool)
  | refuse (code : Nat)
deriving DecidableEq, Repr

/-- An activation of a graph node, with the graph in force when it was accepted (R305, R369), the kernel that staged it, the time from
which the Easel may take it (R309), and what its node acquires (R308). -/
structure Activation where
  tenant : TenantId
  node   : Nat
  gbase  : Nat
  gcount : Nat
  order  : Nat
  prio   : Nat
  staged : Option Nat
  readyAt : Nat
  known  : List (CoreId × Nat)
deriving DecidableEq, Repr

/-- A Biryar flit (R348). -/
structure Flit where
  lseq    : BitVec 16
  kind    : BitVec 16
  srcMod  : BitVec 8
  dstMod  : BitVec 8
  pairSeq : BitVec 32
  beat    : BitVec 8
  last    : BitVec 8
  payload : List Byte
  crc     : BitVec 32
deriving DecidableEq, Repr

/-- What the packet completed by a flit asks of this module: the source tenant and its access, or a reduction packet; or what it
answers (R231, R337, R341, R352). `marked` data carries poison, as the header of its flits says (R356). -/
inductive PeerMsg
  | write (srcTenant : Nat) (va : Nat) (bytes : List Byte) (marked : Bool)
  | reduce (srcTenant : Nat) (p : RedPacket)
  /-- A read of some bytes, and an element of a CPYA or a CATOM (R231). -/
  | read (srcTenant : Nat) (va n : Nat)
  | accum (srcTenant : Nat) (va : Nat) (fmt : BitVec 5) (op : BitVec 3) (v : BitVec 64) (marked : Bool)
  | atom (srcTenant : Nat) (va : Nat) (fmt : BitVec 5) (op : BitVec 2) (v w : BitVec 64) (marked : Bool)
  /-- The bytes that answer a read, or the old element that answers a CATOM, of this module. -/
  | data (bytes : List Byte) (marked : Bool)
deriving DecidableEq, Repr

/-- How an error found in a store turned out (R354). -/
inductive ScrubOutcome | clean | corrected | uncorrectable
deriving DecidableEq, Repr

/-- The core state a parity error strikes (R355). -/
inductive ParityUnit
  | accumulator (a : Fin 4)
  | weightSlot (w : Fin 64)
  | other
deriving DecidableEq, Repr

/-- What an uncorrectable header strikes, or a second one on a hop (R361): a packet, with the virtual address of what it accesses, the
packet of an RCONT or a node, a home operation with a reply, a remote semaphore operation by where and when it was sent, or the
activation of a LAUNCH; or a beat of a packet's payload (R354). -/
inductive AbandonedOp
  | packet (p : Packet) (va : BitVec 64)
  | node (p : RedPacket)
  | home (rid : Nat)
  | sem (dst : CoreId) (i : Reg) (sent : Nat)
  | launch (order : Nat)
  | beat (p : Packet) (va : BitVec 64) (k : Nat)
deriving DecidableEq, Repr

/-- Who waits for a translation: the access that freezes a core, a copy of it, or a TPREF, which waits for none and names the context
and the page (R224, R269, R270). -/
inductive Asker
  | core
  | copy (id : Nat)
  | ahead (ctx : Fin 9) (page : Nat)
deriving DecidableEq, Repr

/-- How the module OS resolves a page fault: a mapping has been installed and the walk repeats, or the access is unmapped
(R269). -/
inductive PageFix
  /-- Page-table entries have been written: their HBM addresses and values. -/
  | installed (ptes : List (Nat × BitVec 64))
  | unmapped
deriving DecidableEq, Repr

/-- A write of the module OS to what it owns in the hub (R126, R267, R317, R349, R350, R352, R370, R375): a Biryar port's status register, the pairing table and the
paths of a module, a slot table, an entry of a page table in HBM, the mark that opens a page of a tenant to its host, a core's
breakpoints, the base of a context's page table, a lane's retry threshold, the state of a path, the capability records. -/
inductive OsWrite
  | status (port : Fin 16) (v : Word)
  | pairing (m : Nat) (pairs : List (Nat × TenantId))
  | paths (m : Nat) (ports : List (Fin 16 × List Nat))
  | slots (d : DieId) (out : Port) (table : List Byte)
  | cxlSlots (port : Fin 4) (table : List Byte)
  | pte (addr : Nat) (v : Word)
  | visible (t : TenantId) (va : Nat) (on : Bool)
  | breakpoints (c : CoreId) (l : List Word)
  | root (context : Fin 9) (base : Nat)
  /-- The retries of a lane above which its port falls back (R349). -/
  | laneLimit (n : Nat)
  /-- A path, by its place among those toward a module, goes down or comes up beyond this module's port (R350). -/
  | pathState (m : Nat) (k : Nat) (up : Bool)
  /-- The capability records are written at CAPPTR in a tenant's context (R375). -/
  | capabilities (t : TenantId)
  /-- The area of a tenant's HBM in which the contexts of its pre-empted kernels are kept (R323). -/
  | saveArea (t : TenantId) (base : Nat)
  /-- A 64-bit register of the hub's management window is written, or read (R352, R362, R363). -/
  | mmio (off : Nat) (v : Word)
  | readWindow (off : Nat)
  /-- A frame of a retired HBM channel has been copied to another frame, and the leaf at an HBM address leads there (R365). -/
  | moveFrame (src dst pte : Nat)
deriving DecidableEq, Repr

/-- An access of the host through a function (R368, R370): a control register of BAR 0, the window of BAR 2, or the
enables of the function's MSI-X vectors; or a write of its own memory. -/
inductive HostAccess
  | readReg (off : Nat)
  | writeReg (off : Nat) (v : Word)
  | read (va n : Nat)
  | write (va : Nat) (bytes : List Byte)
  | vectors (enabled : List Nat)
  /-- The host changes its own memory. -/
  | memory (addr : Nat) (bytes : List Byte)
deriving DecidableEq, Repr

/-- What the firmware update writes (R374): the image's security version and whether its signature verifies. -/
structure FlashImage where
  version  : Nat
  verifies : Bool
  digest   : Nat
deriving DecidableEq, Repr

/-- One of the part's indivisible steps that is not an instruction (95_what_each_step_holds), with what it acts on: the step
that is due stands in the state's event register while it is performed. Inputs of the outside world are events too. -/
inductive Event
  -- Steps of a core (R39, R114–R127, R237–R258)
  | engineDispatch (e : Engine)
  | resultLanding
  | group4ReadPromotion (c : CoreId) (bank : Fin 64)
  | handlerTrap
  | rttResume
  | haltComplete
  | modesetComplete
  | qdrainComplete
  | fenceAck (c : CoreId)
  | semwaitSatisfied (c : CoreId)
  | semRemoteService (src dst : CoreId) (i : Reg) (op : SemOp) (sent : Nat) (rel : Option Covered)
  | poolService (q : HomeReq PoolOp)
  | ringService (q : HomeReq RingOp)
  | ringWaitServiced (q : HomeReq RingOp)
  | homeReplyArrival (c : CoreId) (rid : Nat) (r : Reply)
  | lateAccessArrival (c : CoreId)
  | evqRecordArrival (c : CoreId)
  | copyComplete (c : CoreId) (id : Nat)
  | copyDispatchFaultRecord (c : CoreId) (id : Nat)
  | memoryPortArrival (d : DieId) (port : Port)
  | nodeArmingRecord (c : CoreId) (n : Fin 8)
  | reductionPacketArrival (p : RedPacket)
  | nodeDeadline (c : CoreId) (n : Fin 8)
  | rootRecordWrite (c : CoreId) (n : Fin 8)
  | rcontAnswer (c : CoreId) (id : Nat) (a : RedAnswer)
  | iterationStart (kid : Nat)
  | tlbMissResolved (c : CoreId) (who : Asker)
  | pageFaultResolved (c : CoreId) (copy : Option Nat) (fix : PageFix)
  | tlbinvComplete (c : CoreId)
  | replayRereadDone (c : CoreId)
  | wsBackstopRefresh (d : DieId) (g : Reg)
  | wsRefreshEnd (d : DieId) (g : Reg)
  | hbmRefresh (d : DieId) (slice : Fin 16) (bank : Nat)
  | patrolScrub (sp : Option Space) (line : Nat) (o : ScrubOutcome) (info : Nat)
  | hbmLaneRepair (d : DieId) (channel : Fin 64) (lane : Nat)
  | hbmRepairPauseEnd (d : DieId) (channel : Fin 64)
  | cxlPortFailure (port : Fin 4)
  | crossbarGrant (d : DieId) (out : Port)
  | d2dDelivery (d : DieId) (p : Packet)
  | noticeWindow (d : DieId)
  | hubNotice
  | multicastApply (c src : CoreId) (id : Nat)
  | biryarFlitReceive (port : Fin 16) (f : Flit) (m : Option PeerMsg)
  | biryarNack (port : Fin 16) (lseq : BitVec 16)
  | laneFallback (port : Fin 16) (lane : Fin 8)
  | portDown (port : Fin 16)
  | pathResend (m : Nat)
  | endToEndAck (m : Nat) (pairSeq : Nat)
  | headerError (d : DieId) (port : Port) (c : CoreId) (op : AbandonedOp)
  | packetAbandon (d : DieId) (port : Port) (c : CoreId) (op : AbandonedOp)
  | coreStateParity (c : CoreId) (u : ParityUnit)
  | activate (fn : Fin 9) (node : BitVec 32)
  | cancel (fn : Fin 9) (kid : BitVec 32)
  | hostRegisterWrite (fn : Fin 9) (a : HostAccess)
  | vfEnable
  | ebstatWrite (die : Fin 5) (bank : Fin 16) (v : Word)
  | ebceWrite (die : Fin 5) (bank : Fin 16) (v : Word)
  | kernNode (a : Activation)
  | kernelPlacement (kid : Nat)
  | stagingComplete (kid : Nat)
  | copyNode (a : Activation)
  | condNode (a : Activation)
  | loopNode (a : Activation)
  | joinNode (a : Activation)
  | signalNode (a : Activation)
  | endNode (a : Activation)
  | kernelEnd (kid : Nat)
  | tenantPoolCreate (t : TenantId) (home : CoreId) (unit : Fin 8) (decl : List Byte)
  | preemptRequest (kid : Nat)
  | preemptSave (kid : Nat)
  | preemptWithdraw (kid : Nat)
  | resumption (kid : Nat)
  | powerOn
  | moduleOsInit (repair : List (DieId × Fin 64 × Nat)) (owners : List (CoreId × TenantId)) (powerLimit : Nat)
      (tables : List OsWrite) (expanders : List (Fin 4 × Bool × Nat))
  | spdmRequest (index : Nat)
  | pldmReport
  | pldmFwUpdate (copy : Fin 2) (img : FlashImage)
  | powerLimitSet (watts : Nat)
  | thermalLimit (d : DieId) (celsius : Int) (watts : Nat)
  | lifeRecordUpdate
  | kernelImageLoad (t : TenantId) (image : List Byte) (recordVa codeVa dataVa rodataVa hbmVa : Nat)
  | tenantPoolDestroy (number : Nat)
  | coreOwnershipChange (c : CoreId) (t : Option TenantId)
  | biryarPortTrained (port : Fin 16) (lanes : BitVec 8)
  | biryarStatusWrite (w : OsWrite)
  | vfDisable
  | powerLoss
deriving DecidableEq, Repr

/-- The `Instr` of this model: one constructor per row of spec/opcode_table.json, the 233 instructions first, then the
87 indivisible steps that the table lists beside them (95_what_each_step_holds), whose arguments are an `Event`. -/
inductive Instr
  -- S major 0x00 (R86–R88)
  | add (w : Bool) (d a b : Reg)
  | sub (w : Bool) (d a b : Reg)
  | and (w : Bool) (d a b : Reg)
  | or (w : Bool) (d a b : Reg)
  | xor (w : Bool) (d a b : Reg)
  | andn (w : Bool) (d a b : Reg)
  | sll (w : Bool) (d a b : Reg)
  | srl (w : Bool) (d a b : Reg)
  | sra (w : Bool) (d a b : Reg)
  | rol (w : Bool) (d a b : Reg)
  | mul (w : Bool) (d a b : Reg)
  | mulh (w : Bool) (d a b : Reg)
  | mulhu (w : Bool) (d a b : Reg)
  | div (w : Bool) (d a b : Reg)
  | divu (w : Bool) (d a b : Reg)
  | rem (w : Bool) (d a b : Reg)
  | remu (w : Bool) (d a b : Reg)
  | min (w : Bool) (d a b : Reg)
  | max (w : Bool) (d a b : Reg)
  | minu (w : Bool) (d a b : Reg)
  | maxu (w : Bool) (d a b : Reg)
  | slt (w : Bool) (d a b : Reg)
  | sltu (w : Bool) (d a b : Reg)
  | seq (w : Bool) (d a b : Reg)
  | clz (w : Bool) (d a : Reg)
  | ctz (w : Bool) (d a : Reg)
  | popc (w : Bool) (d a : Reg)
  | brev (w : Bool) (d a : Reg)
  | bswap (w : Bool) (d a : Reg)
  | movz (w : Bool) (d a b : Reg)
  | movn (w : Bool) (d a b : Reg)
  -- S majors 0x01–0x0A (R89)
  | addi (d a : Reg) (imm : BitVec 14)
  | andi (d a : Reg) (imm : BitVec 14)
  | ori (d a : Reg) (imm : BitVec 14)
  | xori (d a : Reg) (imm : BitVec 14)
  | slli (d a : Reg) (sh : Fin 64)
  | srli (d a : Reg) (sh : Fin 64)
  | srai (d a : Reg) (sh : Fin 64)
  | slti (d a : Reg) (imm : BitVec 14)
  | sltiu (d a : Reg) (imm : BitVec 14)
  | seqi (d a : Reg) (imm : BitVec 14)
  -- S majors 0x0B–0x15 (R91)
  | ldb (d a : Reg) (imm : BitVec 14)
  | ldbu (d a : Reg) (imm : BitVec 14)
  | ldh (d a : Reg) (imm : BitVec 14)
  | ldhu (d a : Reg) (imm : BitVec 14)
  | ldw (d a : Reg) (imm : BitVec 14)
  | ldwu (d a : Reg) (imm : BitVec 14)
  | ldd (d a : Reg) (imm : BitVec 14)
  | stb (s a : Reg) (imm : BitVec 14)
  | sth (s a : Reg) (imm : BitVec 14)
  | stw (s a : Reg) (imm : BitVec 14)
  | std (s a : Reg) (imm : BitVec 14)
  -- S majors 0x16, 0x17 (R103, R106)
  | beq (a b : Reg) (nul : Nul) (disp : BitVec 9)
  | bne (a b : Reg) (nul : Nul) (disp : BitVec 9)
  | blt (a b : Reg) (nul : Nul) (disp : BitVec 9)
  | bge (a b : Reg) (nul : Nul) (disp : BitVec 9)
  | bltu (a b : Reg) (nul : Nul) (disp : BitVec 9)
  | bgeu (a b : Reg) (nul : Nul) (disp : BitVec 9)
  | bra (nul : Nul) (disp : BitVec 9)
  | jalr (d a : Reg) (imm : BitVec 14)
  -- S major 0x18 SYS (R70)
  | nop
  | halt
  | trap (n : BitVec 10)
  | rtt
  | fence (kind : FenceKind) (scope : Scope)
  | qdrain (m : BitVec 5)
  | modeset (v : BitVec 3)
  | segb
  | tmark
  | gset (a b : Reg)
  | gclr (a b : Reg)
  | evpop (d : Reg)
  | evpeek (d : Reg)
  | tlbinv (a b : Reg)
  | lbrk (lvl : Fin 4)
  -- S majors 0x19–0x1D (R97, R108)
  | csrr (d : Reg) (idx : BitVec 10)
  | csrw (d a : Reg) (idx : BitVec 10)
  | csrs (d a : Reg) (idx : BitVec 10)
  | csrc (d a : Reg) (idx : BitVec 10)
  | loop (lvl : Fin 4) (rot fti : Bool) (a : Reg) (len : BitVec 14)
  -- S majors 0x1E–0x22 (R71)
  | semadd (i : Reg) (scope : Scope) (a : Reg)
  | semset (i : Reg) (scope : Scope) (a : Reg)
  | semwait (i : Reg) (scope : Scope) (a : Reg)
  | semrd (d i : Reg)
  | semradd (i : Reg) (scope : Scope) (a b : Reg)
  | semmset (i : Reg) (scope : Scope) (a b : Reg)
  | pwbegin (d p : Reg)
  | pwend (p : Reg) (scope : Scope)
  | pwnext (d p : Reg) (scope : Scope)
  | prbegin (d p : Reg) (scope : Scope)
  | prend (p : Reg)
  | prnext (d p : Reg) (scope : Scope)
  | pquery (d p : Reg)
  | racq (d r : Reg) (scope : Scope)
  | rpub (r : Reg) (scope : Scope)
  | rtake (d r : Reg) (scope : Scope)
  | rfree (r : Reg) (scope : Scope)
  | rclose (r : Reg) (scope : Scope) (err : Bool)
  | rbrk (r : Reg)
  | rstat (d r : Reg)
  | launch (a : Reg)
  | launchs (a : Reg)
  | vwset (i a b : Reg)
  | vwget (d i : Reg)
  | shpset (a : Reg)
  | ftset (i : Fin 16) (a : Reg)
  | mset (i a b : Reg)
  | rotset (i a : Reg)
  -- L format (R59)
  | li (d : Reg) (v : BitVec 32)
  | lih (d : Reg) (v : BitVec 32)
  | addil (d a : Reg) (v : BitVec 32)
  | andil (d a : Reg) (v : BitVec 32)
  | oril (d a : Reg) (v : BitVec 32)
  | xoril (d a : Reg) (v : BitVec 32)
  | jal (d : Reg) (disp : BitVec 32)
  | beqi (a : Reg) (nul : Nul) (v disp : BitVec 16)
  | bnei (a : Reg) (nul : Nul) (v disp : BitVec 16)
  | blti (a : Reg) (nul : Nul) (v disp : BitVec 16)
  | bgei (a : Reg) (nul : Nul) (v disp : BitVec 16)
  | bltui (a : Reg) (nul : Nul) (v disp : BitVec 16)
  | bgeui (a : Reg) (nul : Nul) (v disp : BitVec 16)
  | loopi (lvl : Fin 4) (rot fti : Bool) (len : BitVec 9) (count : BitVec 32)
  | sege (a : Reg) (sig : BitVec 32)
  -- V major 0x00 (R135)
  | vadd (v : VWord)
  | vsub (v : VWord)
  | vmul (v : VWord)
  | vfma (v : VWord)
  | vfms (v : VWord)
  | vfnma (v : VWord)
  | vmin (v : VWord)
  | vmax (v : VWord)
  | vabs (v : VWord)
  | vneg (v : VWord)
  | vaddsub (v : VWord)
  | vavg (v : VWord)
  | vmulh (v : VWord)
  | vshl (v : VWord)
  | vshr (v : VWord)
  | vsra (v : VWord)
  | vand (v : VWord)
  | vor (v : VWord)
  | vxor (v : VWord)
  | vnot (v : VWord)
  | vsel (v : VWord)
  | vmov (v : VWord)
  | vclamp (v : VWord)
  | vabsd (v : VWord)
  -- V major 0x01 (R136, R137)
  | vcmpeq (v : VWord)
  | vcmpne (v : VWord)
  | vcmplt (v : VWord)
  | vcmple (v : VWord)
  | vcmpgt (v : VWord)
  | vcmpge (v : VWord)
  | vclass (v : VWord)
  -- V major 0x02 (R138)
  | vrcp (v : VWord)
  | vrsqrt (v : VWord)
  | vsqrt (v : VWord)
  | vexp2 (v : VWord)
  | vlog2 (v : VWord)
  | vexp (v : VWord)
  | vtanh (v : VWord)
  | vsigm (v : VWord)
  | vsilu (v : VWord)
  | vgelu (v : VWord)
  | vsin (v : VWord)
  | vcos (v : VWord)
  | vdiv (v : VWord)
  -- V major 0x03 (R139)
  | vrsum (v : VWord)
  | vrmax (v : VWord)
  | vrmin (v : VWord)
  | vramax (v : VWord)
  | vcsum (v : VWord)
  | vcmax (v : VWord)
  | vscan (v : VWord)
  | vdot (v : VWord)
  -- V major 0x04 (R141, R143)
  | vtopk (v : VWord)
  | vsortr (v : VWord)
  | vmrgk (v : VWord)
  | vcompr (v : VWord)
  | vexpnd (v : VWord)
  -- V major 0x05 (R144)
  | vbcast (v : VWord)
  | vtrans (v : VWord)
  | viota (v : VWord)
  | vgathr (v : VWord)
  | vscatr (v : VWord)
  -- V major 0x06 (R169)
  | vcvt (v : VWord)
  | vrqnt (v : VWord)
  | vmxq (v : VWord)
  | vmxdq (v : VWord)
  | vunpk3 (v : VWord)
  | vpack3 (v : VWord)
  | vunpk4 (v : VWord)
  | vpack4 (v : VWord)
  | vsat (v : VWord)
  | vrnd (v : VWord)
  -- V major 0x07 (R202)
  | pld (v : VWord)
  | pst (v : VWord)
  | pcomp (v : VWord)
  | pinv (v : VWord)
  | ppow (v : VWord)
  | prand (v : VWord)
  | pidn (v : VWord)
  | pcyc (v : VWord)
  | pxch (v : VWord)
  | vperm (v : VWord)
  | pcycv (v : VWord)
  -- V majors 0x08–0x0A (R220)
  | tld (v : VWord)
  | tldi (v : VWord)
  | tldw (v : VWord)
  | tpref (v : VWord)
  | sbind (v : VWord)
  | sadv (v : VWord)
  | wref (v : VWord)
  | tst (v : VWord)
  | tsti (v : VWord)
  | tstm (v : VWord)
  | cpy (v : VWord)
  | cpya (v : VWord)
  | cmcast (v : VWord)
  | catom (v : VWord)
  | cfill (v : VWord)
  | rnode (v : VWord)
  | rcont (v : VWord)
  | wstore (v : VWord)
  -- M majors 0x00–0x02 (R74)
  | mma (m : MWord)
  | mmas (m : MWord)
  | mmat (m : MWord)
  | mdrain (m : MWord)
  | mdrainmx (m : MWord)
  | mldac (m : MWord)
  | mclr (m : MWord)
  | wbld (m : MWord)
  | wbinv (m : MWord)
  -- Steps of the part (95_what_each_step_holds); each takes what it acts on from the state's event register
  | engineDispatch
  | resultLanding
  | group4ReadPromotion
  | handlerTrap
  | rttResume
  | haltComplete
  | modesetComplete
  | qdrainComplete
  | fenceAck
  | semwaitSatisfied
  | semRemoteService
  | poolService
  | ringService
  | ringWaitServiced
  | homeReplyArrival
  | lateAccessArrival
  | evqRecordArrival
  | copyComplete
  | copyDispatchFaultRecord
  | memoryPortArrival
  | nodeArmingRecord
  | reductionPacketArrival
  | nodeDeadline
  | rootRecordWrite
  | rcontAnswer
  | iterationStart
  | tlbMissResolved
  | pageFaultResolved
  | tlbinvComplete
  | replayRereadDone
  | wsBackstopRefresh
  | wsRefreshEnd
  | hbmRefresh
  | patrolScrub
  | hbmLaneRepair
  | hbmRepairPauseEnd
  | cxlPortFailure
  | crossbarGrant
  | d2dDelivery
  | noticeWindow
  | hubNotice
  | multicastApply
  | biryarFlitReceive
  | biryarNack
  | laneFallback
  | portDown
  | pathResend
  | endToEndAck
  | headerError
  | packetAbandon
  | coreStateParity
  | activate
  | cancel
  | hostRegisterWrite
  | vfEnable
  | ebstatWrite
  | ebceWrite
  | kernNode
  | kernelPlacement
  | stagingComplete
  | copyNode
  | condNode
  | loopNode
  | joinNode
  | signalNode
  | endNode
  | kernelEnd
  | tenantPoolCreate
  | preemptRequest
  | preemptSave
  | preemptWithdraw
  | resumption
  | powerOn
  | moduleOsInit
  | spdmRequest
  | pldmReport
  | pldmFwUpdate
  | powerLimitSet
  | thermalLimit
  | lifeRecordUpdate
  | kernelImageLoad
  | tenantPoolDestroy
  | coreOwnershipChange
  | biryarPortTrained
  | biryarStatusWrite
  | vfDisable
  | powerLoss
deriving DecidableEq, Repr

/-- The row of the opcode table that an event belongs to. -/
def Event.row : Event → Instr
  | .engineDispatch _ => .engineDispatch
  | .resultLanding => .resultLanding
  | .group4ReadPromotion _ _ => .group4ReadPromotion
  | .handlerTrap => .handlerTrap
  | .rttResume => .rttResume
  | .haltComplete => .haltComplete
  | .modesetComplete => .modesetComplete
  | .qdrainComplete => .qdrainComplete
  | .fenceAck _ => .fenceAck
  | .semwaitSatisfied _ => .semwaitSatisfied
  | .semRemoteService _ _ _ _ _ _ => .semRemoteService
  | .poolService _ => .poolService
  | .ringService _ => .ringService
  | .ringWaitServiced _ => .ringWaitServiced
  | .homeReplyArrival _ _ _ => .homeReplyArrival
  | .lateAccessArrival _ => .lateAccessArrival
  | .evqRecordArrival _ => .evqRecordArrival
  | .copyComplete _ _ => .copyComplete
  | .copyDispatchFaultRecord _ _ => .copyDispatchFaultRecord
  | .memoryPortArrival _ _ => .memoryPortArrival
  | .nodeArmingRecord _ _ => .nodeArmingRecord
  | .reductionPacketArrival _ => .reductionPacketArrival
  | .nodeDeadline _ _ => .nodeDeadline
  | .rootRecordWrite _ _ => .rootRecordWrite
  | .rcontAnswer _ _ _ => .rcontAnswer
  | .iterationStart _ => .iterationStart
  | .tlbMissResolved _ _ => .tlbMissResolved
  | .pageFaultResolved _ _ _ => .pageFaultResolved
  | .tlbinvComplete _ => .tlbinvComplete
  | .replayRereadDone _ => .replayRereadDone
  | .wsBackstopRefresh _ _ => .wsBackstopRefresh
  | .wsRefreshEnd _ _ => .wsRefreshEnd
  | .hbmRefresh _ _ _ => .hbmRefresh
  | .patrolScrub _ _ _ _ => .patrolScrub
  | .hbmLaneRepair _ _ _ => .hbmLaneRepair
  | .hbmRepairPauseEnd _ _ => .hbmRepairPauseEnd
  | .cxlPortFailure _ => .cxlPortFailure
  | .crossbarGrant _ _ => .crossbarGrant
  | .d2dDelivery _ _ => .d2dDelivery
  | .noticeWindow _ => .noticeWindow
  | .hubNotice => .hubNotice
  | .multicastApply _ _ _ => .multicastApply
  | .biryarFlitReceive _ _ _ => .biryarFlitReceive
  | .biryarNack _ _ => .biryarNack
  | .laneFallback _ _ => .laneFallback
  | .portDown _ => .portDown
  | .pathResend _ => .pathResend
  | .endToEndAck _ _ => .endToEndAck
  | .headerError _ _ _ _ => .headerError
  | .packetAbandon _ _ _ _ => .packetAbandon
  | .coreStateParity _ _ => .coreStateParity
  | .activate _ _ => .activate
  | .cancel _ _ => .cancel
  | .hostRegisterWrite _ _ => .hostRegisterWrite
  | .vfEnable => .vfEnable
  | .ebstatWrite _ _ _ => .ebstatWrite
  | .ebceWrite _ _ _ => .ebceWrite
  | .kernNode _ => .kernNode
  | .kernelPlacement _ => .kernelPlacement
  | .stagingComplete _ => .stagingComplete
  | .copyNode _ => .copyNode
  | .condNode _ => .condNode
  | .loopNode _ => .loopNode
  | .joinNode _ => .joinNode
  | .signalNode _ => .signalNode
  | .endNode _ => .endNode
  | .kernelEnd _ => .kernelEnd
  | .tenantPoolCreate _ _ _ _ => .tenantPoolCreate
  | .preemptRequest _ => .preemptRequest
  | .preemptSave _ => .preemptSave
  | .preemptWithdraw _ => .preemptWithdraw
  | .resumption _ => .resumption
  | .powerOn => .powerOn
  | .moduleOsInit _ _ _ _ _ => .moduleOsInit
  | .spdmRequest _ => .spdmRequest
  | .pldmReport => .pldmReport
  | .pldmFwUpdate _ _ => .pldmFwUpdate
  | .powerLimitSet _ => .powerLimitSet
  | .thermalLimit _ _ _ => .thermalLimit
  | .lifeRecordUpdate => .lifeRecordUpdate
  | .kernelImageLoad _ _ _ _ _ _ _ => .kernelImageLoad
  | .tenantPoolDestroy _ => .tenantPoolDestroy
  | .coreOwnershipChange _ _ => .coreOwnershipChange
  | .biryarPortTrained _ _ => .biryarPortTrained
  | .biryarStatusWrite _ => .biryarStatusWrite
  | .vfDisable => .vfDisable
  | .powerLoss => .powerLoss

end Sys2Proof
end

