-- ==== Sys2Proof/Machine/FieldRules.lean ====
section
/-! DEFINITION. The field rules of the instruction encodings (R58–R71, R76 and the entries they point to): which operand
kinds, MOD bits, predicates, XFN bits, register groups, scopes and ranges each instruction accepts. A breach is an illegal
instruction raised when the instruction would issue. -/

namespace Sys2Proof

/-- Why an encoding is an illegal instruction (R76). -/
inductive FieldFault
  /-- A major, FN, OPX or COND that R69–R74 leave unassigned. -/
  | unassigned
  /-- A reserved or unused field is not zero. -/
  | reserved
  /-- An operand kind that the position does not accept, or non-zero bits outside the kind's fields (R61). -/
  | operandKind
  /-- A register group outside R67. -/
  | registerGroup
  /-- A scope that the instruction forbids (R68, R71). -/
  | scope
  /-- LIT where R62 forbids it, or its absence where R220 requires it. -/
  | literal
  /-- A MOD bit without meaning for the instruction (R64, R132, R169, R189). -/
  | modBits
  /-- PM, PZ or PEN where R64 forbids it. -/
  | predicate
  /-- XFN bits that the entry does not define, or a field of XFN out of its range. -/
  | xfn
  /-- M field ranges or FT conflicts (R66). -/
  | mRange
  /-- LOOP or LOOPI body length 0. -/
  | bodyLength
  /-- FENCE kind 00 or NUL 11 (R70, R76). -/
  | code
  /-- An event of the part, which has no encoding. -/
  | noEncoding
deriving DecidableEq, Repr

/-- What one operand position of a V instruction accepts (R130, R169, R202, R220). -/
inductive OperandUse
  | absent | view | viewStep1 | viewNoStep0 | ring | reg | group4 | maskDst | mask | perm
deriving DecidableEq, Repr

/-- Where LIT is accepted (R62, R220): never; with an element format that R62 admits; with any format, where S2 does not hold
elements of the instruction's format; always. -/
inductive LitUse | never | allowed | anyFormat | required
deriving DecidableEq, Repr

/-- Which predicate fields are accepted. -/
inductive PredUse | none | full | maskOnly
deriving DecidableEq, Repr

/-- The field rule of one V instruction. `transfer` marks majors 0x08–0x0A, where bit 21 is PEN. -/
structure VRule where
  d        : List OperandUse
  s1       : List OperandUse
  s2       : List OperandUse
  lit      : LitUse := .never
  mods     : BitVec 4 := 0
  pred     : PredUse := .none
  xfn      : BitVec 16 := 0
  transfer : Bool := false
  pen      : Bool := false
  cpScope   : Bool := false
deriving DecidableEq, Repr

/-- A register group of `k` registers from `n` (R67). -/
def groupOk (n : Reg) (k : Nat) : Bool := 1 ≤ n.val && n.val + k ≤ 32

/-- One accepted use of an operand position; the ring as a destination has depth 0 (R61). -/
def useAccepts (isDst : Bool) (o : Operand) : OperandUse → Bool
  | .absent => o = .view 0 0 0 0
  | .view => match o with | .view _ _ _ _ => true | _ => false
  | .viewStep1 => match o with | .view _ _ st _ => st = 0 | _ => false
  | .viewNoStep0 => match o with | .view _ _ st _ => st ≠ 3 | _ => false
  | .ring => match o with | .ring dep => !isDst || dep = 0 | _ => false
  | .reg => match o with | .reg _ => true | _ => false
  | .group4 => match o with | .reg n => groupOk n 4 | _ => false
  | .maskDst => match o with | .special n => 1 ≤ n.val && n.val ≤ 7 | _ => false
  | .mask => match o with | .special n => n.val ≤ 7 | _ => false
  | .perm => match o with | .special _ => true | _ => false

/-- The position accepts the operand. -/
def positionOk (isDst : Bool) (us : List OperandUse) (o : Operand) : Bool := us.any (useAccepts isDst o)

/-- The scope code in MOD 24:22 of a CP instruction (R64). -/
def scopeOfCode (n : Nat) : Scope :=
  match n % 8 with
  | 0 => .eng | 1 => .core | 2 => .group | 3 => .die | 4 => .device | 5 => .peer | 6 => .host | _ => .system

/-- The code of a scope (R68). -/
def scopeCode : Scope → Nat
  | .eng => 0 | .core => 1 | .group => 2 | .die => 3 | .device => 4 | .peer => 5 | .host => 6 | .system => 7

/-- The XFN bits that the rule and PEN allow. -/
def VRule.xfnMask (r : VRule) (v : VWord) : BitVec 16 := if r.transfer && v.bit21 then r.xfn ||| 0xF000#16 else r.xfn

/-- The element formats with which R62 forbids a literal second source. -/
def noLiteralFormat (f : Nat) : Bool := f = 5 || f = 6 || f = 7 || f = 13 || (15 ≤ f && f ≤ 18)

/-- The check of one V instruction against its rule. -/
def VRule.check (r : VRule) (v : VWord) : Option FieldFault :=
  let isLit := match v.s2 with | .lit _ => true | .op _ => false
  if isLit && (r.lit = .never || (r.lit = .allowed && noLiteralFormat v.fmt.toNat)) then some .literal
  else if !isLit && r.lit = .required then some .literal
  else if isLit && v.xfn ≠ 0 then some .literal
  else if isLit && r.transfer && v.bit21 then some .literal
  else if !positionOk true r.d v.d || !positionOk false r.s1 v.s1 then some .operandKind
  else if (match v.s2 with | .lit _ => false | .op o => !positionOk false r.s2 o) then some .operandKind
  else if r.transfer && v.fmt ≠ 0 then some .reserved
  else if r.cpScope && (v.mod.toNat ≥ 8 || v.mod.toNat % 8 = 0) then some .scope
  else if !r.cpScope && v.mod &&& ~~~r.mods ≠ 0 then some .modBits
  else if r.transfer && v.pm ≠ 0 then some .predicate
  else if r.transfer && v.bit21 && !r.pen then some .predicate
  else if !r.transfer && v.bit21 && (v.pm = 0 || r.pred ≠ .full) then some .predicate
  else if !r.transfer && v.pm ≠ 0 && r.pred = .none then some .predicate
  else if v.xfn &&& ~~~(r.xfnMask v) ≠ 0 then some .xfn
  else none

/-! ### The rules, family by family -/

/-- Binary arithmetic of major 0x00 (R130, R135). DEDUCED (log entry 66): the instructions for integer formats alone take any
rounding and STO bits, which R132 ignores there; R135 forbids SAT in the shifts alone. -/
def ruleBinary (mods : BitVec 4) : VRule :=
  { d := [.view, .ring], s1 := [.view, .ring, .reg], s2 := [.view, .ring, .reg], lit := .allowed, mods, pred := .full }

/-- Major 0x00 instructions that read D as a source (R130). -/
def ruleReadD : VRule := { ruleBinary 15 with d := [.view] }

/-- Unary instructions of majors 0x00 and 0x02. -/
def ruleUnary (mods : BitVec 4) : VRule :=
  { d := [.view, .ring], s1 := [.view, .ring, .reg], s2 := [.absent], mods, pred := .full }

/-- Compares (R136). -/
def ruleCompare : VRule := { ruleBinary 0 with d := [.view, .ring, .maskDst] }

/-- Reductions of major 0x03 (R139). -/
def ruleReduce (mods : BitVec 4) : VRule :=
  { d := [.view, .ring], s1 := [.view, .ring], s2 := [.absent], mods, pred := .full }

/-- Selection instructions with an index source and view (R141). -/
def ruleSelect (xfn : BitVec 16) : VRule :=
  { d := [.view, .ring], s1 := [.view, .ring], s2 := [.view, .reg], pred := .full, xfn }

/-- Conversions of major 0x06 (R169, R170). -/
def ruleConvert (mods : BitVec 4) (pred : PredUse) (xfn : BitVec 16) : VRule :=
  { d := [.view, .ring], s1 := [.view, .ring], s2 := [.absent], mods, pred, xfn := xfn ||| 0x1F#16 }

/-- Loads and other LD instructions (R220). -/
def ruleTransfer (d s1 s2 : List OperandUse) (lit : LitUse) (xfn : BitVec 16) (pen : Bool) : VRule :=
  { d, s1, s2, lit, xfn, transfer := true, pen }

/-- CP instructions (R220). -/
def ruleCopy (d s1 s2 : List OperandUse) (lit : LitUse) (xfn : BitVec 16) (pen : Bool) : VRule :=
  { ruleTransfer d s1 s2 lit xfn pen with cpScope := true }

/-- XFN of a conversion with a view source holds no SFMT (R167). -/
def sfmtOk (v : VWord) : Bool :=
  match v.s1 with | .view _ _ _ _ => v.xfn.toNat % 32 = 0 | _ => true

/-- The check of a conversion. -/
def checkConvert (r : VRule) (v : VWord) : Option FieldFault :=
  (r.check v).or (if sfmtOk v then none else some .xfn)

/-- The row count N of PLD, PRAND and PIDN is 1–256 (R202). -/
def checkCount (r : VRule) (v : VWord) : Option FieldFault :=
  (r.check v).or (if 1 ≤ v.xfn.toNat % 512 && v.xfn.toNat % 512 ≤ 256 then none else some .xfn)

/-- VBCAST from a register has j = 0 (R144). -/
def checkVbcast (v : VWord) : Option FieldFault :=
  (VRule.check { d := [.view, .ring], s1 := [.view, .ring, .reg], s2 := [.absent], pred := .full, xfn := 0x1FF } v).or
    (match v.s1 with | .reg _ => if v.xfn = 0 then none else some .xfn | _ => none)

/-- TLDW: WSLOT + n − 1 ≤ 63 (R220). -/
def checkTldw (v : VWord) : Option FieldFault :=
  ((ruleTransfer [.absent] [.reg] [.absent] .never 0xFFF true).check v).or
    (if v.xfn.toNat % 64 + v.xfn.toNat / 64 % 64 ≤ 63 then none else some .xfn)

/-- WREF: group 0–31 (R220). -/
def checkWref (v : VWord) : Option FieldFault :=
  ((ruleTransfer [.absent] [.absent] [] .required 0 false).check v).or
    (match v.s2 with | .lit l => if l.toNat ≤ 31 then none else some .literal | _ => none)

/-- CPYA op 0–5 and CATOM op 0–2 (R220). -/
def checkOp (r : VRule) (width lim : Nat) (v : VWord) : Option FieldFault :=
  (r.check v).or (if v.xfn.toNat % width < lim then none else some .xfn)

/-! ### M instructions (R66, R189, R195, R196) -/

/-- A tile step: MOD holds SAT alone, SVIEW only with ASC, DFMT, drain fields and scale zero, FT conflicts. -/
def checkTileStep (m : MWord) : Option FieldFault :=
  if m.acc.val + m.mrepM1.val > 3 || m.wslot.val + m.kstepM1.val > 63 then some .mRange
  else if m.mod &&& 0b1011#4 ≠ 0 then some .modBits
  else if (!m.asc && m.sview ≠ 0) || m.qview ≠ 0 || m.dfmt ≠ 0 || m.drow ≠ 0 || m.dview ≠ 0 || m.scale ≠ 0 then some .reserved
  else if m.ft && (m.afmt ≠ 0 || m.bfmt ≠ 0 || m.cfmt ≠ 0 || m.mod ≠ 0) then some .mRange
  else none

/-- The A and B side fields are zero, as in the drains. -/
def noTileFields (m : MWord) : Bool :=
  !m.asc && !m.za && m.aview = 0 && m.kstepM1 = 0 && m.wslot = 0 && m.akb = 0 && m.arow = 0 && m.sview = 0 &&
  m.afmt = 0 && m.bfmt = 0

/-- MDRAIN: QVIEW and parcel 4 not both set (R195). -/
def checkMdrain (m : MWord) : Option FieldFault :=
  if m.acc.val + m.mrepM1.val > 3 then some .mRange
  else if !noTileFields m || m.cfmt ≠ 0 then some .reserved
  else if m.qview ≠ 0 && m.scale ≠ 0 then some .reserved
  else if m.ft && (m.dfmt ≠ 0 || m.mod ≠ 0) then some .mRange
  else none

/-- MDRAINMX: SAT and parcel 4 zero (R196). -/
def checkMdrainmx (m : MWord) : Option FieldFault :=
  if m.acc.val + m.mrepM1.val > 3 then some .mRange
  else if !noTileFields m || m.cfmt ≠ 0 || m.scale ≠ 0 then some .reserved
  else if m.mod &&& 0b0100#4 ≠ 0 then some .modBits
  else if m.ft && (m.dfmt ≠ 0 || m.mod ≠ 0) then some .mRange
  else none

/-- MLDAC: DVIEW, DROW and CFMT besides ACC and MREP. -/
def checkMldac (m : MWord) : Option FieldFault :=
  if m.acc.val + m.mrepM1.val > 3 then some .mRange
  else if !noTileFields m || m.ft || m.mod ≠ 0 || m.qview ≠ 0 || m.dfmt ≠ 0 || m.scale ≠ 0 then some .reserved
  else none

/-- MCLR: ACC and MREP alone. -/
def checkMclr (m : MWord) : Option FieldFault :=
  if m.acc.val + m.mrepM1.val > 3 then some .mRange
  else if !noTileFields m || m.ft || m.mod ≠ 0 || m.cfmt ≠ 0 || m.qview ≠ 0 || m.dfmt ≠ 0 || m.drow ≠ 0 || m.dview ≠ 0 ||
      m.scale ≠ 0 then some .reserved
  else none

/-- The fields neither WBLD nor WBINV uses are zero. -/
def noDrainFields (m : MWord) : Bool :=
  !m.asc && !m.za && !m.ft && m.mrepM1 = 0 && m.acc = 0 && m.akb = 0 && m.mod = 0 && m.sview = 0 && m.cfmt = 0 &&
  m.afmt = 0 && m.qview = 0 && m.dfmt = 0 && m.drow = 0 && m.dview = 0 && m.scale = 0

/-- WBLD: AVIEW, AROW, WSLOT, KSTEPS−1, BFMT. -/
def checkWbld (m : MWord) : Option FieldFault :=
  if m.wslot.val + m.kstepM1.val > 63 then some .mRange
  else if !noDrainFields m then some .reserved
  else none

/-- WBINV: WSLOT, KSTEPS−1. -/
def checkWbinv (m : MWord) : Option FieldFault :=
  if m.wslot.val + m.kstepM1.val > 63 then some .mRange
  else if !noDrainFields m || m.aview ≠ 0 || m.arow ≠ 0 || m.bfmt ≠ 0 then some .reserved
  else none

/-! ### S and L instructions -/

/-- ENG is illegal in the SEM, POOL and RING majors (R71). -/
def checkScope (s : Scope) : Option FieldFault := if s = .eng then some .scope else none

/-- A group of `k` registers. -/
def checkGroup (d : Reg) (k : Nat) : Option FieldFault := if groupOk d k then none else some .registerGroup

/-- CPYA, CATOM, RNODE rules. -/
def ruleCpya : VRule := ruleCopy [.reg] [.reg] [.absent] .never 7 false
def ruleCatom : VRule := ruleCopy [.viewNoStep0] [.reg] [.view] .never 3 false

/-- The field rule of every instruction: none where the encoding is legal (R76). -/
def fieldFault : Instr → Option FieldFault
  | .add _ _ _ _ | .sub _ _ _ _ | .and _ _ _ _ | .or _ _ _ _ | .xor _ _ _ _ | .andn _ _ _ _ | .sll _ _ _ _
  | .srl _ _ _ _ | .sra _ _ _ _ | .rol _ _ _ _ | .mul _ _ _ _ | .mulh _ _ _ _ | .mulhu _ _ _ _ | .div _ _ _ _
  | .divu _ _ _ _ | .rem _ _ _ _ | .remu _ _ _ _ | .min _ _ _ _ | .max _ _ _ _ | .minu _ _ _ _ | .maxu _ _ _ _
  | .slt _ _ _ _ | .sltu _ _ _ _ | .seq _ _ _ _ | .clz _ _ _ | .ctz _ _ _ | .popc _ _ _ | .brev _ _ _
  | .bswap _ _ _ | .movz _ _ _ _ | .movn _ _ _ _ => none
  | .addi _ _ _ | .andi _ _ _ | .ori _ _ _ | .xori _ _ _ | .slli _ _ _ | .srli _ _ _ | .srai _ _ _ | .slti _ _ _
  | .sltiu _ _ _ | .seqi _ _ _ => none
  | .ldb _ _ _ | .ldbu _ _ _ | .ldh _ _ _ | .ldhu _ _ _ | .ldw _ _ _ | .ldwu _ _ _ | .ldd _ _ _ | .stb _ _ _
  | .sth _ _ _ | .stw _ _ _ | .std _ _ _ => none
  | .beq _ _ _ _ | .bne _ _ _ _ | .blt _ _ _ _ | .bge _ _ _ _ | .bltu _ _ _ _ | .bgeu _ _ _ _ | .bra _ _
  | .jalr _ _ _ => none
  | .nop | .halt | .trap _ | .rtt | .fence _ _ | .qdrain _ | .modeset _ | .segb | .tmark | .gset _ _ | .gclr _ _
  | .tlbinv _ _ | .lbrk _ => none
  | .evpop d | .evpeek d => checkGroup d 2
  | .csrr _ _ | .csrw _ _ _ | .csrs _ _ _ | .csrc _ _ _ => none
  | .loop _ _ _ _ len => if len = 0 then some .bodyLength else none
  | .semadd _ sc _ | .semset _ sc _ | .semwait _ sc _ => checkScope sc
  | .semrd _ _ => none
  | .semradd _ sc _ _ => checkScope sc
  | .semmset _ sc _ b => (checkScope sc).or (checkGroup b 2)
  | .pwbegin d _ => checkGroup d 3
  | .pwend _ sc => checkScope sc
  | .pwnext d _ sc | .prbegin d _ sc | .prnext d _ sc => (checkScope sc).or (checkGroup d 3)
  | .prend _ => none
  | .pquery d _ => checkGroup d 3
  | .racq _ _ sc | .rpub _ sc | .rfree _ sc | .rclose _ sc _ => checkScope sc
  | .rtake d _ sc => (checkScope sc).or (checkGroup d 2)
  | .rbrk _ | .rstat _ _ | .launch _ | .launchs _ | .vwset _ _ _ => none
  | .vwget d _ => checkGroup d 2
  | .shpset _ | .ftset _ _ => none
  | .mset i _ _ => if 1 ≤ i.val && i.val ≤ 7 then none else some .reserved
  | .rotset _ _ => none
  | .li _ _ | .lih _ _ | .addil _ _ _ | .andil _ _ _ | .oril _ _ _ | .xoril _ _ _ | .jal _ _ => none
  | .beqi _ _ _ _ | .bnei _ _ _ _ | .blti _ _ _ _ | .bgei _ _ _ _ | .bltui _ _ _ _ | .bgeui _ _ _ _ => none
  | .loopi _ _ _ len _ => if len = 0 then some .bodyLength else none
  | .sege _ _ => none
  | .vadd v | .vsub v | .vmul v | .vmin v | .vmax v | .vavg v | .vclamp v | .vabsd v => (ruleBinary 15).check v
  | .vfma v | .vfms v | .vfnma v | .vaddsub v => ruleReadD.check v
  | .vabs v | .vneg v => (ruleUnary 4).check v
  | .vmulh v => (ruleBinary 15).check v
  | .vshl v | .vshr v | .vsra v => (ruleBinary 11).check v
  | .vand v | .vor v | .vxor v => (ruleBinary 0).check v
  | .vnot v | .vmov v => (ruleUnary 0).check v
  | .vsel v => VRule.check { ruleBinary 0 with xfn := 7 } v
  | .vcmpeq v | .vcmpne v | .vcmplt v | .vcmple v | .vcmpgt v | .vcmpge v => ruleCompare.check v
  | .vclass v => VRule.check { ruleCompare with s2 := [.absent], lit := .never, xfn := 0x3FF } v
  | .vrcp v | .vrsqrt v | .vsqrt v | .vexp2 v | .vlog2 v | .vexp v | .vtanh v | .vsigm v | .vsilu v | .vgelu v | .vsin v
  | .vcos v => (ruleUnary 15).check v
  | .vdiv v => (ruleBinary 15).check v
  | .vrsum v | .vcsum v | .vscan v => (ruleReduce 15).check v
  | .vrmax v | .vrmin v | .vramax v | .vcmax v => (ruleReduce 0).check v
  | .vdot v => VRule.check { ruleReduce 15 with s2 := [.view, .ring] } v
  | .vtopk v | .vmrgk v => (ruleSelect 0x9F7F).check v
  | .vsortr v => (ruleSelect 0x9F00).check v
  | .vcompr v | .vexpnd v => VRule.check { ruleReduce 0 with pred := .maskOnly } v
  | .vbcast v => checkVbcast v
  | .vtrans v => (ruleReduce 0).check v
  | .viota v => VRule.check { d := [.view, .ring], s1 := [.reg], s2 := [.reg], lit := .allowed, mods := 15, pred := .full } v
  | .vgathr v => VRule.check { ruleReduce 0 with s2 := [.view] } v
  | .vscatr v => VRule.check { ruleReduce 0 with d := [.view], s2 := [.view], pred := .maskOnly } v
  | .vcvt v => checkConvert (ruleConvert 15 .full 0) v
  | .vrqnt v => checkConvert { ruleConvert 15 .full 0x20 with s2 := [.view, .ring, .reg], lit := .anyFormat } v
  | .vmxq v => checkConvert (ruleConvert 11 .none 0x1F00) v
  | .vmxdq v => checkConvert (ruleConvert 15 .full 0x1F00) v
  | .vunpk3 v => checkConvert (ruleConvert 0 .none 0x8000) v
  | .vpack3 v => checkConvert (ruleConvert 0 .none 0) v
  | .vunpk4 v => checkConvert (ruleConvert 0 .none 0) v
  | .vpack4 v => checkConvert (ruleConvert 4 .none 0) v
  | .vsat v => checkConvert (ruleConvert 0 .full 0) v
  | .vrnd v => checkConvert (ruleConvert 11 .full 0) v
  | .pld v => checkCount { d := [.perm], s1 := [.viewStep1], s2 := [.absent], xfn := 0x1FF } v
  | .pst v | .pcycv v => VRule.check { d := [.viewStep1], s1 := [.perm], s2 := [.absent] } v
  | .pcomp v => VRule.check { d := [.perm], s1 := [.perm], s2 := [.perm] } v
  | .pinv v => VRule.check { d := [.perm], s1 := [.perm], s2 := [.absent] } v
  | .ppow v | .pxch v => VRule.check { d := [.perm], s1 := [.perm], s2 := [.reg], lit := .anyFormat } v
  | .prand v => checkCount { d := [.perm], s1 := [.reg], s2 := [.absent], xfn := 0x1FF } v
  | .pidn v => checkCount { d := [.perm], s1 := [.absent], s2 := [.absent], xfn := 0x1FF } v
  | .pcyc v => VRule.check { d := [.group4], s1 := [.perm], s2 := [.absent] } v
  | .vperm v => VRule.check { d := [.view, .ring], s1 := [.view, .ring], s2 := [.perm], pred := .full } v
  | .tld v => (ruleTransfer [.viewNoStep0] [.reg] [.absent] .never 0 true).check v
  | .tldi v => (ruleTransfer [.viewNoStep0] [.reg] [.absent] .never 0 false).check v
  | .tldw v => checkTldw v
  | .tpref v | .sadv v => (ruleTransfer [.absent] [.reg] [] .required 0 false).check v
  | .sbind v => (ruleTransfer [.reg] [.viewStep1] [.absent] .never 0 false).check v
  | .wref v => checkWref v
  | .tst v => (ruleTransfer [.reg] [.view] [.absent] .never 0 true).check v
  | .tsti v => (ruleTransfer [.reg] [.view] [.absent] .never 0 false).check v
  | .tstm v => (ruleTransfer [.reg] [.view] [.mask] .never 0 false).check v
  | .cpy v => (ruleCopy [.reg] [.reg] [.absent] .never 0 true).check v
  | .cpya v => checkOp ruleCpya 8 6 v
  | .cmcast v => (ruleCopy [.reg] [.reg] [.view] .never 0 false).check v
  | .catom v => checkOp ruleCatom 4 3 v
  | .cfill v => (ruleCopy [.reg] [.absent] [] .required 0 false).check v
  | .rnode v => (ruleCopy [.viewNoStep0] [.view] [.absent] .never 7 false).check v
  | .rcont v => (ruleCopy [.absent] [.view] [] .required 0 false).check v
  | .wstore v => (ruleCopy [.reg] [.reg] [.absent] .never 0 false).check v
  | .mma m | .mmas m | .mmat m => checkTileStep m
  | .mdrain m => checkMdrain m
  | .mdrainmx m => checkMdrainmx m
  | .mldac m => checkMldac m
  | .mclr m => checkMclr m
  | .wbld m => checkWbld m
  | .wbinv m => checkWbinv m
  | .engineDispatch | .resultLanding | .group4ReadPromotion | .handlerTrap
  | .rttResume | .haltComplete | .modesetComplete | .qdrainComplete
  | .fenceAck | .semwaitSatisfied | .semRemoteService | .poolService
  | .ringService | .ringWaitServiced | .homeReplyArrival | .lateAccessArrival
  | .evqRecordArrival | .copyComplete | .copyDispatchFaultRecord | .memoryPortArrival
  | .nodeArmingRecord | .reductionPacketArrival | .nodeDeadline | .rootRecordWrite
  | .rcontAnswer | .iterationStart | .tlbMissResolved | .pageFaultResolved
  | .tlbinvComplete | .replayRereadDone | .wsBackstopRefresh | .wsRefreshEnd
  | .hbmRefresh | .patrolScrub | .hbmLaneRepair | .hbmRepairPauseEnd
  | .cxlPortFailure | .crossbarGrant | .d2dDelivery | .noticeWindow
  | .hubNotice | .multicastApply | .biryarFlitReceive | .biryarNack
  | .laneFallback | .portDown | .pathResend | .endToEndAck
  | .headerError | .packetAbandon | .coreStateParity | .activate
  | .cancel | .hostRegisterWrite | .vfEnable | .ebstatWrite
  | .ebceWrite | .kernNode | .kernelPlacement | .stagingComplete
  | .copyNode | .condNode | .loopNode | .joinNode
  | .signalNode | .endNode | .kernelEnd | .tenantPoolCreate
  | .preemptRequest | .preemptSave | .preemptWithdraw | .resumption
  | .powerOn | .moduleOsInit | .spdmRequest | .pldmReport
  | .pldmFwUpdate | .powerLimitSet | .thermalLimit | .lifeRecordUpdate
  | .kernelImageLoad | .tenantPoolDestroy | .coreOwnershipChange | .biryarPortTrained
  | .biryarStatusWrite | .vfDisable | .powerLoss => some .noEncoding

end Sys2Proof
end

