-- ==== Sys2Proof/WellFormed.lean ====
section
/-! DEFINITION. Well-formed instructions: those whose fields obey R58–R71 and R76. -/

namespace Sys2Proof

/-- An instruction whose encoding is legal. -/
def WellFormed (i : Instr) : Bool := fieldFault i = none

end Sys2Proof
end

