-- ==== Sys2Proof/Decode.lean ====
section
/-! DEFINITION. Framing and decoding of the four formats (R56–R74), total on any parcels and rejecting by name, and the
encoder written from the same tables. A parcel is a natural number below 2^32; bit fields are read with `/` and `%`. -/

namespace Sys2Proof

/-! ### Fields -/

/-- Bits `lo + n − 1 : lo` of a parcel. -/
def fld (p lo n : Nat) : Nat := p / 2 ^ lo % 2 ^ n

/-- Bit `k` of a parcel. -/
def fbit (p k : Nat) : Bool := p / 2 ^ k % 2 = 1

/-- A register number in bits `lo + 4 : lo`. -/
def reg (p lo : Nat) : Reg := Fin.ofNat 32 (p / 2 ^ lo)

/-- The number of parcels of the instruction that begins with this parcel (R56). -/
def parcelCount (p : Nat) : Nat := match p % 4 with | 0 => 1 | 1 => 2 | 2 => 3 | _ => 6

/-- NUL of a branch (R69). -/
def nulOf (n : Nat) : Option Nul := match n with | 0 => some .none | 1 => some .notTaken | 2 => some .taken | _ => none

/-- FENCE kind (R70). -/
def fenceOf (n : Nat) : Option FenceKind := match n with | 1 => some .acq | 2 => some .rel | 3 => some .acqRel | _ => none

/-- A 16-bit operand field (R61). -/
def decodeOperand (f : Nat) : Option Operand :=
  match f % 4 with
  | 0 => some (.view (reg f 2) (reg f 7) (Fin.ofNat 4 (f / 2 ^ 12)) (Fin.ofNat 4 (f / 2 ^ 14)))
  | 1 => if fld f 5 11 = 0 then some (.ring (Fin.ofNat 8 (f / 2 ^ 2))) else none
  | 2 => if fld f 7 9 = 0 then some (.reg (reg f 2)) else none
  | _ => if fld f 6 10 = 0 then some (.special (Fin.ofNat 16 (f / 2 ^ 2))) else none

/-! ### Opcode maps -/

/-- Major 0x00 of S (R69): the instruction with this FN. -/
def decodeAlu (fn : Nat) (w : Bool) (d a b : Reg) : Option Instr :=
  match fn with
  | 0 => some (.add w d a b)
  | 1 => some (.sub w d a b)
  | 2 => some (.and w d a b)
  | 3 => some (.or w d a b)
  | 4 => some (.xor w d a b)
  | 5 => some (.andn w d a b)
  | 6 => some (.sll w d a b)
  | 7 => some (.srl w d a b)
  | 8 => some (.sra w d a b)
  | 9 => some (.rol w d a b)
  | 10 => some (.mul w d a b)
  | 11 => some (.mulh w d a b)
  | 12 => some (.mulhu w d a b)
  | 13 => some (.div w d a b)
  | 14 => some (.divu w d a b)
  | 15 => some (.rem w d a b)
  | 16 => some (.remu w d a b)
  | 17 => some (.min w d a b)
  | 18 => some (.max w d a b)
  | 19 => some (.minu w d a b)
  | 20 => some (.maxu w d a b)
  | 21 => some (.slt w d a b)
  | 22 => some (.sltu w d a b)
  | 23 => some (.seq w d a b)
  | 24 => if b = 0 then some (.clz w d a) else none
  | 25 => if b = 0 then some (.ctz w d a) else none
  | 26 => if b = 0 then some (.popc w d a) else none
  | 27 => if b = 0 then some (.brev w d a) else none
  | 28 => if b = 0 then some (.bswap w d a) else none
  | 29 => some (.movz w d a b)
  | 30 => some (.movn w d a b)
  | _ => none

/-- Major 0x00 of V (R73). -/
def decodeV00 (fn : Nat) (v : VWord) : Option Instr :=
  match fn with
  | 0 => some (.vadd v)
  | 1 => some (.vsub v)
  | 2 => some (.vmul v)
  | 3 => some (.vfma v)
  | 4 => some (.vfms v)
  | 5 => some (.vfnma v)
  | 6 => some (.vmin v)
  | 7 => some (.vmax v)
  | 8 => some (.vabs v)
  | 9 => some (.vneg v)
  | 10 => some (.vaddsub v)
  | 11 => some (.vavg v)
  | 12 => some (.vmulh v)
  | 13 => some (.vshl v)
  | 14 => some (.vshr v)
  | 15 => some (.vsra v)
  | 16 => some (.vand v)
  | 17 => some (.vor v)
  | 18 => some (.vxor v)
  | 19 => some (.vnot v)
  | 20 => some (.vsel v)
  | 21 => some (.vmov v)
  | 22 => some (.vclamp v)
  | 23 => some (.vabsd v)
  | _ => none

/-- Major 0x01 of V (R73). -/
def decodeV01 (fn : Nat) (v : VWord) : Option Instr :=
  match fn with
  | 0 => some (.vcmpeq v)
  | 1 => some (.vcmpne v)
  | 2 => some (.vcmplt v)
  | 3 => some (.vcmple v)
  | 4 => some (.vcmpgt v)
  | 5 => some (.vcmpge v)
  | 6 => some (.vclass v)
  | _ => none

/-- Major 0x02 of V (R73). -/
def decodeV02 (fn : Nat) (v : VWord) : Option Instr :=
  match fn with
  | 0 => some (.vrcp v)
  | 1 => some (.vrsqrt v)
  | 2 => some (.vsqrt v)
  | 3 => some (.vexp2 v)
  | 4 => some (.vlog2 v)
  | 5 => some (.vexp v)
  | 6 => some (.vtanh v)
  | 7 => some (.vsigm v)
  | 8 => some (.vsilu v)
  | 9 => some (.vgelu v)
  | 10 => some (.vsin v)
  | 11 => some (.vcos v)
  | 12 => some (.vdiv v)
  | _ => none

/-- Major 0x03 of V (R73). -/
def decodeV03 (fn : Nat) (v : VWord) : Option Instr :=
  match fn with
  | 0 => some (.vrsum v)
  | 1 => some (.vrmax v)
  | 2 => some (.vrmin v)
  | 3 => some (.vramax v)
  | 4 => some (.vcsum v)
  | 5 => some (.vcmax v)
  | 6 => some (.vscan v)
  | 7 => some (.vdot v)
  | _ => none

/-- Major 0x04 of V (R73). -/
def decodeV04 (fn : Nat) (v : VWord) : Option Instr :=
  match fn with
  | 0 => some (.vtopk v)
  | 1 => some (.vsortr v)
  | 2 => some (.vmrgk v)
  | 3 => some (.vcompr v)
  | 4 => some (.vexpnd v)
  | _ => none

/-- Major 0x05 of V (R73). -/
def decodeV05 (fn : Nat) (v : VWord) : Option Instr :=
  match fn with
  | 0 => some (.vbcast v)
  | 1 => some (.vtrans v)
  | 2 => some (.viota v)
  | 3 => some (.vgathr v)
  | 4 => some (.vscatr v)
  | _ => none

/-- Major 0x06 of V (R73). -/
def decodeV06 (fn : Nat) (v : VWord) : Option Instr :=
  match fn with
  | 0 => some (.vcvt v)
  | 1 => some (.vrqnt v)
  | 2 => some (.vmxq v)
  | 3 => some (.vmxdq v)
  | 4 => some (.vunpk3 v)
  | 5 => some (.vpack3 v)
  | 6 => some (.vunpk4 v)
  | 7 => some (.vpack4 v)
  | 8 => some (.vsat v)
  | 9 => some (.vrnd v)
  | _ => none

/-- Major 0x07 of V (R73). -/
def decodeV07 (fn : Nat) (v : VWord) : Option Instr :=
  match fn with
  | 0 => some (.pld v)
  | 1 => some (.pst v)
  | 2 => some (.pcomp v)
  | 3 => some (.pinv v)
  | 4 => some (.ppow v)
  | 5 => some (.prand v)
  | 6 => some (.pidn v)
  | 7 => some (.pcyc v)
  | 8 => some (.pxch v)
  | 9 => some (.vperm v)
  | 10 => some (.pcycv v)
  | _ => none

/-- Major 0x08 of V (R73). -/
def decodeV08 (fn : Nat) (v : VWord) : Option Instr :=
  match fn with
  | 0 => some (.tld v)
  | 1 => some (.tldi v)
  | 2 => some (.tldw v)
  | 3 => some (.tpref v)
  | 4 => some (.sbind v)
  | 5 => some (.sadv v)
  | 6 => some (.wref v)
  | _ => none

/-- Major 0x09 of V (R73). -/
def decodeV09 (fn : Nat) (v : VWord) : Option Instr :=
  match fn with
  | 0 => some (.tst v)
  | 1 => some (.tsti v)
  | 2 => some (.tstm v)
  | _ => none

/-- Major 0x0A of V (R73). -/
def decodeV0A (fn : Nat) (v : VWord) : Option Instr :=
  match fn with
  | 0 => some (.cpy v)
  | 1 => some (.cpya v)
  | 2 => some (.cmcast v)
  | 3 => some (.catom v)
  | 4 => some (.cfill v)
  | 5 => some (.rnode v)
  | 6 => some (.rcont v)
  | 7 => some (.wstore v)
  | _ => none

/-- The V instruction of a major and FN (R73). -/
def decodeVMajor (major fn : Nat) (v : VWord) : Option Instr :=
  match major with
  | 0 => decodeV00 fn v
  | 1 => decodeV01 fn v
  | 2 => decodeV02 fn v
  | 3 => decodeV03 fn v
  | 4 => decodeV04 fn v
  | 5 => decodeV05 fn v
  | 6 => decodeV06 fn v
  | 7 => decodeV07 fn v
  | 8 => decodeV08 fn v
  | 9 => decodeV09 fn v
  | 10 => decodeV0A fn v
  | _ => none

/-- The M instruction of a major and FN (R74). -/
def decodeMMajor (major fn : Nat) (m : MWord) : Option Instr :=
  match major, fn with
  | 0, 0 => some (.mma m)
  | 0, 1 => some (.mmas m)
  | 0, 2 => some (.mmat m)
  | 1, 0 => some (.mdrain m)
  | 1, 1 => some (.mdrainmx m)
  | 1, 2 => some (.mldac m)
  | 1, 3 => some (.mclr m)
  | 2, 0 => some (.wbld m)
  | 2, 1 => some (.wbinv m)
  | _, _ => none

/-! ### S format (R58, R69–R71) -/

/-- SYS, major 0x18 (R70): `f` is bits 22:8, whose unused bits must be zero. -/
def decodeSys (fn p : Nat) : Except FieldFault Instr :=
  let f := fld p 8 15
  let d := reg p 8
  let a := reg p 13
  let b := reg p 18
  let zero (i : Instr) : Except FieldFault Instr := if f = 0 then .ok i else .error .reserved
  match fn with
  | 0 => zero .nop
  | 1 => zero .halt
  | 2 => if b = 0 then .ok (.trap (BitVec.ofNat 10 f)) else .error .reserved
  | 3 => zero .rtt
  | 4 => if fld p 10 8 ≠ 0 || fld p 21 2 ≠ 0 then .error .reserved
         else match fenceOf (fld p 8 2) with
           | some k => .ok (.fence k (scopeOfCode (fld p 18 3)))
           | none => .error .code
  | 5 => if fld p 13 10 = 0 then .ok (.qdrain (BitVec.ofNat 5 f)) else .error .reserved
  | 6 => if fld p 11 12 = 0 then .ok (.modeset (BitVec.ofNat 3 f)) else .error .reserved
  | 7 => zero .segb
  | 8 => zero .tmark
  | 9 => if d = 0 then .ok (.gset a b) else .error .reserved
  | 10 => if d = 0 then .ok (.gclr a b) else .error .reserved
  | 11 => if fld p 13 10 = 0 then .ok (.evpop d) else .error .reserved
  | 12 => if fld p 13 10 = 0 then .ok (.evpeek d) else .error .reserved
  | 13 => if d = 0 then .ok (.tlbinv a b) else .error .reserved
  | 14 => if fld p 10 13 = 0 then .ok (.lbrk (Fin.ofNat 4 f)) else .error .reserved
  | _ => .error .unassigned

/-- BR, major 0x16 (R69, SB layout). -/
def decodeBr (p : Nat) : Except FieldFault Instr :=
  let a := reg p 8
  let b := reg p 13
  let disp := BitVec.ofNat 9 (fld p 23 9)
  match nulOf (fld p 21 2) with
  | none => .error .code
  | some nul =>
    match fld p 18 3 with
    | 0 => .ok (.beq a b nul disp)
    | 1 => .ok (.bne a b nul disp)
    | 2 => .ok (.blt a b nul disp)
    | 3 => .ok (.bge a b nul disp)
    | 4 => .ok (.bltu a b nul disp)
    | 5 => .ok (.bgeu a b nul disp)
    | 6 => if a = 0 && b = 0 then .ok (.bra nul disp) else .error .reserved
    | _ => .error .unassigned

/-- SX majors 0x1E–0x22 (R71). Each row checks the fields that it does not name. -/
def decodeSX (major p : Nat) : Except FieldFault Instr :=
  let i := reg p 27
  let b := reg p 18
  let a := reg p 13
  let d := reg p 8
  let dScope := scopeOfCode d.val
  let bScope := scopeOfCode b.val
  let need (c : Bool) (x : Instr) : Except FieldFault Instr := if c then .ok x else .error .reserved
  match major, fld p 23 4 with
  | 30, 0 => need (d.val < 8 && b = 0) (.semadd i dScope a)
  | 30, 1 => need (d.val < 8 && b = 0) (.semset i dScope a)
  | 30, 2 => need (d.val < 8 && b = 0) (.semwait i dScope a)
  | 30, 3 => need (a = 0 && b = 0) (.semrd d i)
  | 30, 4 => need (d.val < 8) (.semradd i dScope a b)
  | 30, 5 => need (d.val < 8) (.semmset i dScope a b)
  | 31, 0 => need (a = 0 && b = 0) (.pwbegin d i)
  | 31, 1 => need (a = 0 && d = 0 && b.val < 8) (.pwend i bScope)
  | 31, 2 => need (a = 0 && b.val < 8) (.pwnext d i bScope)
  | 31, 3 => need (a = 0 && b.val < 8) (.prbegin d i bScope)
  | 31, 4 => need (a = 0 && b = 0 && d = 0) (.prend i)
  | 31, 5 => need (a = 0 && b.val < 8) (.prnext d i bScope)
  | 31, 6 => need (a = 0 && b = 0) (.pquery d i)
  | 32, 0 => need (a = 0 && b.val < 8) (.racq d i bScope)
  | 32, 1 => need (a = 0 && d = 0 && b.val < 8) (.rpub i bScope)
  | 32, 2 => need (a = 0 && b.val < 8) (.rtake d i bScope)
  | 32, 3 => need (a = 0 && d = 0 && b.val < 8) (.rfree i bScope)
  | 32, 4 => need (a = 0 && d.val < 2 && b.val < 8) (.rclose i bScope (d = 1))
  | 32, 5 => need (a = 0 && d = 0 && b = 0) (.rbrk i)
  | 32, 6 => need (a = 0 && b = 0) (.rstat d i)
  | 33, 0 => need (i = 0 && b = 0 && d = 0) (.launch a)
  | 33, 1 => need (i = 0 && b = 0 && d = 0) (.launchs a)
  | 34, 0 => need (d = 0) (.vwset i a b)
  | 34, 1 => need (a = 0 && b = 0) (.vwget d i)
  | 34, 2 => need (i = 0 && b = 0 && d = 0) (.shpset a)
  | 34, 3 => need (i.val < 16 && b = 0 && d = 0) (.ftset (Fin.ofNat 16 i.val) a)
  | 34, 4 => need (d = 0) (.mset i a b)
  | 34, 5 => need (b = 0 && d = 0) (.rotset i a)
  | _, _ => .error .unassigned

/-- S-format instructions (R58, R69). -/
def decodeS (p : Nat) : Except FieldFault Instr :=
  let d := reg p 8
  let a := reg p 13
  let b := reg p 18
  let imm := BitVec.ofNat 14 (fld p 18 14)
  let sh := Fin.ofNat 64 (p / 2 ^ 18)
  let shift (i : Instr) : Except FieldFault Instr := if fld p 24 8 = 0 then .ok i else .error .reserved
  let idx := BitVec.ofNat 10 (fld p 18 10)
  let csr (i : Instr) : Except FieldFault Instr := if fld p 28 4 = 0 then .ok i else .error .reserved
  match fld p 2 6 with
  | 0x00 => if fbit p 31 then .error .reserved
            else match decodeAlu (fld p 23 7) (fbit p 30) d a b with
              | some i => .ok i
              | none => if fld p 23 7 < 31 then .error .reserved else .error .unassigned
  | 0x01 => .ok (.addi d a imm)
  | 0x02 => .ok (.andi d a imm)
  | 0x03 => .ok (.ori d a imm)
  | 0x04 => .ok (.xori d a imm)
  | 0x05 => shift (.slli d a sh)
  | 0x06 => shift (.srli d a sh)
  | 0x07 => shift (.srai d a sh)
  | 0x08 => .ok (.slti d a imm)
  | 0x09 => .ok (.sltiu d a imm)
  | 0x0A => .ok (.seqi d a imm)
  | 0x0B => .ok (.ldb d a imm)
  | 0x0C => .ok (.ldbu d a imm)
  | 0x0D => .ok (.ldh d a imm)
  | 0x0E => .ok (.ldhu d a imm)
  | 0x0F => .ok (.ldw d a imm)
  | 0x10 => .ok (.ldwu d a imm)
  | 0x11 => .ok (.ldd d a imm)
  | 0x12 => .ok (.stb d a imm)
  | 0x13 => .ok (.sth d a imm)
  | 0x14 => .ok (.stw d a imm)
  | 0x15 => .ok (.std d a imm)
  | 0x16 => decodeBr p
  | 0x17 => .ok (.jalr d a imm)
  | 0x18 => if fld p 30 2 = 0 then decodeSys (fld p 23 7) p else .error .reserved
  | 0x19 => if a = 0 then csr (.csrr d idx) else .error .reserved
  | 0x1A => csr (.csrw d a idx)
  | 0x1B => csr (.csrs d a idx)
  | 0x1C => csr (.csrc d a idx)
  | 0x1D => if fbit p 12 then .error .reserved
            else .ok (.loop (Fin.ofNat 4 (p / 2 ^ 8)) (fbit p 10) (fbit p 11) a imm)
  | m => if 30 ≤ m && m ≤ 34 then decodeSX m p else .error .unassigned

/-! ### L format (R59, R72) -/

/-- BEQI–BGEUI (R59). -/
def decodeBranchImm (p q : Nat) : Except FieldFault Instr :=
  let a := reg p 13
  let v := BitVec.ofNat 16 (fld q 0 16)
  let disp := BitVec.ofNat 16 (fld q 16 16)
  if fld p 8 5 ≠ 0 || fld p 23 9 ≠ 0 then .error .reserved
  else match nulOf (fld p 21 2) with
    | none => .error .code
    | some nul =>
      match fld p 18 3 with
      | 0 => .ok (.beqi a nul v disp)
      | 1 => .ok (.bnei a nul v disp)
      | 2 => .ok (.blti a nul v disp)
      | 3 => .ok (.bgei a nul v disp)
      | 4 => .ok (.bltui a nul v disp)
      | 5 => .ok (.bgeui a nul v disp)
      | _ => .error .unassigned

/-- L-format instructions. -/
def decodeL (p q : Nat) : Except FieldFault Instr :=
  let d := reg p 8
  let a := reg p 13
  let v := BitVec.ofNat 32 q
  let need (c : Bool) (x : Instr) : Except FieldFault Instr := if c then .ok x else .error .reserved
  let ext0 := decide (fld p 18 14 = 0)
  match fld p 2 6 with
  | 0x00 => need (ext0 && a = 0) (.li d v)
  | 0x01 => need (ext0 && a = 0) (.lih d v)
  | 0x02 => need ext0 (.addil d a v)
  | 0x03 => need ext0 (.andil d a v)
  | 0x04 => need ext0 (.oril d a v)
  | 0x05 => need ext0 (.xoril d a v)
  | 0x06 => need (ext0 && a = 0) (.jal d v)
  | 0x07 => decodeBranchImm p q
  | 0x08 => need (d = 0 && a = 0 && !fbit p 22)
      (.loopi (Fin.ofNat 4 (p / 2 ^ 18)) (fbit p 20) (fbit p 21) (BitVec.ofNat 9 (fld p 23 9)) v)
  | 0x09 => need (ext0 && d = 0) (.sege a v)
  | _ => .error .unassigned

/-! ### V and M formats (R60, R65) -/

/-- V-format instructions. -/
def decodeV (p q r : Nat) : Except FieldFault Instr :=
  let lit := fbit p 26
  match decodeOperand (fld q 0 16), decodeOperand (fld q 16 16), decodeOperand (fld r 0 16) with
  | some d, some s1, s2 =>
    match (if lit then some (.lit (BitVec.ofNat 32 r)) else s2.map .op : Option Src2) with
    | none => .error .operandKind
    | some s2 =>
      let v : VWord :=
        { fmt := BitVec.ofNat 5 (fld p 27 5), mod := BitVec.ofNat 4 (fld p 22 4), bit21 := fbit p 21,
          pm := Fin.ofNat 8 (p / 2 ^ 18), tok := ⟨fbit p 14, fbit p 15, fbit p 16, fbit p 17⟩,
          d, s1, s2, xfn := if lit then 0 else BitVec.ofNat 16 (fld r 16 16) }
      match decodeVMajor (fld p 2 6) (fld p 8 6) v with
      | some i => .ok i
      | none => .error .unassigned
  | _, _, _ => .error .operandKind

/-- M-format instructions. -/
def decodeM (p0 p1 p2 p3 p4 p5 : Nat) : Except FieldFault Instr :=
  if fld p0 28 4 ≠ 0 || fld p1 30 2 ≠ 0 || fld p2 24 8 ≠ 0 || fld p3 27 5 ≠ 0 || p5 ≠ 0 then .error .reserved
  else
    let m : MWord :=
      { asc := fbit p0 27, za := fbit p0 26, ft := fbit p0 25, mrepM1 := Fin.ofNat 4 (p0 / 2 ^ 23),
        acc := Fin.ofNat 4 (p0 / 2 ^ 21), aview := reg p0 16,
        tok := ⟨fbit p0 12, fbit p0 13, fbit p0 14, fbit p0 15⟩,
        kstepM1 := Fin.ofNat 64 (p1 / 2 ^ 24), wslot := Fin.ofNat 64 (p1 / 2 ^ 18), akb := Fin.ofNat 64 (p1 / 2 ^ 12),
        arow := BitVec.ofNat 12 (fld p1 0 12),
        mod := BitVec.ofNat 4 (fld p2 20 4), sview := reg p2 15, cfmt := BitVec.ofNat 5 (fld p2 10 5),
        bfmt := BitVec.ofNat 5 (fld p2 5 5), afmt := BitVec.ofNat 5 (fld p2 0 5),
        qview := reg p3 22, dfmt := BitVec.ofNat 5 (fld p3 17 5), drow := BitVec.ofNat 12 (fld p3 5 12), dview := reg p3 0,
        scale := BitVec.ofNat 32 p4 }
    match decodeMMajor (fld p0 2 6) (fld p0 8 4) m with
    | some i => .ok i
    | none => .error .unassigned

/-- An instruction from the parcels of its format, before the field rules. -/
def decodeRaw : List Nat → Except FieldFault Instr
  | [p] => if p % 4 = 0 then decodeS p else .error .unassigned
  | [p, q] => if p % 4 = 1 then decodeL p q else .error .unassigned
  | [p, q, r] => if p % 4 = 2 then decodeV p q r else .error .unassigned
  | [p0, p1, p2, p3, p4, p5] => if p0 % 4 = 3 then decodeM p0 p1 p2 p3 p4 p5 else .error .unassigned
  | _ => .error .unassigned

/-- The decoder: exactly the parcels of one instruction, to a well-formed instruction or the name of the breach (R76). -/
def decode (ps : List Nat) : Except FieldFault Instr :=
  match decodeRaw ps with
  | .error e => .error e
  | .ok i =>
    match fieldFault i with
    | some e => .error e
    | none => .ok i

/-! ### Bytes (R4, R56) -/

/-- The little-endian value of a list of bytes. -/
def leNat : List Byte → Nat
  | [] => 0
  | b :: bs => b.toNat + 256 * leNat bs

/-- `n` little-endian bytes of a number. -/
def leBytes : (n : Nat) → Nat → List Byte
  | 0, _ => []
  | n + 1, v => BitVec.ofNat 8 v :: leBytes n (v / 256)

/-- The parcels in a list of bytes; trailing bytes that fill no parcel are dropped. -/
def parcelsOf : List Byte → List Nat
  | a :: b :: c :: d :: rest => leNat [a, b, c, d] :: parcelsOf rest
  | _ => []

/-- Decodes the instruction at the front of a list of bytes and returns the rest (R56). -/
def decodeBytes (bs : List Byte) : Except FieldFault (Instr × List Byte) :=
  let n := parcelCount (leNat (bs.take 4))
  if bs.length < 4 * n then .error .unassigned
  else
    match decode (parcelsOf (bs.take (4 * n))) with
    | .ok i => .ok (i, bs.drop (4 * n))
    | .error e => .error e

/-- The instruction whose bits are `w`, numbered from the least significant bit of the first parcel; parcels above
`nbits` are zero. -/
def decodeTableWord (nbits w : Nat) : Option Instr :=
  let bs := leBytes 24 (w % 2 ^ nbits)
  match decodeBytes bs with
  | .ok (i, _) => some i
  | .error _ => none

/-! ### The encoder -/

/-- One bit of an encoding. -/
def bit (b : Bool) : Nat := if b then 1 else 0

def nulCode : Nul → Nat | .none => 0 | .notTaken => 1 | .taken => 2

def fenceCode : FenceKind → Nat | .acq => 1 | .rel => 2 | .acqRel => 3

def encSR (major fn : Nat) (w : Bool) (d a b : Reg) : Nat :=
  major * 4 + d.val * 256 + a.val * 8192 + b.val * 262144 + fn * 8388608 + bit w * 1073741824

def encSI (major : Nat) (d a : Reg) (imm : Nat) : Nat := major * 4 + d.val * 256 + a.val * 8192 + imm * 262144

def encSB (cond : Nat) (a b : Reg) (nul : Nul) (disp : Nat) : Nat :=
  0x16 * 4 + a.val * 256 + b.val * 8192 + cond * 262144 + nulCode nul * 2097152 + disp * 8388608

/-- SYS: `f` is the value of bits 22:8. -/
def encSys (fn f : Nat) : Nat := 0x18 * 4 + f * 256 + fn * 8388608

def encSX (major opx idx b a d : Nat) : Nat :=
  major * 4 + d * 256 + a * 8192 + b * 262144 + opx * 8388608 + idx * 134217728

def encL (major : Nat) (d a : Reg) (ext lit : Nat) : List Nat :=
  [1 + major * 4 + d.val * 256 + a.val * 8192 + ext * 262144, lit]

def encOperand : Operand → Nat
  | .view vw row st cb => vw.val * 4 + row.val * 128 + st.val * 4096 + cb.val * 16384
  | .ring dep => 1 + dep.val * 4
  | .reg n => 2 + n.val * 4
  | .special n => 3 + n.val * 4

def encV (major fn : Nat) (v : VWord) : List Nat :=
  let lit := match v.s2 with | .lit _ => true | .op _ => false
  [2 + major * 4 + fn * 256 + bit v.tok.waitL * 16384 + bit v.tok.waitR * 32768 + bit v.tok.postL * 65536
     + bit v.tok.postR * 131072 + v.pm.val * 262144 + bit v.bit21 * 2097152 + v.mod.toNat * 4194304 + bit lit * 67108864
     + v.fmt.toNat * 134217728,
   encOperand v.d + encOperand v.s1 * 65536,
   match v.s2 with | .lit l => l.toNat | .op o => encOperand o + v.xfn.toNat * 65536]

def encM (major fn : Nat) (m : MWord) : List Nat :=
  [3 + major * 4 + fn * 256 + bit m.tok.waitL * 4096 + bit m.tok.waitR * 8192 + bit m.tok.postL * 16384
     + bit m.tok.postR * 32768 + m.aview.val * 65536 + m.acc.val * 2097152 + m.mrepM1.val * 8388608 + bit m.ft * 33554432
     + bit m.za * 67108864 + bit m.asc * 134217728,
   m.arow.toNat + m.akb.val * 4096 + m.wslot.val * 262144 + m.kstepM1.val * 16777216,
   m.afmt.toNat + m.bfmt.toNat * 32 + m.cfmt.toNat * 1024 + m.sview.val * 32768 + m.mod.toNat * 1048576,
   m.dview.val + m.drow.toNat * 32 + m.dfmt.toNat * 131072 + m.qview.val * 4194304,
   m.scale.toNat, 0]

/-- The parcels of an instruction (R58–R65); an event of the part has none. -/
def encode : Instr → List Nat
  | .add w d a b => [encSR 0 0 w d a b]
  | .sub w d a b => [encSR 0 1 w d a b]
  | .and w d a b => [encSR 0 2 w d a b]
  | .or w d a b => [encSR 0 3 w d a b]
  | .xor w d a b => [encSR 0 4 w d a b]
  | .andn w d a b => [encSR 0 5 w d a b]
  | .sll w d a b => [encSR 0 6 w d a b]
  | .srl w d a b => [encSR 0 7 w d a b]
  | .sra w d a b => [encSR 0 8 w d a b]
  | .rol w d a b => [encSR 0 9 w d a b]
  | .mul w d a b => [encSR 0 10 w d a b]
  | .mulh w d a b => [encSR 0 11 w d a b]
  | .mulhu w d a b => [encSR 0 12 w d a b]
  | .div w d a b => [encSR 0 13 w d a b]
  | .divu w d a b => [encSR 0 14 w d a b]
  | .rem w d a b => [encSR 0 15 w d a b]
  | .remu w d a b => [encSR 0 16 w d a b]
  | .min w d a b => [encSR 0 17 w d a b]
  | .max w d a b => [encSR 0 18 w d a b]
  | .minu w d a b => [encSR 0 19 w d a b]
  | .maxu w d a b => [encSR 0 20 w d a b]
  | .slt w d a b => [encSR 0 21 w d a b]
  | .sltu w d a b => [encSR 0 22 w d a b]
  | .seq w d a b => [encSR 0 23 w d a b]
  | .clz w d a => [encSR 0 24 w d a 0]
  | .ctz w d a => [encSR 0 25 w d a 0]
  | .popc w d a => [encSR 0 26 w d a 0]
  | .brev w d a => [encSR 0 27 w d a 0]
  | .bswap w d a => [encSR 0 28 w d a 0]
  | .movz w d a b => [encSR 0 29 w d a b]
  | .movn w d a b => [encSR 0 30 w d a b]
  | .addi d a imm => [encSI 1 d a imm.toNat]
  | .andi d a imm => [encSI 2 d a imm.toNat]
  | .ori d a imm => [encSI 3 d a imm.toNat]
  | .xori d a imm => [encSI 4 d a imm.toNat]
  | .slli d a sh => [encSI 5 d a sh.val]
  | .srli d a sh => [encSI 6 d a sh.val]
  | .srai d a sh => [encSI 7 d a sh.val]
  | .slti d a imm => [encSI 8 d a imm.toNat]
  | .sltiu d a imm => [encSI 9 d a imm.toNat]
  | .seqi d a imm => [encSI 10 d a imm.toNat]
  | .ldb d a imm => [encSI 11 d a imm.toNat]
  | .ldbu d a imm => [encSI 12 d a imm.toNat]
  | .ldh d a imm => [encSI 13 d a imm.toNat]
  | .ldhu d a imm => [encSI 14 d a imm.toNat]
  | .ldw d a imm => [encSI 15 d a imm.toNat]
  | .ldwu d a imm => [encSI 16 d a imm.toNat]
  | .ldd d a imm => [encSI 17 d a imm.toNat]
  | .stb d a imm => [encSI 18 d a imm.toNat]
  | .sth d a imm => [encSI 19 d a imm.toNat]
  | .stw d a imm => [encSI 20 d a imm.toNat]
  | .std d a imm => [encSI 21 d a imm.toNat]
  | .beq a b nul disp => [encSB 0 a b nul disp.toNat]
  | .bne a b nul disp => [encSB 1 a b nul disp.toNat]
  | .blt a b nul disp => [encSB 2 a b nul disp.toNat]
  | .bge a b nul disp => [encSB 3 a b nul disp.toNat]
  | .bltu a b nul disp => [encSB 4 a b nul disp.toNat]
  | .bgeu a b nul disp => [encSB 5 a b nul disp.toNat]
  | .bra nul disp => [encSB 6 0 0 nul disp.toNat]
  | .jalr d a imm => [encSI 23 d a imm.toNat]
  | .nop => [encSys 0 0]
  | .halt => [encSys 1 0]
  | .trap n => [encSys 2 n.toNat]
  | .rtt => [encSys 3 0]
  | .fence k sc => [encSys 4 (fenceCode k + 4096 * scopeCode sc)]
  | .qdrain m => [encSys 5 m.toNat]
  | .modeset v => [encSys 6 v.toNat]
  | .segb => [encSys 7 0]
  | .tmark => [encSys 8 0]
  | .gset a b => [encSys 9 (32 * a.val + 1024 * b.val)]
  | .gclr a b => [encSys 10 (32 * a.val + 1024 * b.val)]
  | .evpop d => [encSys 11 d.val]
  | .evpeek d => [encSys 12 d.val]
  | .tlbinv a b => [encSys 13 (32 * a.val + 1024 * b.val)]
  | .lbrk l => [encSys 14 l.val]
  | .csrr d idx => [encSI 25 d 0 idx.toNat]
  | .csrw d a idx => [encSI 26 d a idx.toNat]
  | .csrs d a idx => [encSI 27 d a idx.toNat]
  | .csrc d a idx => [encSI 28 d a idx.toNat]
  | .loop l rot fti a len => [29 * 4 + l.val * 256 + bit rot * 1024 + bit fti * 2048 + a.val * 8192 + len.toNat * 262144]
  | .semadd i sc a => [encSX 30 0 i.val 0 a.val (scopeCode sc)]
  | .semset i sc a => [encSX 30 1 i.val 0 a.val (scopeCode sc)]
  | .semwait i sc a => [encSX 30 2 i.val 0 a.val (scopeCode sc)]
  | .semrd d i => [encSX 30 3 i.val 0 0 d.val]
  | .semradd i sc a b => [encSX 30 4 i.val b.val a.val (scopeCode sc)]
  | .semmset i sc a b => [encSX 30 5 i.val b.val a.val (scopeCode sc)]
  | .pwbegin d p => [encSX 31 0 p.val 0 0 d.val]
  | .pwend p sc => [encSX 31 1 p.val (scopeCode sc) 0 0]
  | .pwnext d p sc => [encSX 31 2 p.val (scopeCode sc) 0 d.val]
  | .prbegin d p sc => [encSX 31 3 p.val (scopeCode sc) 0 d.val]
  | .prend p => [encSX 31 4 p.val 0 0 0]
  | .prnext d p sc => [encSX 31 5 p.val (scopeCode sc) 0 d.val]
  | .pquery d p => [encSX 31 6 p.val 0 0 d.val]
  | .racq d r sc => [encSX 32 0 r.val (scopeCode sc) 0 d.val]
  | .rpub r sc => [encSX 32 1 r.val (scopeCode sc) 0 0]
  | .rtake d r sc => [encSX 32 2 r.val (scopeCode sc) 0 d.val]
  | .rfree r sc => [encSX 32 3 r.val (scopeCode sc) 0 0]
  | .rclose r sc err => [encSX 32 4 r.val (scopeCode sc) 0 (bit err)]
  | .rbrk r => [encSX 32 5 r.val 0 0 0]
  | .rstat d r => [encSX 32 6 r.val 0 0 d.val]
  | .launch a => [encSX 33 0 0 0 a.val 0]
  | .launchs a => [encSX 33 1 0 0 a.val 0]
  | .vwset i a b => [encSX 34 0 i.val b.val a.val 0]
  | .vwget d i => [encSX 34 1 i.val 0 0 d.val]
  | .shpset a => [encSX 34 2 0 0 a.val 0]
  | .ftset i a => [encSX 34 3 i.val 0 a.val 0]
  | .mset i a b => [encSX 34 4 i.val b.val a.val 0]
  | .rotset i a => [encSX 34 5 i.val 0 a.val 0]
  | .li d v => encL 0 d 0 0 v.toNat
  | .lih d v => encL 1 d 0 0 v.toNat
  | .addil d a v => encL 2 d a 0 v.toNat
  | .andil d a v => encL 3 d a 0 v.toNat
  | .oril d a v => encL 4 d a 0 v.toNat
  | .xoril d a v => encL 5 d a 0 v.toNat
  | .jal d disp => encL 6 d 0 0 disp.toNat
  | .beqi a nul v disp => encL 7 0 a (0 + 8 * nulCode nul) (v.toNat + 65536 * disp.toNat)
  | .bnei a nul v disp => encL 7 0 a (1 + 8 * nulCode nul) (v.toNat + 65536 * disp.toNat)
  | .blti a nul v disp => encL 7 0 a (2 + 8 * nulCode nul) (v.toNat + 65536 * disp.toNat)
  | .bgei a nul v disp => encL 7 0 a (3 + 8 * nulCode nul) (v.toNat + 65536 * disp.toNat)
  | .bltui a nul v disp => encL 7 0 a (4 + 8 * nulCode nul) (v.toNat + 65536 * disp.toNat)
  | .bgeui a nul v disp => encL 7 0 a (5 + 8 * nulCode nul) (v.toNat + 65536 * disp.toNat)
  | .loopi l rot fti len count => encL 8 0 0 (l.val + 4 * bit rot + 8 * bit fti + 32 * len.toNat) count.toNat
  | .sege a sig => encL 9 0 a 0 sig.toNat
  | .vadd v => encV 0 0 v
  | .vsub v => encV 0 1 v
  | .vmul v => encV 0 2 v
  | .vfma v => encV 0 3 v
  | .vfms v => encV 0 4 v
  | .vfnma v => encV 0 5 v
  | .vmin v => encV 0 6 v
  | .vmax v => encV 0 7 v
  | .vabs v => encV 0 8 v
  | .vneg v => encV 0 9 v
  | .vaddsub v => encV 0 10 v
  | .vavg v => encV 0 11 v
  | .vmulh v => encV 0 12 v
  | .vshl v => encV 0 13 v
  | .vshr v => encV 0 14 v
  | .vsra v => encV 0 15 v
  | .vand v => encV 0 16 v
  | .vor v => encV 0 17 v
  | .vxor v => encV 0 18 v
  | .vnot v => encV 0 19 v
  | .vsel v => encV 0 20 v
  | .vmov v => encV 0 21 v
  | .vclamp v => encV 0 22 v
  | .vabsd v => encV 0 23 v
  | .vcmpeq v => encV 1 0 v
  | .vcmpne v => encV 1 1 v
  | .vcmplt v => encV 1 2 v
  | .vcmple v => encV 1 3 v
  | .vcmpgt v => encV 1 4 v
  | .vcmpge v => encV 1 5 v
  | .vclass v => encV 1 6 v
  | .vrcp v => encV 2 0 v
  | .vrsqrt v => encV 2 1 v
  | .vsqrt v => encV 2 2 v
  | .vexp2 v => encV 2 3 v
  | .vlog2 v => encV 2 4 v
  | .vexp v => encV 2 5 v
  | .vtanh v => encV 2 6 v
  | .vsigm v => encV 2 7 v
  | .vsilu v => encV 2 8 v
  | .vgelu v => encV 2 9 v
  | .vsin v => encV 2 10 v
  | .vcos v => encV 2 11 v
  | .vdiv v => encV 2 12 v
  | .vrsum v => encV 3 0 v
  | .vrmax v => encV 3 1 v
  | .vrmin v => encV 3 2 v
  | .vramax v => encV 3 3 v
  | .vcsum v => encV 3 4 v
  | .vcmax v => encV 3 5 v
  | .vscan v => encV 3 6 v
  | .vdot v => encV 3 7 v
  | .vtopk v => encV 4 0 v
  | .vsortr v => encV 4 1 v
  | .vmrgk v => encV 4 2 v
  | .vcompr v => encV 4 3 v
  | .vexpnd v => encV 4 4 v
  | .vbcast v => encV 5 0 v
  | .vtrans v => encV 5 1 v
  | .viota v => encV 5 2 v
  | .vgathr v => encV 5 3 v
  | .vscatr v => encV 5 4 v
  | .vcvt v => encV 6 0 v
  | .vrqnt v => encV 6 1 v
  | .vmxq v => encV 6 2 v
  | .vmxdq v => encV 6 3 v
  | .vunpk3 v => encV 6 4 v
  | .vpack3 v => encV 6 5 v
  | .vunpk4 v => encV 6 6 v
  | .vpack4 v => encV 6 7 v
  | .vsat v => encV 6 8 v
  | .vrnd v => encV 6 9 v
  | .pld v => encV 7 0 v
  | .pst v => encV 7 1 v
  | .pcomp v => encV 7 2 v
  | .pinv v => encV 7 3 v
  | .ppow v => encV 7 4 v
  | .prand v => encV 7 5 v
  | .pidn v => encV 7 6 v
  | .pcyc v => encV 7 7 v
  | .pxch v => encV 7 8 v
  | .vperm v => encV 7 9 v
  | .pcycv v => encV 7 10 v
  | .tld v => encV 8 0 v
  | .tldi v => encV 8 1 v
  | .tldw v => encV 8 2 v
  | .tpref v => encV 8 3 v
  | .sbind v => encV 8 4 v
  | .sadv v => encV 8 5 v
  | .wref v => encV 8 6 v
  | .tst v => encV 9 0 v
  | .tsti v => encV 9 1 v
  | .tstm v => encV 9 2 v
  | .cpy v => encV 10 0 v
  | .cpya v => encV 10 1 v
  | .cmcast v => encV 10 2 v
  | .catom v => encV 10 3 v
  | .cfill v => encV 10 4 v
  | .rnode v => encV 10 5 v
  | .rcont v => encV 10 6 v
  | .wstore v => encV 10 7 v
  | .mma m => encM 0 0 m
  | .mmas m => encM 0 1 m
  | .mmat m => encM 0 2 m
  | .mdrain m => encM 1 0 m
  | .mdrainmx m => encM 1 1 m
  | .mldac m => encM 1 2 m
  | .mclr m => encM 1 3 m
  | .wbld m => encM 2 0 m
  | .wbinv m => encM 2 1 m
  | .engineDispatch | .resultLanding | .group4ReadPromotion | .handlerTrap
  | .rttResume | .haltComplete | .modesetComplete | .qdrainComplete
  | .fenceAck | .semwaitSatisfied | .semRemoteService | .poolService
  | .ringService | .ringWaitServiced | .homeReplyArrival | .lateAccessArrival
  | .evqRecordArrival | .copyComplete | .copyDispatchFaultRecord | .memoryPortArrival
  | .nodeArmingRecord | .reductionPacketArrival | .nodeDeadline | .rootRecordWrite
  | .rcontAnswer | .iterationStart | .tlbMissResolved | .pageFaultResolved
  | .tlbinvComplete | .replayRereadDone | .wsBackstopRefresh | .wsRefreshEnd
  | .hbmRefresh | .patrolScrub | .hbmLaneRepair | .hbmRepairPauseEnd
  | .cxlPortFailure | .crossbarGrant | .d2dDelivery | .noticeWindow
  | .hubNotice | .multicastApply | .biryarFlitReceive | .biryarNack
  | .laneFallback | .portDown | .pathResend | .endToEndAck
  | .headerError | .packetAbandon | .coreStateParity | .activate
  | .cancel | .hostRegisterWrite | .vfEnable | .ebstatWrite
  | .ebceWrite | .kernNode | .kernelPlacement | .stagingComplete
  | .copyNode | .condNode | .loopNode | .joinNode
  | .signalNode | .endNode | .kernelEnd | .tenantPoolCreate
  | .preemptRequest | .preemptSave | .preemptWithdraw | .resumption
  | .powerOn | .moduleOsInit | .spdmRequest | .pldmReport
  | .pldmFwUpdate | .powerLimitSet | .thermalLimit | .lifeRecordUpdate
  | .kernelImageLoad | .tenantPoolDestroy | .coreOwnershipChange | .biryarPortTrained
  | .biryarStatusWrite | .vfDisable | .powerLoss => []

end Sys2Proof
end

