-- ==== Sys2Proof/Config.lean ====
section
/-! DEFINITION. What an implementation fixes and the values the spec leaves open. An `opaque` constant has no body: no proof
can see its value, so a claim holds whatever it is. -/

namespace Sys2Proof.Config

/-- The switch settings that the Burin derives for an index vector (R200); programs cannot read them. Log entry 4. -/
opaque benesSettings : List Nat → Nat

/-- How far, and on which side, a special function's FP32 value lies from the true result, within the 2 units in the last
place of R138: a fixed function of the function number and the input bits. Log entry 5. -/
opaque sfuOffset : Nat → BitVec 32 → Nat

/-- Which elements of a copy that ended with an error have been written (R233). Log entry 6. -/
opaque partialCopy : Nat → Nat → Bool

/-- A choice of timing or of arbitration that the spec leaves open, fresh for each number. Log entry 7. -/
opaque timing : Nat → Nat

/-- The virtual address of the first capability record (CAPPTR, R32, R375), in units of 8 bytes. Log entry 9. -/
opaque capUnit : BitVec 45

/-- CAPPTR: 8-byte aligned (R375). -/
def capPtr : BitVec 48 := capUnit ++ 0#3

/-- The old value of a destination element that is off where the destination is the operand ring, which has none: by the
instruction's place in program order and the element position (R131). Log entry 12. -/
opaque ringOld : Nat → Nat → Nat

/-- A register or literal broadcast to E8M0 elements, where the format has no number for its value, or two equally near (R62, R130, R154,
R161). Log entry 13. -/
opaque scalarE8M0 : BitVec 32 → BitVec 8

/-- BADADDR of a poison fault for which no value is stated (R356, R361, R377): by the instruction's place in program order where the
destination is a mask or a permutation register, by the operation's number where it is abandoned. Log entry 14. -/
opaque poisonAddr : Nat → BitVec 64

/-- The channel of an HBM address on its die (R365), for which no mapping is stated. Log entry 23. -/
opaque hbmChannel : Nat → Fin 64

/-- The bank of its slice that holds an HBM address (R353), for which no mapping is stated. Log entry 23. -/
opaque hbmBank : Nat → Nat

/-- The die of the stack that holds a 64 KiB HBM frame (R265), for which no mapping is stated. Log entry 11. -/
opaque hbmDie : Nat → Fin 4

/-- The line of its Plate that a core reads when it services a pool or ring unit (R258), which is not stated; 0–7 are the pool units,
8–15 the ring units. Log entry 86. -/
opaque homeLine : Nat → Nat

/-- The SHAKE256 digest of the configuration image, by what it holds, and that of the boot ROM (R374). Log entry 95. -/
opaque configDigest : List Nat → Nat
opaque romDigest : Nat

end Sys2Proof.Config
end

