-- ==== Sys2Proof/Machine/Memory.lean ====
section
/-! DEFINITION. Memory as plain data: a list of (address, byte) pairs in one canonical form, addresses strictly rising and
no zero byte listed; an unlisted address reads as zero. Byte order is little-endian (R4) and is decided here, once. -/

namespace Sys2Proof.Machine

/-- A byte memory in canonical form (see `Memory.wf`). -/
abbrev Memory := List Host.Cell

/-- The canonical form: addresses strictly rising, no listed byte is zero. -/
def Memory.wf : Memory → Bool
  | [] => true
  | [c] => c.2 ≠ 0
  | c :: d :: r => c.1 < d.1 && c.2 ≠ 0 && Memory.wf (d :: r)

/-- The byte an address holds; an unlisted address holds zero. -/
def Memory.read : Memory → Nat → Byte
  | [], _ => 0
  | (a, b) :: m, x => if a = x then b else Memory.read m x

/-- A cell in front of a memory whose addresses are all higher; a zero byte is not listed. -/
def Memory.cons (a : Nat) (b : Byte) (m : Memory) : Memory := if b = 0 then m else (a, b) :: m

/-- One byte written. -/
def Memory.write : Memory → Nat → Byte → Memory
  | [], x, b => Memory.cons x b []
  | (a, v) :: m, x, b =>
    if a < x then (a, v) :: Memory.write m x b
    else if a = x then Memory.cons x b m
    else Memory.cons x b ((a, v) :: m)

/-- The bytes of a list written at consecutive addresses. -/
def Memory.writeBytes (m : Memory) (a : Nat) : List Byte → Memory
  | [] => m
  | b :: bs => Memory.writeBytes (Memory.write m a b) (a + 1) bs

/-- Cells written in list order, a later cell winning. -/
def Memory.writeCells (m : Memory) : List (Nat × Byte) → Memory
  | [] => m
  | (a, b) :: cs => Memory.writeCells (Memory.write m a b) cs

/-- The bytes from the front of a memory whose first listed address is at least `a`. -/
def Memory.run : Memory → Nat → Nat → List Byte
  | _, _, 0 => []
  | [], a, n + 1 => 0 :: Memory.run [] (a + 1) n
  | (x, b) :: m, a, n + 1 =>
    if x = a then b :: Memory.run m (a + 1) n else 0 :: Memory.run ((x, b) :: m) (a + 1) n

/-- `n` bytes from address `a` upward. -/
def Memory.readBytes (m : Memory) (a n : Nat) : List Byte := Memory.run (m.dropWhile (fun c => c.1 < a)) a n

/-- Memory with every byte of `[a, a + n)` zero. -/
def Memory.clear (m : Memory) (a n : Nat) : Memory := m.filter (fun c => c.1 < a || a + n ≤ c.1)

/-- Union of two canonical memories, the second winning where both list an address. -/
def Memory.overlay (m : Memory) : Memory → Memory
  | [] => m
  | (a, b) :: n => Memory.overlay (Memory.write m a b) n

/-- The little-endian value of a list of bytes. -/
def bytesNat : List Byte → Nat
  | [] => 0
  | b :: bs => b.toNat + 256 * bytesNat bs

/-- `n` little-endian bytes of a number. -/
def natBytes : (n : Nat) → Nat → List Byte
  | 0, _ => []
  | n + 1, v => BitVec.ofNat 8 v :: natBytes n (v / 256)

/-- The unsigned value of `n` bytes at an address. -/
def Memory.readNat (m : Memory) (a n : Nat) : Nat := bytesNat (Memory.readBytes m a n)

/-- `n` little-endian bytes of a number written at an address. -/
def Memory.writeNat (m : Memory) (a n v : Nat) : Memory := Memory.writeBytes m a (natBytes n v)

/-! Sets of granule numbers, as strictly rising lists. -/

/-- A set of natural numbers as a strictly rising list. -/
abbrev NatSet := List Nat

/-- The set with one number added. -/
def NatSet.insert : NatSet → Nat → NatSet
  | [], x => [x]
  | a :: s, x => if a < x then a :: NatSet.insert s x else if a = x then a :: s else x :: a :: s

/-- The set without one number. -/
def NatSet.remove (s : NatSet) (x : Nat) : NatSet := s.filter (· ≠ x)

/-- Membership. -/
def NatSet.has (s : NatSet) (x : Nat) : Bool := s.contains x

end Sys2Proof.Machine
end

