-- ==== Sys2Proof/Machine/State.lean ====
section
/-! DEFINITION. The state of the module as plain data: every register, queue, result in flight, memory, home, node, die,
tenant, kernel, link and hub record that the spec names (01_machine_state to 21_host_boot), and the machine after reset. -/

namespace Sys2Proof.Machine

/-! ### Registers of a core -/

/-- The cycle summary of a permutation (R200, R209). -/
structure CycleSummary where
  cycles  : Nat
  fixed   : Nat
  longest : Nat
  order   : Nat
deriving DecidableEq, Repr

/-- A permutation register: its row count, index vector, switch settings and cycle summary (R19, R200). -/
structure PermReg where
  n        : Nat
  idx      : List Nat
  settings : Nat
  summary  : CycleSummary
deriving DecidableEq, Repr

/-- The identity on 256, which every permutation register holds at iteration start (R9). -/
def PermReg.identity256 : PermReg :=
  { n := 256, idx := List.range 256, settings := Config.benesSettings (List.range 256),
    summary := { cycles := 256, fixed := 256, longest := 1, order := 1 } }

/-- An accumulator: 32 × 32 elements of 32 bits row-major, its format tag, and whether it was loaded from marked data or has a
parity error (R20, R188, R355, R356). -/
structure Accum where
  bits   : Vector (BitVec 32) 1024
  isInt  : Bool
  marked : Bool
deriving DecidableEq, Repr

def Accum.zero : Accum := { bits := Vector.replicate 1024 0, isInt := false, marked := false }

/-- An operand-ring entry: its bytes at offset 512·row + byte, its marked lines (R356), and the number of the push that filled
it, counted from 1; 0 where none has (R22, R23). -/
structure RingEntry where
  tag   : Nat
  data  : Memory
  marks : NatSet
deriving DecidableEq, Repr

def RingEntry.empty : RingEntry := { tag := 0, data := [], marks := [] }

/-- A weight slot: its valid bit, its tag, column c's image bytes at offsets 128·c upward, and the offsets of those that were
marked (R21, R191, R355, R356). -/
structure WeightSlot where
  valid  : Bool
  fmt    : BitVec 5
  sparse : Bool
  image  : Memory
  marks  : NatSet
deriving DecidableEq, Repr

def WeightSlot.invalid : WeightSlot := { valid := false, fmt := 0, sparse := false, image := [], marks := [] }

/-- A semaphore (R27). -/
structure Semaphore where
  value : BitVec 32
  fault : Bool
deriving DecidableEq, Repr

/-- A bound stream handle: its 64-byte record and its cursor T0–T3 (R28, R214, R216). -/
structure StreamBinding where
  record : BitVec 512
  cursor : BitVec 64
deriving DecidableEq, Repr

/-- A completion record of 16 bytes (R29, R233): bytes 0–7 and bytes 8–15. -/
structure EvRecord where
  lo : Word
  hi : Word
  /-- The copy that wrote it, and what its reader acquires (R230, R336). -/
  copy : Option Nat
  known : List (CoreId × Nat)
deriving DecidableEq, Repr

/-- The fetch chain (R101): the addresses c0, c1, c2, whether the instructions at c0 and c1 are annulled (R105), and
whether the last two instructions issued or annulled were branch-class (R102). -/
structure FetchChain where
  c0     : Word
  c1     : Word
  c2     : Word
  annul0 : Bool
  annul1 : Bool
  prior1 : Bool
  prior2 : Bool
  /-- c1, or c2, was formed while the length of the instruction before it could not be fetched (R107). -/
  guess1 : Bool
  guess2 : Bool
deriving DecidableEq, Repr

/-- The cause codes (R37). -/
inductive Cause
  | illegalInstruction | illegalFormat | illegalInSlot | misaligned | accessFault | platePrivilege | groupViolation
  | viewBounds | shapeLimit | tokenOverflow | ringBroken | poolOvercommit | permInvalid | ternaryIllegal | proofMismatch
  | guardReport | trapInstr | breakpoint | loopNesting | streamUnbound | poison | overlapRace | unreplayable
deriving DecidableEq, Repr

/-- A handler-trap cause waiting for the boundary between two S-cycles (R121). -/
structure PendingTrap where
  cause   : Cause
  badaddr : Word
  /-- The engine of origin, none for the sequencer. -/
  eng     : Option Engine
  /-- The address of the instruction of origin. -/
  addr    : Word
  /-- TRAP or a barrier that stands in a slot (R122). -/
  slot    : Bool
  /-- The trap is precise: the instruction at c0 has not issued. -/
  precise : Bool
  /-- A handler instruction raised it. -/
  handler : Bool := false
deriving DecidableEq, Repr

/-! ### Engine instructions in their queues, and results in flight -/

/-- A thing that the interlocks of R40 cover. -/
inductive Res
  | x (r : Reg)
  | mask (k : Fin 8)
  | perm (k : Fin 16)
  | acc (a : Fin 4)
  | wslot (w : Fin 64)
  | ring (pos : Nat)
  | plate (lo len : Nat)
deriving DecidableEq, Repr

/-- A stream handle as a transfer captured it at issue (R216). -/
structure StreamCapture where
  handle : Reg
  bind   : StreamBinding
deriving DecidableEq, Repr

/-- What an engine instruction captures at issue (R39): views, SHP, its format-table entry, MODE, the X registers, the
stream handles it names, the ring push count and the trap-free copy of MODE bits. -/
structure Capture where
  vw      : Vector (BitVec 128) 32
  shp     : BitVec 14
  ft      : BitVec 32
  mode    : Word
  x       : Vector Word 32
  streams : List StreamCapture
  ringPos : Nat
deriving DecidableEq, Repr

/-- An engine instruction from issue to dispatch (R26): `seq` is its place in program order. -/
structure QEntry where
  instr    : Instr
  addr     : Word
  seq      : Nat
  issuedAt : Nat
  window   : Nat
  cap      : Capture
deriving DecidableEq, Repr

/-- A byte of physical memory: which memory and the address in it. -/
structure Loc where
  sp   : Space
  addr : Nat
deriving DecidableEq, Repr

/-- Consecutive bytes of one granule that a transfer brings in: where they go (a Plate offset, or beyond the Plate the image bytes
of weight slots), the memory they are read from until they have been sampled, the stream's poison policy, and the bytes. `again`
says that they are to be read once more (R219). -/
structure LoadRun where
  to_   : Nat
  n     : Nat
  src   : Option Loc
  va    : Nat
  pois  : Nat
  data  : List Byte
  bad   : Bool
  again : Bool
deriving DecidableEq, Repr

/-- A result in flight (R39): one part of what lands. -/
inductive Eff
  | x (r : Reg) (v : Word)
  | plate (cells : List (Nat × Byte)) (marked : List Nat)
  | mask (k : Fin 8) (v : BitVec 4096)
  | perm (k : Fin 16) (p : PermReg)
  | acc (a : Fin 4) (seq : Nat) (v : Accum)
  | wslot (w : Fin 64) (s : WeightSlot)
  | ring (pos : Nat) (data : Memory) (marks : NatSet)
  | vstat (flags : BitVec 5)
  | invalidate (w : Fin 64)
  /-- The access of this number to the own Plate performs (R92). -/
  | globalAt (seq : Nat)
  /-- The access of this number lands and gives its slot back; it has performed by then (R84). -/
  | globalDue (seq : Nat)
  /-- Packets of this tile of LD or ST that have not been performed, or whose data has not come back (R41, R218, R341). -/
  | waits (num n : Nat)
  /-- The reply of a home-serviced operation becomes readable (R236). -/
  | reply (rid : Nat)
  /-- A load's bytes for the Plate (R221). -/
  | fills (runs : List LoadRun)
  /-- A load's bytes for `n` weight slots from `first` on (R222). -/
  | slots (first : Fin 64) (n : Nat) (fmt : BitVec 5) (sparse : Bool) (runs : List LoadRun)
  /-- A scalar load of marked Plate data: poison at the landing S-cycle (R94), with its BADADDR. -/
  | poison (badaddr : Word)
  /-- A read of these bytes is recorded where they lie in guard granules (R99, R259). -/
  | touch (sp : Space) (a n : Nat)
  /-- A touch of a guard granule of the own Plate by a read at dispatch, the lowest such offset (R99, R259). -/
  | touched (off : Nat)
  /-- A cause raised at the landing S-cycle: ring broken, pool overcommit (R244, R247). -/
  | raise (k : Cause) (badaddr : Word)
  /-- Bytes of the own Plate carry releases that a FENCE has made (R295). -/
  | carries (off n : Nat) (rels : List Covered)
  /-- A read has returned values that carry releases of these cores (R295). -/
  | hears (rels : List (CoreId × Covered))
deriving DecidableEq, Repr

/-- A result that lands at S-cycle `due` (R39), with its token posts (R24) and the resources it holds (R40). -/
structure Landing where
  due    : Nat
  seq    : Nat
  addr   : Word
  eng    : Option Engine
  postL  : Bool
  postR  : Bool
  window : Nat
  holds  : List Res
  reads  : List Res
  effs   : List Eff
deriving DecidableEq, Repr

/-- A scalar access to global memory between issue and landing (R84, R92, R95): the number of its packet, whether a handler issued it,
whether it has been performed, and whether the core has its data or its acknowledgement. -/
structure GlobalAccess where
  seq     : Nat
  num     : Nat
  handler : Bool
  addr    : Word
  isLoad  : Bool
  rd      : Reg
  size    : Nat
  signed  : Bool
  loc     : Loc
  data    : List Byte
  known   : List (CoreId × Nat)
  /-- The releases of the FENCEs that a store stands behind (R295). -/
  fenced  : List Covered
  done    : Bool
  back    : Bool
  poisoned : Bool
  /-- The releases that the value read carries (R295). -/
  heard   : List (CoreId × Covered)
deriving DecidableEq, Repr

/-- An index tile that LD fetches for an indexed transfer (R223): the transfer's place in program order, its number, how many indices
it holds, the read packets that are out, and its bytes, byte x of row r at offset 4,096 r + x. -/
structure IndexFetch where
  seq   : Nat
  num   : Nat
  count : Nat
  out   : List Nat
  runs  : List LoadRun
deriving DecidableEq, Repr

/-- What the sequencer waits for after an instruction that stops issue (R114, R115, R250). -/
inductive Draining
  | halt
  | modeset (v : BitVec 3)
  | modesetWait (v : BitVec 3) (issueAt : Nat)
  | qdrain (m : BitVec 5)
deriving DecidableEq, Repr

/-- An access right (R268). -/
inductive Right | read | write | fetch
deriving DecidableEq, Repr

/-- What freezes a core (R41). A CP-fed token wait and a full CP queue are tested again in every die cycle and need no
record. -/
inductive Freeze
  /-- An unsatisfied SEMWAIT, or EVPOP on an empty EVQ. -/
  | wait
  /-- Until a die cycle of the core's die: bank conflicts, die-TLB hits, refresh. -/
  | untilCycle (d : Nat)
  /-- Until a translation of this address for this access arrives. -/
  | translation (va : Nat) (r : Right)
  /-- Until the reply of this home operation arrives. -/
  | reply (rid : Nat)
  /-- Until a late memory access arrives. -/
  | late
  /-- Until the acknowledgements of a release or FENCE arrive. -/
  | fence
  /-- Until every TLB has acknowledged a TLBINV, and then until the packets numbered below `mark` have been performed. -/
  | tlbinv (mark : Nat)
  /-- Until a replay or re-read is done. -/
  | replay
deriving DecidableEq, Repr

/-- A home object at which a release is left for an acquire to find (R294). -/
inductive SyncObj
  | sem (c : CoreId) (i : Reg)
  | pool (c : CoreId) (u : Nat)
  | ring (c : CoreId) (u : Nat)
deriving DecidableEq, Repr

/-- A release left at an object: the releasing core, its scope, and what an acquire of it comes to know (R238, R291, R294). -/
structure Published where
  obj   : SyncObj
  core  : CoreId
  rel   : Covered
deriving DecidableEq, Repr

/-- Bytes of a memory whose values a release of a core has written, or a store behind its FENCE (R295). -/
structure Flag where
  lo   : Nat
  n    : Nat
  core : CoreId
  rel  : Covered
deriving DecidableEq, Repr

/-- An operation sent to a home, from issue until its reply is readable (R236): the registers it fills, whether it holds a
global access slot, the scope and the object of its acquire and what the object held at its service, whether it is a barrier and stands
in a slot, whether a handler sent it, and the reply once it has arrived. -/
structure HomeOp where
  rid     : Nat
  addr    : Word
  dest    : List Reg
  remote  : Bool
  acquire : Option (Scope × SyncObj)
  gain    : List (CoreId × Nat)
  barrier : Bool
  slot    : Bool
  handler : Bool
  arrived : Option Reply
deriving DecidableEq, Repr

/-- Consecutive bytes of one tile row of a copy that lie in one packet: the row, the first byte, the count and the address. -/
structure CopyLeg where
  row : Nat
  x   : Nat
  n   : Nat
  va  : Nat
deriving DecidableEq, Repr

/-- What the writes of a copy do (R231): plain stores under a poison policy, accumulation, an atomic operation, or a multicast. -/
inductive CopyOp
  | plain (pois : Nat)
  | accum (fmt : BitVec 5) (op : BitVec 3) (pois : Nat)
  | atom (fmt : BitVec 5) (op : BitVec 2) (v w : BitVec 64) (marked : Bool)
  | cast (dsts : List CoreId) (pois : Nat)
deriving DecidableEq, Repr

/-- A copy in progress, and what its completion record reports (R229–R233, R270). -/
structure CopyInFlight where
  id      : Nat
  addr    : Word
  fn      : Nat
  scope   : Scope
  postL   : Bool
  postR   : Bool
  seq     : Nat
  started : Nat
  /-- Bytes moved, and bytes written over every destination. -/
  bytes   : Nat
  written : Nat
  op      : CopyOp
  /-- The legs that are still to be read and to be written, and for each destination row its source row. -/
  srcs    : List CopyLeg
  dsts    : List CopyLeg
  rows    : List Nat
  /-- Bytes in bounds of each source row. -/
  valid   : List Nat
  /-- The poison policy of the source. -/
  pois    : Nat
  /-- The source's bytes, byte x of row r at offset 4,096 r + x. -/
  got     : List LoadRun
  /-- Source rows that have faulted. -/
  badSrc  : List Nat
  /-- Packets that are out. -/
  out     : List Nat
  /-- Destinations of its multicast that have still to apply it. -/
  waiting : Nat
  /-- The page whose translation it waits for, and the pages that the module OS has declared unmapped. -/
  missing : Option (Nat × Right)
  unmapped : List Nat
  status  : Nat
  data    : Word
  /-- CATOM: the own-Plate cells that receive the old value, as (offset, size). -/
  oldTo   : Option (Nat × Nat)
  /-- CATOM: the old value was marked. -/
  oldBad  : Bool
  /-- The stores that its release covers and that have still to be performed: its writes wait for them (R294, R296). -/
  awaits  : List Nat
  /-- The release that it makes when it dispatches (R294), and what its core had acquired then (R304). -/
  rel     : Covered
  known   : List (CoreId × Nat)
  /-- Records reserved for this command in the EVQ. -/
  reserved : Nat
  /-- Own Plate bytes that the command reads and writes (R303). -/
  reads   : List Res
  holds   : List Res
deriving DecidableEq, Repr

/-- A TLB entry (R269): the context (a tenant's, or 8 for the module OS), virtual page base, page size and leaf entry. -/
structure TlbEntry where
  ctx    : Fin 9
  va     : Nat
  size   : Nat
  pte    : Word
deriving DecidableEq, Repr

/-! ### A core -/

/-- What a core is doing, as far as its kernel is concerned (R10, R318, R321, R322). -/
inductive Activity
  /-- No iteration. -/
  | idle
  /-- Runs an iteration. -/
  | running
  /-- Stopped by a fault of its kernel (R321). -/
  | stopped
  /-- Stopped at a pre-emption point (R322). -/
  | preempted
deriving DecidableEq, Repr

/-- State of a reduction node (R325). -/
inductive NodeState | idle | armed | forwarded
deriving DecidableEq, Repr

/-- A packet that a node keeps apart under DET (R334): its leaves and the Plate offset of its row. -/
structure StoredTile where
  bitmap : BitVec 64
  row    : Nat
  late   : Bool
deriving DecidableEq, Repr

/-- What the landing of a root's result does to the buffer row (R332, R334, R335): nothing where the row holds it already, the bytes written,
a last tile added, or the tiles in some rows summed, onto the row where `onto`. -/
inductive RootResult
  | stays
  | value (bs : List Byte)
  | adds (bs : List Byte)
  | sums (rows : List Nat) (onto : Bool)
deriving DecidableEq, Repr

/-- A record that a root is still to write (R332): the row, its length, format and operation of its result and how it lands, whether it has
landed, the die cycle of its next step, the landing or the record, its status and bitmap, the RNODE's address and scope, the semaphore it adds to (rank and number), and what it lets its reader
acquire. -/
structure RootRecord where
  row    : Nat
  len    : Nat
  fmt    : Nat
  op     : Nat
  result : RootResult
  marked : Bool
  landed : Bool
  due    : Nat
  status : Nat
  bitmap : BitVec 64
  addr   : Word
  scope  : Scope
  sem    : Option (Nat × Reg)
  known  : List (CoreId × Nat)
deriving DecidableEq, Repr

/-- A reduction node (R325–R334). `armAt` counts die cycles of the node's die; `rows` are the Plate offsets of the buffer row
and, under DET, of the rows that follow it. -/
structure RedNode where
  state    : NodeState
  kid      : Nat
  addr     : Word
  fmt      : Nat
  op       : Nat
  policy   : Nat
  root     : Bool
  semen    : Bool
  peer     : Bool
  prank    : Nat
  pnode    : Fin 8
  semrk    : Nat
  semi     : Reg
  pmod     : Nat
  expect   : BitVec 64
  arrived  : BitVec 64
  len      : Nat
  det      : Bool
  scope    : Scope
  armAt    : Nat
  deadline : Nat
  rows     : List Nat
  descAt   : Nat
  /-- A packet has replaced the identity in the buffer row. -/
  hasValue : Bool
  stored   : List StoredTile
  marked   : Bool
  /-- What the releases of the packets taken cover (R336). -/
  known    : List (CoreId × Nat)
  reserved : Nat
  /-- Root results whose records are still to be written. -/
  owed     : List RootRecord
deriving DecidableEq, Repr

def RedNode.idle : RedNode :=
  { state := .idle, kid := 0, addr := 0, fmt := 0, op := 0, policy := 0, root := false, semen := false, peer := false,
    prank := 0, pnode := 0, semrk := 0, semi := 0, pmod := 0, expect := 0, arrived := 0, len := 0, det := false,
    scope := .device, armAt := 0, deadline := 0, rows := [], descAt := 0, hasValue := false,
    stored := [], marked := false, known := [], reserved := 0, owed := [] }

/-- A pool slot at its home (R275). -/
structure PoolSlot where
  isOpen : Bool
  pinc   : Nat
  seq    : Nat
  stamp  : Nat
deriving DecidableEq, Repr

/-- What one holder, a (KERNID, RANK) pair, holds in a pool (R276). -/
structure Holder where
  kid  : Nat
  rank : Nat
  open_ : Option Nat
  pin  : Option Nat
deriving DecidableEq, Repr

/-- A pool at its home's pool unit (R272, R275). `kid` is none for a tenant pool. -/
structure PoolUnit where
  kid     : Option Nat
  tenant  : TenantId
  base    : Nat
  size    : Nat
  stride  : Nat
  s       : Nat
  r       : Nat
  w       : Nat
  place   : Nat
  seq     : Nat
  fresh   : Nat
  opens   : Nat
  pins    : Nat
  slots   : List PoolSlot
  holders : List Holder
deriving DecidableEq, Repr

/-- State of a ring buffer (R245). -/
inductive BufState | free | acquired | full | taken
deriving DecidableEq, Repr

/-- A ring's condition (R284). -/
inductive RingCond | open_ | closed | drained | broken
deriving DecidableEq, Repr

/-- A ring at its home (R282, R284). -/
structure RingUnit where
  kid     : Nat
  entry   : Nat
  base    : Nat
  size    : Nat
  stride  : Nat
  n       : Nat
  prod    : Nat
  cons    : Nat
  place   : Nat
  bufs    : List BufState
  nextAcq  : Nat
  nextPub  : Nat
  nextTake : Nat
  nextFree : Nat
  taken   : Nat
  cond    : RingCond
  err     : Bool
  eos     : Option Nat
  eosTaken : Bool
  /-- The producer's and the consumer's waiting operations, oldest first (R285). -/
  waitProd : List (HomeReq RingOp)
  waitCons : List (HomeReq RingOp)
deriving DecidableEq, Repr

/-- A command retained by the engine command window (R116, R357). -/
structure Retained where
  entry  : QEntry
  disp   : Nat
  due    : Nat
  /-- Plate lines read by a tile step, and slots. -/
  lines  : NatSet
  slots  : List (Fin 64)
  /-- The bytes that an LD command brings in. -/
  landed : List LoadRun
deriving DecidableEq, Repr

/-- The engine command windows of a core (R55, R116, R357, R358). -/
structure Window where
  number   : Nat
  count    : Nat
  cmds     : List Retained
  /-- Accumulator values before the window's first write of each. -/
  saved    : List (Fin 4 × Accum × Nat)
  spoiled  : Bool
  /-- Lines, and places of weight slots, that a retained load has brought in and something else has written since (R358). -/
  changed  : NatSet
deriving DecidableEq, Repr

def Window.fresh (n : Nat) : Window := { number := n, count := 0, cmds := [], saved := [], spoiled := false, changed := [] }

/-- The checkpoint that SEGB takes (R359). -/
structure Checkpoint where
  x      : Vector Word 32
  masks  : Vector (BitVec 4096) 8
  perms  : Vector PermReg 16
  vw     : Vector (BitVec 128) 32
  shp    : BitVec 14
  mode   : Word
  ft     : Vector (BitVec 32) 16
  ftlvl  : BitVec 8
  lc     : Vector Word 4
  lb     : Vector Word 4
  le     : Vector Word 4
  fc     : Vector Nat 4
  order  : List (Fin 4)
  tokens : Vector (BitVec 4) 10
  acc    : Vector Accum 4
  accSeq : Vector Nat 4
  chainAcc : Vector Accum 4
  ring   : Vector RingEntry 8
  ringPush : Nat
  vstat  : BitVec 5
  chain  : FetchChain
  sclk   : Nat
  window : Window
deriving DecidableEq, Repr

/-- The proof segment (R117–R119, R359). -/
structure Segment where
  open_  : Bool
  start  : Nat
  crc    : BitVec 32
  count  : BitVec 17
  sig    : BitVec 32
  begin_ : Word
  /-- A TMARK has issued since SEGB. -/
  marked : Bool
  /-- Nothing was in flight at SEGB, and nothing since forbids a re-run (R359). -/
  clean  : Bool
  /-- Plate lines read and written by the segment's instructions. -/
  reads  : NatSet
  rerun  : Bool
  check  : Option Checkpoint
deriving DecidableEq, Repr

def Segment.none : Segment :=
  { open_ := false, start := 0, crc := 0xFFFFFFFF, count := 0, sig := 0, begin_ := 0, marked := false, clean := false,
    reads := [], rerun := false, check := Option.none }

/-- A core: the sequencer, its five engines, and the homes and nodes that stand beside them. -/
structure Core where
  -- registers
  x        : Vector Word 32
  tx       : Vector Word 8
  vw       : Vector (BitVec 128) 32
  shp      : BitVec 14
  masks    : Vector (BitVec 4096) 8
  perms    : Vector PermReg 16
  acc      : Vector Accum 4
  accSeq   : Vector Nat 4
  chainAcc : Vector Accum 4
  wslots   : Vector WeightSlot 64
  ring     : Vector RingEntry 8
  ringPush : Nat
  tokens   : Vector (BitVec 4) 10
  sems     : Vector Semaphore 32
  streams  : Vector (Option StreamBinding) 32
  evq      : List EvRecord
  evqPend  : Nat
  lc       : Vector Word 4
  lb       : Vector Word 4
  le       : Vector Word 4
  fc       : Vector Nat 4
  order    : List (Fin 4)
  ft       : Vector (BitVec 32) 16
  ftlvl    : BitVec 8
  mode     : Word
  utvec    : Word
  tvec     : Word
  sclk     : Nat
  vstat    : BitVec 5
  detst    : Word
  guardst  : BitVec 30
  seg      : Segment
  cause    : Word
  badaddr  : Word
  xpc0     : Word
  xpc1     : Word
  xpc2     : Word
  tstatus  : BitVec 11
  groupid  : Word
  kernid   : BitVec 32
  tenant   : TenantId
  -- memory
  plate    : Memory
  marks    : NatSet
  /-- The bytes of marked lines that unmarked data has overwritten since (R356). -/
  wiped    : NatSet
  guards   : NatSet
  /-- GUARDST has recorded a touch in this die cycle (R259). -/
  touchedNow : Bool
  tlb      : List TlbEntry
  /-- The pages that the module OS has declared unmapped for the access that waits for them, and the translations that this access
  has obtained (R269). -/
  unmapped : List Nat
  held     : List TlbEntry
  -- sequencing
  chain    : FetchChain
  activity : Activity
  sOpen    : Bool
  issued   : Bool
  draining : Option Draining
  /-- RTT has issued and handler accesses are outstanding (R127). -/
  rttWait  : Bool
  freeze   : Option Freeze
  traps    : List PendingTrap
  breakpoints : List Word
  skipBreak : Bool
  /-- The breakpoint of the instruction at XPC0 has been raised (R126). -/
  breakTaken : Bool
  /-- guess1 and guess2 of the chain that XPC0–XPC2 hold. -/
  xguess   : Bool × Bool
  /-- The FENCE whose acknowledgements the core waits for stands in a slot (R122). -/
  barrierSlot : Bool
  /-- The last parcel of an instruction whose loop-back event is deferred until RTT (R124). -/
  loopDeferred : Option Nat
  seqNo    : Nat
  iter     : Nat
  x30Start : Word
  /-- The die cycle at which the last HALT completed here, until the next iteration starts. -/
  haltedAt : Option Nat
  -- engines and results in flight
  queues   : Vector (List QEntry) 5
  engFree  : Vector Nat 5
  burinFree : Nat
  divFree  : Nat
  landings : List Landing
  globals  : List GlobalAccess
  homeOps  : List HomeOp
  copies   : List CopyInFlight
  nextCopy : Nat
  bankReads : List (Nat × Nat)
  /-- Index tiles fetched or to be fetched for issued indexed transfers, oldest first (R223). -/
  ahead    : List IndexFetch
  /-- Line reads of group 4 that wait for their banks, oldest first: the die cycle of arrival, the line, the packet (R258). -/
  reads4   : List (Nat × Nat × Nat)
  /-- The packets all of whose lines have been granted, the banks that others have read in this die cycle, and once for each die cycle that
  the core's own reads of an S-cycle still take at a bank, that bank. -/
  granted4 : List Nat
  bankBusy : List Nat
  bankOwed : List Nat
  /-- The copies behind the posts of the CP-fed token counters, oldest first (R25, R238). -/
  posted   : List (Fin 10 × Nat)
  -- handler resources, in die cycles
  hReady   : List (Res × Nat)
  hSlots   : List Nat
  hDivFree : Nat
  /-- What accesses of a handler do when they land, with the die cycle and the address of the instruction (R94, R99). -/
  hLater   : List (Nat × Word × Eff)
  -- engine command windows
  window   : Window
  oldWindows : List Window
  -- homes and nodes
  pools    : Vector (Option PoolUnit) 8
  rings    : Vector (Option RingUnit) 8
  nodes    : Vector RedNode 8
  /-- Releases this core has made, and for each other core the releases it has acquired (R294, R295, R304). -/
  rel      : Nat
  known    : List (CoreId × Nat)
  /-- What the stores behind its FENCEs carry, what its reads have returned, and the Plate bytes that carry releases (R295). -/
  fenced   : List Covered
  heard    : List (CoreId × Covered)
  flags    : List Flag
deriving DecidableEq, Repr

/-- A core right after reset: every item of R9 at its kernel-start value where the reset state gives none, no iteration. -/
def Core.reset : Core :=
  { x := Vector.replicate 32 0, tx := Vector.replicate 8 0, vw := Vector.replicate 32 0, shp := 0,
    masks := Vector.replicate 8 (BitVec.allOnes 4096), perms := Vector.replicate 16 PermReg.identity256,
    acc := Vector.replicate 4 Accum.zero, accSeq := Vector.replicate 4 0, chainAcc := Vector.replicate 4 Accum.zero,
    wslots := Vector.replicate 64 WeightSlot.invalid, ring := Vector.replicate 8 RingEntry.empty, ringPush := 0,
    tokens := Vector.replicate 10 0, sems := Vector.replicate 32 ⟨0, false⟩, streams := Vector.replicate 32 none,
    evq := [], evqPend := 0, lc := Vector.replicate 4 0, lb := Vector.replicate 4 0, le := Vector.replicate 4 0,
    fc := Vector.replicate 4 0, order := [], ft := Vector.replicate 16 0, ftlvl := 0, mode := 0, utvec := 0, tvec := 0,
    sclk := 0, vstat := 0, detst := 0, guardst := 0, seg := Segment.none, cause := 0, badaddr := 0, xpc0 := 0, xpc1 := 0,
    xpc2 := 0, tstatus := 0, groupid := 0, kernid := 0, tenant := 0, plate := [], marks := [], wiped := [], guards := [], touchedNow := false,
    tlb := [], unmapped := [], held := [], chain := ⟨0, 0, 0, false, false, false, false, false, false⟩, activity := .idle, sOpen := false, issued := false,
    draining := none, rttWait := false, freeze := none, traps := [], breakpoints := [], skipBreak := false,
    breakTaken := false, xguess := (false, false), barrierSlot := false, loopDeferred := none,
    seqNo := 0, iter := 0, x30Start := 0, haltedAt := none, queues := Vector.replicate 5 [], engFree := Vector.replicate 5 0, burinFree := 0,
    divFree := 0, landings := [], globals := [], homeOps := [], copies := [], nextCopy := 0, bankReads := [], ahead := [], reads4 := [], granted4 := [], bankBusy := [], bankOwed := [], posted := [],
    hReady := [], hSlots := [], hDivFree := 0, hLater := [], window := Window.fresh 0, oldWindows := [],
    pools := Vector.replicate 8 none, rings := Vector.replicate 8 none, nodes := Vector.replicate 8 RedNode.idle,
    rel := 0, known := [], fenced := [], heard := [], flags := [] }

/-! ### Dies, tenants, kernels, links, hub -/

/-- Bytes of one memory with the granules that carry poison (R356), numbered address / 64, and the bytes that carry releases (R295). -/
structure Store where
  mem   : Memory
  marks : NatSet
  /-- The bytes of marked granules that unmarked data has overwritten since (R356). -/
  wiped : NatSet
  flags : List Flag
deriving DecidableEq, Repr

def Store.empty : Store := { mem := [], marks := [], wiped := [], flags := [] }

/-- An output port of a crossbar (R317, R342): inputs from the least to the most recently granted, the die cycle at which it
falls free, the packets waiting for it, its slot table of 64 bytes, the die cycle of the latest arrival behind it, and the packets in
the buffer of the unit it leads to, each with the die cycle at which it has arrived. -/
structure OutPort where
  order : List Port
  freeAt : Nat
  waiting : List Packet
  slots : Vector Byte 64
  lastOut : Nat
  buffer : List (Nat × Packet)
deriving DecidableEq, Repr

def OutPort.reset : OutPort :=
  { order := List.finRange 64, freeAt := 0, waiting := [], slots := Vector.replicate 64 0, lastOut := 0, buffer := [] }

/-- One weight-store bank group (R263): the die cycle at which its last refresh began, while it is being refreshed the die cycle at
which that ends, and the WREFs that wait for that. -/
structure BankGroup where
  lastStart : Nat
  busyUntil : Nat
  waiting   : Nat
deriving DecidableEq, Repr

/-- An error bank (R363). -/
structure ErrorBank where
  stat : Word
  addr : Word
  info : Word
  time : Word
  ce   : BitVec 32
deriving DecidableEq, Repr

def ErrorBank.empty : ErrorBank := { stat := 0, addr := 0, info := 0, time := 0, ce := 0 }

/-- An entry of a recent-writer table (R304): a line, and the cores that stored to it, each with its release count at its latest
store there; 2^64 and the copy's number for a copy that the core has not consumed (R238). -/
structure RecentWriter where
  line   : Nat
  stores : List (CoreId × Nat)
deriving DecidableEq, Repr

/-- A multicast that has been sent and not yet applied everywhere (R345–R347): its source, its notice (window, port) once
posted, the die cycle at which the notice is seen, the destinations that have still to apply it, and what it writes. -/
structure Multicast where
  id     : Nat
  src    : CoreId
  die    : DieId
  port   : Port
  window : Option Nat
  dsts   : List CoreId
  copy   : Option Nat
  seq    : Nat
  /-- CMCAST bytes at Plate offsets. -/
  cells  : List (Nat × Byte)
  /-- SEMMSET. -/
  sem    : Option (Reg × BitVec 32)
  /-- TLBINV: tenant, first byte, byte count (0: the whole context). -/
  inval  : Option (TenantId × Nat × Nat)
  /-- Lines that carry poison. -/
  marked : List Nat
  /-- The hub's number of a cross-die multicast. -/
  hub    : Option Nat
  /-- The time at which it was sent. -/
  sentAt : Nat
  /-- Destinations whose data is still on its way (R346). -/
  owed   : List CoreId
  /-- The release that it makes. -/
  rel    : Option Covered
deriving DecidableEq, Repr

/-- A page walk of a die (R269): the page, who waits for it, the levels it has still to read and the base of the table it reads next,
and whether it has ended, with the leaf it has found. -/
structure Walk where
  ctx    : Fin 9
  va     : Nat
  askers : List (CoreId × Asker)
  levels : List (Nat × Nat × Nat)
  base   : Nat
  done   : Bool
  leaf   : Option TlbEntry
deriving DecidableEq, Repr

/-- A compute die. -/
structure Die where
  dclk    : Nat
  tlb     : List TlbEntry
  walks   : List Walk
  groups  : Vector BankGroup 32
  outs    : Vector OutPort 64
  /-- For each port the last notice window in which it posted (R345), plus one; 0 none. -/
  noticed : Vector Nat 64
  banks   : Vector ErrorBank 16
  life    : Memory
  /-- HBM banks under refresh: slice, bank, and the die cycle at which it ends (R353). -/
  refreshing : List (Fin 16 × Nat × Nat)
  /-- The die cycle up to which patrol scrub blocks the unit at a port (R353). -/
  scrubUntil : Vector Nat 64
  /-- The die cycle at which the input of a port falls free (R340). -/
  inFree  : Vector Nat 64
  pausedUntil  : Vector Nat 64
  laneMap : List (Fin 64 × Nat)
  /-- HBM channels whose redundant lanes are spent (R365). -/
  retired : List (Fin 64)
  recent  : Vector (List RecentWriter) 16
  /-- The temperature, and the time up to which its seconds have been counted (R367). -/
  celsius : Int
  celsiusAt : Nat
deriving DecidableEq, Repr

def Die.reset : Die :=
  { dclk := 0, tlb := [], walks := [], groups := Vector.replicate 32 ⟨0, 0, 0⟩, outs := Vector.replicate 64 OutPort.reset,
    noticed := Vector.replicate 64 0, banks := Vector.replicate 16 ErrorBank.empty, life := [],
    refreshing := [], scrubUntil := Vector.replicate 64 0, inFree := Vector.replicate 64 0, pausedUntil := Vector.replicate 64 0, laneMap := [], retired := [],
    recent := Vector.replicate 16 [], celsius := 25, celsiusAt := 0 }

/-- The trace record of TRAP n < 512 (R125). -/
structure TraceRecord where
  n      : Nat
  kernid : BitVec 32
  core   : CoreId
  sclk   : Nat
  dclk   : Nat
  xpc0   : Word
  xpc1   : Word
  xpc2   : Word
  tstatus : BitVec 11
deriving DecidableEq, Repr

/-- A tenant: its control block (R368), its context, and what the module OS keeps for it. -/
structure Tenant where
  gbase   : Word
  gcount  : BitVec 32
  logbase : Word
  loglen  : BitVec 16
  loghead : BitVec 16
  vf      : Bool
  pending : List Activation
  /-- Base of the page table in HBM (R267). -/
  root    : Nat
  trace   : List TraceRecord
  msix    : List Nat
  /-- Error successors of dropped activations that have not found a place yet (R305). -/
  late    : List Activation
  /-- The first HBM byte of the area in which the contexts of its pre-empted kernels are kept (R323). -/
  saveArea : Nat
  /-- The 64 KiB pages of its context that its host may reach, by number (R370). -/
  visible : NatSet
deriving DecidableEq, Repr

def Tenant.reset (root saveArea : Nat) : Tenant :=
  { gbase := 0, gcount := 0, logbase := 0, loglen := 0, loghead := 0, vf := false, pending := [], root, trace := [],
    msix := [], late := [], saveArea, visible := [] }

/-- How a kernel was faulted (R320, R321). -/
structure KernelFault where
  code    : Nat
  rank    : Nat
  badaddr : Word
  xpc     : Word
  host    : Bool
  /-- The time at which the kernel was marked faulted, in die cycles since reset. -/
  marked  : Nat
deriving DecidableEq, Repr

/-- The context of one core of a pre-empted kernel (R81, R323). -/
structure SavedCore where
  rank    : Nat
  running : Bool
  addr    : Word
  sclk    : Nat
  x       : List (Reg × Word)
  vw      : List (Reg × BitVec 128)
  perms   : List (Fin 16 × Nat × List Nat)
  masks   : List (Fin 8 × BitVec 4096)
  sems    : List (Reg × BitVec 32)
  faults  : List Bool
  shp     : BitVec 14
  mode    : Word
  utvec   : Word
  ftlvl   : BitVec 8
  ft      : Vector (BitVec 32) 16
  lc      : Vector Word 4
  lb      : Vector Word 4
  le      : Vector Word 4
  order   : List (Fin 4)
  streams : Vector (Option StreamBinding) 32
  guards  : NatSet
  plate   : Memory
  vstat   : BitVec 5
  detst   : Word
  guardst : BitVec 30
  iter    : Nat
  x30     : Word
  savedAt : Nat
  pools   : Vector (Option PoolUnit) 8
  rings   : Vector (Option RingUnit) 8
  /-- The trap CSRs CAUSE, BADADDR, XPC0–XPC2, and the poison marks of the saved Plate bytes. -/
  cause   : Word
  badaddr : Word
  xpc     : Word × Word × Word
  marks   : NatSet
  wiped   : NatSet
  ranges  : List (Nat × Nat)
  /-- What the save releases and the reads have returned, and the releases left at the core's semaphores, pools and rings (R299). -/
  known   : List (CoreId × Nat)
  fenced  : List Covered
  heard   : List (CoreId × Covered)
  synced  : List Published
  /-- The releases that the saved Plate bytes carry (R295). -/
  flags   : List Flag
  /-- The first HBM byte of what the save has written (R323). -/
  area    : Nat
deriving DecidableEq, Repr

/-- Where the pool of a declaration entry is homed (R272, R275): by rank for a private pool, by core for a tenant pool. -/
structure PoolRef where
  tenantPool : Bool
  home : Nat
  unit : Fin 8
deriving DecidableEq, Repr

/-- A ring declaration's sides, and its unit at the consumer's core (R282). -/
structure RingRef where
  prod : Nat
  cons : Nat
  unit : Fin 8
deriving DecidableEq, Repr

/-- A kernel instance (R312–R324). `record` holds the 256 bytes of its record. -/
structure Kernel where
  kid      : Nat
  group    : Nat
  tenant   : TenantId
  act      : Activation
  record   : List Byte
  argp     : Word
  /-- The initial views, and the stream handles as the record binds them (R312). -/
  views    : List (BitVec 128)
  binds    : List (Option StreamBinding)
  /-- What entry i of the pool and ring declaration tables names; none where the entry is not used. -/
  pools    : List (Option PoolRef)
  rings    : List (Option RingRef)
  cores    : List CoreId
  nextIter : Nat
  done     : Nat
  gang     : List (DieId × Nat)
  started  : Bool
  startAt  : Nat
  /-- The die cycle at which the latest iteration issues or issued first (R319). -/
  lastStart : Nat
  /-- A staged successor waits for this launcher (R311). -/
  staged   : Option Nat
  stagedReady : Bool
  fault    : Option KernelFault
  /-- The rings of the faulted kernel have been broken and the FAULT flags set (R288). -/
  broken   : Bool
  preads   : Nat
  /-- The die cycle of a pre-emption request (R322). -/
  preempt  : Option Nat
  saved    : Option (List SavedCore)
deriving DecidableEq, Repr

/-- A COPY node in progress (R307): the commands left, and its streams with their cursors. -/
structure HubCopy where
  act   : Activation
  id    : Nat
  left  : Nat
  src   : StreamBinding
  dst   : StreamBinding
  /-- The dies whose weight store it writes (R262). -/
  dies  : List DieId
deriving DecidableEq, Repr

/-- A Biryar port (R348, R349, R352): its status register, the link sequence numbers to be sent and to be taken next, the flits that
have not been acknowledged and the time since which they have not, the flit that fails and how often in succession it has, the retries of
each lane since training, and the acknowledgements, NACKs and answers that it has sent. -/
structure BiryarPort where
  status  : Word
  txSeq   : BitVec 16
  rxSeq   : BitVec 16
  unacked : List Flit
  lastAck : Nat
  failing : BitVec 16
  retries : Nat
  laneRetries : Vector Nat 8
  replies : List Flit
deriving DecidableEq, Repr

def BiryarPort.reset : BiryarPort :=
  { status := 0, txSeq := 0, rxSeq := 0, unacked := [], lastAck := 0, failing := 0, retries := 0, laneRetries := Vector.replicate 8 0, replies := [] }

/-- A packet toward a peer module that has no end-to-end acknowledgement (R300, R301, R350). -/
structure PeerPacket where
  pairSeq : Nat
  port    : Fin 16
  via     : List Nat
  /-- The number of the packet, and the bytes that it reads or writes. -/
  num     : Nat
  addr    : Nat
  bytes   : Nat
  copy    : Option (CoreId × Nat)
  ops     : List PortOp
  red     : Option RedPacket
deriving DecidableEq, Repr

/-- A path toward a module (R350): this module's port, the modules that relay, and whether it is down beyond the port. -/
structure PeerPath where
  port : Fin 16
  via  : List Nat
  down : Bool
deriving DecidableEq, Repr

/-- A packet taken from another module on its way through this one (R351, R352): the port it has come by, the module and the pair sequence
number, the tenant in whose context it is performed, its packets that are out, the bytes that answer it, each with its address, and whether
they are marked or a packet has been abandoned. -/
structure Inbound where
  id     : Nat
  port   : Fin 16
  module : Nat
  seq    : Nat
  tenant : TenantId
  out    : List Nat
  data   : List (Nat × List Byte)
  marked : Bool
  failed : Bool
deriving DecidableEq, Repr

/-- Traffic with one other module (R300, R350, R352). -/
structure PeerLink where
  module   : Nat
  nextSeq  : Nat
  unacked  : List PeerPacket
  /-- Node packets that wait for room there, with their delay and length (R300). -/
  held     : List (PeerPacket × Nat × Nat)
  paths    : List PeerPath
  /-- Pair sequence numbers taken from that module, at most 4,096 (R300), and what those that have been performed were answered. -/
  seen     : NatSet
  answers  : List (Nat × List Byte × Bool)
  /-- The pairing table: source tenant to local tenant (R352). -/
  pairing  : List (Nat × TenantId)
  /-- Beats of a packet not complete yet. -/
  beats    : List Flit
  /-- Writes toward that module that have been lost: the core, and the release count that does not cover them (R301). -/
  lost     : List (CoreId × Nat)
deriving DecidableEq, Repr

/-- How far boot has come (R372, R373). -/
inductive BootPhase
  /-- No power or the boot ROM has not run. -/
  | off
  /-- Neither flash copy verifies: only an update over PLDM (R372). -/
  | updateOnly
  /-- The module OS runs; activations are discarded. -/
  | osStarted
  /-- The Easel runs (R373 step 4). -/
  | ready
  /-- Shut down in order (R376). -/
  | shutdown
deriving DecidableEq, Repr

/-- The hub: boot, flash, management (R372–R376). -/
structure Hub where
  phase    : BootPhase
  flash    : Vector (Option FlashImage) 2
  minVersion : Nat
  booted   : Option FlashImage
  configDigest : Nat
  repairMaps : List (DieId × Fin 64 × Nat)
  owners   : Vector (Option TenantId) 128
  powerLimit : Nat
  banks    : Vector ErrorBank 4
  /-- Life records in flash, two copies each (R367). -/
  lifeFlash : Vector (Vector Memory 2) 4
  lifeUpdates : Vector Nat 4
  failedPorts : List (Fin 4)
  accepting : Bool
  /-- The module shuts down in order (R376). -/
  closing  : Bool
  reports  : Nat
  /-- What the latest management request was answered with (R374). -/
  answer   : List Nat
  osLog    : List (Nat × Nat)
  /-- Error interrupts raised (R363). -/
  interrupts : Nat
  /-- The power that the module draws. -/
  watts    : Nat
  /-- The retries of a lane above which its port falls back, where the module OS has set them (R349). -/
  laneLimit : Option Nat
  /-- The expanders in use: root port and 64 KiB frames (R371). -/
  expanders : List (Fin 4 × Nat)
  nextHubNotice : Nat
  /-- The numbered multicasts that the hub is to post, each with its destination dies. -/
  hubQueue : List (Nat × List DieId)
  /-- The enabled MSI-X vectors of each function (R368), and what the module OS has read of the management window (R352, R362). -/
  vectors  : Vector (List Nat) 9
  windowData : Word
  /-- What the host's latest read has returned (R368, R370). -/
  hostData : List Byte
  /-- The module's own number in the peer domain. -/
  moduleNo : Nat
  /-- The slot tables of the CXL root ports (R317). -/
  cxlSlots : Vector (Vector Byte 64) 4
deriving DecidableEq, Repr

def Hub.reset : Hub :=
  { phase := .off, flash := Vector.replicate 2 none, minVersion := 0, booted := none, configDigest := 0, repairMaps := [],
    owners := Vector.replicate 128 none, powerLimit := 3600, banks := Vector.replicate 4 ErrorBank.empty,
    lifeFlash := Vector.replicate 4 (Vector.replicate 2 []), lifeUpdates := Vector.replicate 4 0, failedPorts := [], accepting := true,
    closing := false, reports := 0, answer := [], osLog := [], interrupts := 0, watts := 0, laneLimit := none, expanders := [],
    nextHubNotice := 0, hubQueue := [], vectors := Vector.replicate 9 [], windowData := 0, hostData := [], moduleNo := 0, cxlSlots := Vector.replicate 4 (Vector.replicate 64 0) }

/-- A step that is due at a die cycle (the model's own: it orders the part's events and the outside world's inputs). -/
structure AgendaItem where
  due  : Nat
  what : Event
deriving DecidableEq, Repr

/-- The whole module. `time` counts die cycles since reset and every die's DCLK advances with it; `cur` is the core whose
S-cycle is being performed and `curDone` says that it has had its turn in this die cycle; `oracle` holds choices of timing that
the spec leaves open, and where it is empty the free value with the number `fresh` is the choice. -/
structure State where
  cores   : Vector Core 128
  dies    : Vector Die 4
  hbm     : Store
  tier2   : Store
  wstore  : Vector Store 4
  host    : Store
  peers   : List (Nat × Store)
  tenants : Vector Tenant 8
  kernels : List Kernel
  nextKid : Nat
  nextOrder : Nat
  nextRid : Nat
  nextPacket : Nat
  copyNodes : List HubCopy
  casts   : List Multicast
  nextCast : Nat
  /-- Releases left at their objects. -/
  synced  : List Published
  /-- What the activations that a JOIN has counted release: tenant, graph base, node (R308). -/
  joins   : List ((TenantId × Nat × Nat) × List (CoreId × Nat))
  ports   : Vector BiryarPort 16
  links   : List PeerLink
  /-- Packets from other modules that are on their way through this one. -/
  inbound : List Inbound
  hub     : Hub
  osRoot  : Nat
  time    : Nat
  cur     : CoreId
  curDone : Bool
  agenda  : List AgendaItem
  /-- The event register: what the part's step being performed acts on (the model's own). -/
  event   : Event
  oracle  : List Nat
  fresh   : Nat
deriving DecidableEq, Repr

/-- Why the machine stops. -/
inductive Fault
  /-- Nothing raises it: every cause the spec describes is a handler trap, a record or a log entry. Kept so that the type
  has a name to show. Safe. -/
  | unreachable
deriving DecidableEq, Repr

/-- Why an instruction has no meaning here. -/
inductive Refusal
  /-- An arm of the dispatcher whose instruction has no meaning yet. Safe. -/
  | notModelled (mnemonic : String)
deriving DecidableEq, Repr

/-- The module right after reset: no power-on step has run, every core is idle. -/
def State.reset : State :=
  { cores := Vector.replicate 128 Core.reset, dies := Vector.replicate 4 Die.reset, hbm := Store.empty, tier2 := Store.empty,
    wstore := Vector.replicate 4 Store.empty, host := Store.empty, peers := [],
    tenants := Vector.ofFn fun k => Tenant.reset (4096 * k.val) (2 ^ 38 + 2 ^ 34 * k.val), kernels := [], nextKid := 1, nextOrder := 0,
    nextRid := 0, nextPacket := 1, copyNodes := [], casts := [], nextCast := 0, synced := [], joins := [],
    ports := Vector.replicate 16 BiryarPort.reset, links := [], inbound := [],
    hub := Hub.reset, osRoot := 0x8000, time := 0, cur := 0, curDone := false, agenda := [], event := .noticeWindow 0, oracle := [], fresh := 0 }

end Sys2Proof.Machine
end

