-- ==== Sys2Proof/Machine/Ops.lean ====
section
/-! DEFINITION. The named operations over the state: cores, dies and time; registers; memories, poison and guard marks;
translation and fetch; the fetch chain, loop-back and issue; taking a handler trap and returning from one. -/

namespace Sys2Proof.Machine

/-- An outcome of a step of this machine. -/
abbrev Out := Host.Outcome State Fault Refusal

/-! ### Cores, dies, time -/

/-- The die of a core (R2). -/
def dieOf (c : CoreId) : DieId := Fin.ofNat 4 (c.val / 32)

/-- The local number of a core on its die. -/
def localOf (c : CoreId) : Reg := Fin.ofNat 32 c.val

/-- The core with a local number on a die. -/
def coreAt (d : DieId) (l : Nat) : CoreId := Fin.ofNat 128 (32 * d.val + l % 32)

def State.core (s : State) (c : CoreId) : Core := s.cores[c]

def State.setCore (s : State) (c : CoreId) (k : Core) : State := { s with cores := s.cores.set c k }

def State.modCore (s : State) (c : CoreId) (f : Core → Core) : State := s.setCore c (f (s.core c))

/-- The core in focus: the one whose S-cycle the step performs. -/
def State.cpu (s : State) : Core := s.core s.cur

def State.setCpu (s : State) (k : Core) : State := s.setCore s.cur k

def State.modCpu (s : State) (f : Core → Core) : State := s.setCpu (f s.cpu)

def State.die (s : State) (d : DieId) : Die := s.dies[d]

def State.setDie (s : State) (d : DieId) (k : Die) : State := { s with dies := s.dies.set d k }

def State.modDie (s : State) (d : DieId) (f : Die → Die) : State := s.setDie d (f (s.die d))

def State.tenantOf (s : State) (t : TenantId) : Tenant := s.tenants[t]

def State.modTenant (s : State) (t : TenantId) (f : Tenant → Tenant) : State :=
  { s with tenants := s.tenants.set t (f (s.tenants[t])) }

/-- DCLK of a core's die (R3, R32). -/
def State.now (s : State) (c : CoreId) : Nat := (s.die (dieOf c)).dclk

/-- The next choice of timing that the spec leaves open: the first of the list of choices, else a free value (log entry 7). -/
def State.choice (s : State) : Nat :=
  match s.oracle with
  | n :: _ => n
  | [] => Config.timing s.fresh

/-- The state after a choice has been used. -/
def State.chosen (s : State) : State := { s with oracle := s.oracle.tail, fresh := s.fresh + 1 }

/-- The place of a step among those due in one die cycle (R237): what arrives at a home is serviced with the home core's own
operations first, a multicast set of its own before them (R240), and then by ascending core number, behind everything else due; packets at a
reduction node come before its deadline (R331); errors are taken in ascending order of their unit (R364). -/
def Event.key : Event → Nat
  | .multicastApply c src _ => if src = c then 1 else 3 + src.val
  | .semRemoteService src dst _ _ _ _ => if src = dst then 2 else 3 + src.val
  | .poolService q => if q.src = q.home then 2 else 3 + q.src.val
  | .ringService q | .ringWaitServiced q => if q.src = q.home then 2 else 3 + q.src.val
  | .reductionPacketArrival p =>
    match p.srcNode with
    | none => if p.srcCore = p.dstCore then 2 else 3 + p.srcCore.val
    | some n => 200 + 8 * p.srcCore.val + n.val
  | .nodeDeadline _ _ => 2000
  | .group4ReadPromotion _ _ => 3000
  | .patrolScrub (some (.plate c)) _ _ _ | .coreStateParity c _ => 4000 + (localOf c).val
  | .patrolScrub (some (.wstore _)) line _ _ => 4000 + line / 2 ^ 19 % 32
  | .patrolScrub (some .hbm) line _ _ => 4000 + line % 16
  | .hbmLaneRepair _ ch _ => 4000 + ch.val / 4
  | .headerError _ port _ _ | .packetAbandon _ port _ _ => 4000 + port.val
  | .biryarNack port _ | .laneFallback port _ => 4000 + port.val % 4
  | .replayRereadDone c => 4000 + (localOf c).val
  | .cxlPortFailure port => 4000 + port.val
  | _ => 0

/-- An item placed behind every item due no later. -/
def insertAgenda (a : AgendaItem) : List AgendaItem → List AgendaItem
  | [] => [a]
  | b :: bs =>
    if b.due < a.due || (b.due = a.due && Event.key b.what ≤ Event.key a.what) then b :: insertAgenda a bs else a :: b :: bs

/-- A step of the part scheduled some die cycles ahead. -/
def State.schedule (s : State) (delay : Nat) (what : Event) : State :=
  { s with agenda := insertAgenda ⟨s.time + delay, what⟩ s.agenda }

/-! ### Control-register fields -/

/-- `n` bits of a word from bit `lo`. -/
def bitsOf {w : Nat} (v : BitVec w) (lo n : Nat) : Nat := v.toNat / 2 ^ lo % 2 ^ n

/-- One bit. -/
def bitOf {w : Nat} (v : BitVec w) (k : Nat) : Bool := v.toNat / 2 ^ k % 2 = 1

/-- MODE.EXP (R34). -/
def Core.exposed (c : Core) : Bool := bitOf c.mode 0

/-- MODE.DET. -/
def Core.det (c : Core) : Bool := bitOf c.mode 1

/-- MODE.WSCHED. -/
def Core.wsched (c : Core) : Bool := bitOf c.mode 2

/-- MODE.TRAPDLG. -/
def Core.trapDlg (c : Core) : Bool := bitOf c.mode 8

/-- TSTATUS.TM: in trap mode (R36). -/
def Core.trapMode (c : Core) : Bool := bitOf c.tstatus 0

/-- TSTATUS.USER: in the user handler. -/
def Core.userHandler (c : Core) : Bool := bitOf c.tstatus 1

/-- GROUPID.SIZE (R33). -/
def Core.groupSize (c : Core) : Nat := bitsOf c.groupid 16 8

/-- GROUPID.RANK. -/
def Core.rank (c : Core) : Nat := bitsOf c.groupid 24 7

/-- The instruction due to issue stands in a slot (R102). -/
def Core.inSlot (c : Core) : Bool := c.chain.prior1 || c.chain.prior2

/-! ### X registers (R16, R17) -/

/-- Register `n` of an instruction: X0 is zero, and in trap mode 24–31 are TX0–TX7. -/
def Core.readX (c : Core) (n : Reg) : Word :=
  if n = 0 then 0
  else if c.trapMode && 24 ≤ n.val then c.tx[Fin.ofNat 8 (n.val - 24)]
  else c.x[n]

/-- A write of register `n`: a write to X0 is discarded. -/
def Core.writeX (c : Core) (n : Reg) (v : Word) : Core :=
  if n = 0 then c
  else if c.trapMode && 24 ≤ n.val then { c with tx := c.tx.set (Fin.ofNat 8 (n.val - 24)) v }
  else { c with x := c.x.set n v }

/-- A landing writes Xn itself, whatever the trap mode (R85). -/
def Core.landX (c : Core) (n : Reg) (v : Word) : Core := if n = 0 then c else { c with x := c.x.set n v }

/-- Register `n + k` of a group. -/
def regPlus (n : Reg) (k : Nat) : Reg := Fin.ofNat 32 (n.val + k)

/-! ### Results of sequencer instructions (R83, R85) -/

/-- A result of the sequencer that lands `lat` S-cycles after issue. -/
def Core.landLater (c : Core) (lat : Nat) (effs : List Eff) (holds : List Res) : Core :=
  { c with landings := c.landings ++
      [{ due := c.sclk + lat, seq := c.seqNo, addr := c.chain.c0, eng := none, postL := false, postR := false,
         window := c.window.number, holds, reads := [], effs }] }

/-- Register `d` receives `v` `lat` S-cycles after issue; in a handler it is written at once and is readable after `lat` die
cycles. DEDUCED (log entry 68): of two handler results for one register the later in program order stands, whatever their
latencies. -/
def State.resultX (s : State) (lat : Nat) (d : Reg) (v : Word) : State :=
  let c := s.cpu
  if c.trapMode then
    s.setCpu { c.writeX d v with hReady := (.x d, s.now s.cur + lat) :: c.hReady }
  else s.setCpu (c.landLater lat [.x d v] [.x d])

/-- Registers that one result fills together, as `resultX` (R67). -/
def State.resultXs (s : State) (lat : Nat) (rs : List (Reg × Word)) : State :=
  let c := s.cpu
  if c.trapMode then
    s.setCpu { rs.foldl (fun k r => k.writeX r.1 r.2) c with
                 hReady := rs.map (fun r => (.x r.1, s.now s.cur + lat)) ++ c.hReady }
  else s.setCpu (c.landLater lat (rs.map fun r => .x r.1 r.2) (rs.map fun r => .x r.1))

/-! ### Plate, guard marks, poison marks (R11, R12, R259, R356) -/

/-- The first byte of the trap window (R12). -/
def trapWindow : Nat := 0x3F0000

/-- The size of a Plate. -/
def plateSize : Nat := 0x400000

/-- A touch of a guard granule at an offset (R259): VALID, BANK and OFFSET are the first touch's, or the lowest one's of its die
cycle; later touches set MULTI. -/
def Core.touchGuard (c : Core) (off : Nat) : Core :=
  let at_ := 2 ^ 28 + off % plateSize * 64 + off / 64 % 64
  if !bitOf c.guardst 28 then
    { c with guardst := (c.guardst &&& 0x20000000#30) ||| BitVec.ofNat 30 at_, touchedNow := true }
  else if c.touchedNow && off % plateSize < bitsOf c.guardst 6 22 then { c with guardst := BitVec.ofNat 30 (2 ^ 29 + at_) }
  else { c with guardst := c.guardst ||| 0x20000000#30 }

/-- The lowest offset of an access that lies in a guard granule. -/
def Core.guardTouch (c : Core) (offs : List Nat) : Option Nat :=
  if c.guards.isEmpty then none
  else (offs.filter fun o => c.guards.contains (o / 256)).min?

/-- A read of Plate bytes records a touch and returns the contents. -/
def Core.readTouch (c : Core) (offs : List Nat) : Core :=
  match c.guardTouch offs with
  | some o => c.touchGuard o
  | none => c

/-- The touch that a read of Plate bytes at dispatch is, recorded at the landing of what read them (R99). -/
def Core.touchEffs (c : Core) (offs : List Nat) : List Eff := (c.guardTouch offs).toList.map .touched

/-- The granules (64 bytes) that a byte range touches. -/
def granules (a n : Nat) : List Nat := if n = 0 then [] else List.range' (a / 64) ((a + n - 1) / 64 - a / 64 + 1)

/-- The line of a Plate offset. -/
def lineOf (off : Nat) : Nat := off / 64

/-- Lines of the own Plate that an instruction of the open proof segment reads (R359). -/
def Core.segReads (c : Core) (lines : List Nat) : Core :=
  { c with seg := if c.seg.open_ then { c.seg with reads := lines.foldl NatSet.insert c.seg.reads } else c.seg }

/-- The lines that the landed loads of a window have brought in, those of its weight slots by their places (R357). -/
def Core.loadedBy (c : Core) (w : Window) : List Nat :=
  (w.cmds.filter fun r => !c.landings.any fun l => l.seq = r.entry.seq).flatMap fun r => r.landed.flatMap fun x => granules x.to_ x.n

/-- Lines of a window's loads that something else writes. -/
def Core.changedIn (c : Core) (w : Window) (lines : List Nat) : Window :=
  if w.cmds.all fun r => r.landed.isEmpty then w
  else { w with changed := ((c.loadedBy w).filter lines.contains).foldl NatSet.insert w.changed }

/-- A write on a line that a tile step of a window has read makes the window unreplayable (R358), and on a line that an
instruction of the open proof segment has read it forbids a re-run (R359). A line that a load of a window has brought in is no longer that
load's. -/
def Core.spoil (c : Core) (lines : List Nat) : Core :=
  let win (w : Window) : Window :=
    let w := c.changedIn w lines
    if w.cmds.any fun r => r.lines.any lines.contains then { w with spoiled := true } else w
  { c with window := win c.window, oldWindows := c.oldWindows.map win,
           seg := if c.seg.reads.any lines.contains then { c.seg with clean := false } else c.seg }

/-- What is left of a flag where bytes lo to lo + n − 1 are overwritten (R295). -/
def Flag.cut (f : Flag) (lo n : Nat) : List Flag :=
  if lo + n ≤ f.lo || f.lo + f.n ≤ lo then [f]
  else
    (if f.lo < lo then [{ f with n := lo - f.lo }] else []) ++
      (if lo + n < f.lo + f.n then [{ f with lo := lo + n, n := f.lo + f.n - (lo + n) }] else [])

/-- The runs of consecutive addresses among cells: first address and length. -/
def cellRuns : List (Nat × Byte) → List (Nat × Nat)
  | [] => []
  | p :: ps =>
    match cellRuns ps with
    | (a, n) :: rs => if a = p.1 + 1 then (p.1, n + 1) :: rs else (p.1, 1) :: (a, n) :: rs
    | [] => [(p.1, 1)]

/-- The flags left by a write of cells. -/
def cutFlags (fs : List Flag) (cells : List (Nat × Byte)) : List Flag :=
  if fs.isEmpty then [] else (cellRuns cells).foldl (fun fs r => fs.flatMap (·.cut r.1 r.2)) fs

/-- Marked granules and their overwritten bytes after unmarked data has been written at some addresses, and then marked data in some
granules: a granule every byte of which has been overwritten loses its mark (R356). -/
def remark (marks wiped : NatSet) (clean : List Nat) (marked : List Nat) : NatSet × NatSet :=
  if marks.isEmpty && marked.isEmpty then (marks, wiped)
  else
    let w := (clean.filter fun a => marks.contains (a / 64)).foldl NatSet.insert wiped
    let whole := marks.filter fun g => 64 ≤ (w.filter fun a => a / 64 = g).length
    (marked.foldl NatSet.insert (marks.filter fun g => !whole.contains g),
     w.filter fun a => !(whole.contains (a / 64) || marked.contains (a / 64)))

/-- Bytes written to a Plate: bytes in guard granules are suppressed and the touch recorded (R259). Lines in `marked` gain a mark, and a line
every byte of which has been overwritten by unmarked data loses its own (R356). -/
def Core.writePlate (c : Core) (cells : List (Nat × Byte)) (marked : List Nat) : Core :=
  let c := c.readTouch (cells.map (·.1))
  let ok := cells.filter fun p => !c.guards.contains (p.1 / 256)
  let c := c.spoil (ok.map (lineOf ·.1))
  let m := remark c.marks c.wiped (ok.map (·.1)) (marked.filter fun l => !c.guards.contains (l / 4))
  { c with plate := Memory.writeCells c.plate ok, flags := cutFlags c.flags ok, marks := m.1, wiped := m.2 }

/-- Bytes at consecutive addresses as cells. -/
def cellsFrom (a : Nat) : List Byte → List (Nat × Byte)
  | [] => []
  | b :: bs => (a, b) :: cellsFrom (a + 1) bs

/-! ### Physical memories -/

/-- The store of a memory other than a Plate. -/
def State.store (s : State) : Space → Store
  | .plate c => { mem := (s.core c).plate, marks := (s.core c).marks, wiped := (s.core c).wiped, flags := (s.core c).flags }
  | .hbm => s.hbm
  | .tier2 => s.tier2
  | .wstore d => s.wstore[d]
  | .peer m => ((s.peers.find? (·.1 = m)).map (·.2)).getD Store.empty
  | .host => s.host

/-- Bytes written to a store, and its marks (R356). -/
def Store.write (st : Store) (cells : List (Nat × Byte)) (marked : Bool) : Store :=
  let m := if marked then remark st.marks st.wiped [] (cells.map (·.1 / 64)) else remark st.marks st.wiped (cells.map (·.1)) []
  { mem := Memory.writeCells st.mem cells, marks := m.1, wiped := m.2, flags := cutFlags st.flags cells }

/-- A granule of a store gains a poison mark. -/
def Store.mark (st : Store) (g : Nat) : Store :=
  let m := remark st.marks st.wiped [] [g]
  { st with marks := m.1, wiped := m.2 }

/-- The memory of another module, as this module writes it. -/
def setPeer (ps : List (Nat × Store)) (m : Nat) (st : Store) : List (Nat × Store) :=
  if ps.any (·.1 = m) then ps.map fun p => if p.1 = m then (m, st) else p else ps ++ [(m, st)]

/-- Bytes written to a physical memory. -/
def State.writeSpace (s : State) (sp : Space) (cells : List (Nat × Byte)) (marked : Bool) : State :=
  match sp with
  | .plate c => s.modCore c fun k => k.writePlate cells (if marked then (cells.map (lineOf ·.1)) else [])
  | .hbm => { s with hbm := s.hbm.write cells marked }
  | .tier2 => { s with tier2 := s.tier2.write cells marked }
  | .wstore d => { s with wstore := s.wstore.set d (s.wstore[d].write cells marked) }
  | .peer m => { s with peers := setPeer s.peers m ((s.store (.peer m)).write cells marked) }
  | .host => { s with host := s.host.write cells marked }

/-- Bytes of a memory carry releases of a core (R295). -/
def State.setFlags (s : State) (sp : Space) (lo n : Nat) (c : CoreId) (rels : List Covered) : State :=
  let put (fs : List Flag) : List Flag := rels.map (fun r => ⟨lo, n, c, r⟩) ++ fs
  if rels.isEmpty then s
  else
    match sp with
    | .plate g => s.modCore g fun k => { k with flags := put k.flags }
    | .hbm => { s with hbm := { s.hbm with flags := put s.hbm.flags } }
    | .tier2 => { s with tier2 := { s.tier2 with flags := put s.tier2.flags } }
    | _ => s

/-- Cells of a memory carry releases of a core. -/
def State.flagCells (s : State) (sp : Space) (cells : List (Nat × Byte)) (c : CoreId) (rels : List Covered) : State :=
  if rels.isEmpty then s else (cellRuns cells).foldl (fun s r => s.setFlags sp r.1 r.2 c rels) s

/-- The releases that bytes of a memory carry, with the cores that made them (R295). -/
def State.heardAt (s : State) (sp : Space) (a n : Nat) : List (CoreId × Covered) :=
  ((s.store sp).flags.filter fun f => f.lo < a + n && a < f.lo + f.n).map fun f => (f.core, f.rel)

/-- `n` bytes read from a physical memory. -/
def State.readSpace (s : State) (sp : Space) (a n : Nat) : List Byte := Memory.readBytes (s.store sp).mem a n

/-- A byte range touches marked data. -/
def State.markedAt (s : State) (sp : Space) (a n : Nat) : Bool :=
  (granules a n).any fun g => (s.store sp).marks.contains g

/-- Every byte of `sp` read there is recorded where the bytes lie in guard granules of a Plate (R259). -/
def State.touchRead (s : State) (sp : Space) (a n : Nat) : State :=
  match sp with
  | .plate c => s.modCore c fun k => k.readTouch (List.range' a n)
  | _ => s

/-! ### Translation (R267–R269, R274) -/

/-- A page-table leaf and where it was found. -/
structure Leaf where
  va   : Nat
  size : Nat
  pte  : Word
deriving DecidableEq, Repr

/-- The context of a core: its tenant's, or the module OS's own in the module OS handler. Log entry 10. -/
def Core.ctx (c : Core) : Fin 9 := if c.trapMode && !c.userHandler then 8 else Fin.ofNat 9 c.tenant.val

/-- TYPE of a leaf (R268). -/
def pteType (p : Word) : Nat := bitsOf p 2 3

/-- The 64 KiB frames of HBM: 768 GB, decimal (R1, R4). -/
def hbmFrames : Nat := 11718750

/-- A leaf obeys R268 for its page size (as a power of two): the whole page lies within its target. -/
def pteOk (p : Word) (sizeLog : Nat) : Bool :=
  let addr := bitsOf p 16 48
  let tgt := bitsOf p 8 8
  (bitsOf p 16 48) % 2 ^ (sizeLog - 16) = 0 &&
  match pteType p with
  | 0 => tgt = 0 && addr + 2 ^ (sizeLog - 16) ≤ hbmFrames
  | 1 => tgt = 0 && addr + 2 ^ (sizeLog - 16) ≤ 2 ^ 26
  | 2 => tgt < 4 && addr + 2 ^ (sizeLog - 16) ≤ 2 ^ 14 && !bitOf p 6
  | 3 => sizeLog = 16 && tgt < 128 && addr < 0x40
  | 5 => true
  | _ => tgt = 0

/-- The bits that index each level, and the size of a leaf there. -/
def walkLevels : List (Nat × Nat × Nat) := [(39, 9, 0), (30, 9, 30), (21, 9, 21), (16, 5, 16)]

/-- What the entry of one level says of an address: no translation, a leaf, or the base of the next table (R267, R268). -/
def walkLevel (mem : Memory) (va : Nat) (l : Nat × Nat × Nat) (base : Nat) : Option (Leaf ⊕ Nat) :=
  let pte := BitVec.ofNat 64 (Memory.readNat mem (base + 8 * (va / 2 ^ l.1 % 2 ^ l.2.1)) 8)
  let size := l.2.2
  if !bitOf pte 0 then none
  else if bitOf pte 1 then
    if size = 0 || !pteOk pte size then none else some (.inl { va := va / 2 ^ size * 2 ^ size, size := 2 ^ size, pte })
  else if bitsOf pte 2 6 ≠ 0 then none
  else some (.inr (bitsOf pte 8 56 * 256))

/-- The radix walk (R267): structural in the levels. -/
def walkFrom (mem : Memory) (va : Nat) : List (Nat × Nat × Nat) → Nat → Option Leaf
  | [], _ => none
  | l :: rest, base =>
    match walkLevel mem va l base with
    | some (.inl leaf) => some leaf
    | some (.inr b) => walkFrom mem va rest b
    | none => none

/-- The base of a context's page table. -/
def State.rootOf (s : State) (ctx : Fin 9) : Nat :=
  if h : ctx.val < 8 then (s.tenants[ctx.val]).root else s.osRoot

/-- Whether a core belongs to a running placement of a tenant. -/
def State.inTenantGroup (s : State) (t : Nat) (g : CoreId) : Bool :=
  s.kernels.any fun k => k.tenant.val = t && k.cores.contains g

/-- The group window of R274: the Plates of the cores of the tenant's placements, in 64 KiB pages below the trap window. -/
def State.groupWindow (s : State) (ctx : Fin 9) (va : Nat) : Option Leaf :=
  if va < 0x7F0000000000 || 0x7F0000000000 + 128 * plateSize ≤ va then none
  else
    let g := (va - 0x7F0000000000) / plateSize
    let off := va % plateSize
    if ctx.val < 8 && off < trapWindow && s.inTenantGroup ctx.val (Fin.ofNat 128 g) then
      some { va := va / 65536 * 65536, size := 65536,
             pte := BitVec.ofNat 64 (off / 65536 * 65536 + g * 256 + 0x60 + 3 * 4 + 3) }
    else none

/-- The 64 KiB frames of TIER2: what the expanders hold (R371). DESIGN CHOICE (log entry 96): they are numbered from 0 upward. -/
def State.tier2Frames (s : State) : Nat := (s.hub.expanders.map (·.2)).foldl (· + ·) 0

/-- The home die of an HBM address (R265). Log entry 11. -/
def hbmHome (a : Nat) : DieId := Config.hbmDie (a / 65536)

/-- An HBM leaf has bytes in a channel whose redundant lanes are spent (R365). -/
def State.inRetired (s : State) (l : Leaf) : Bool :=
  s.dies.toList.any (fun d => !d.retired.isEmpty) && pteType l.pte = 0 &&
    (List.range (l.size / 64)).any fun i =>
      let a := bitsOf l.pte 16 48 * 65536 + 64 * i
      (s.dies[hbmHome a]).retired.contains (Config.hbmChannel a)

/-- A leaf's target is there: its TIER2 frames are behind expanders (R268, R371), and its HBM frames in no retired channel (R365). -/
def State.targetThere (s : State) (l : Leaf) : Bool :=
  (pteType l.pte ≠ 1 || bitsOf l.pte 16 48 + l.size / 65536 ≤ s.tier2Frames) && !s.inRetired l

/-- The leaf that a context's tables give an address, through the group window or a walk. -/
def State.walk (s : State) (ctx : Fin 9) (va : Nat) : Option Leaf :=
  if va < plateSize then none
  else
    match s.groupWindow ctx va with
    | some l => some l
    | none => (walkFrom s.hbm.mem va walkLevels (s.rootOf ctx)).filter s.targetThere

/-- A TLB entry that covers an address. -/
def findTlb (tlb : List TlbEntry) (ctx : Fin 9) (va : Nat) : Option Leaf :=
  (tlb.find? fun e => e.ctx = ctx && e.va ≤ va && va < e.va + e.size).map fun e => { va := e.va, size := e.size, pte := e.pte }

/-- The translations that a core has at hand: those that the waiting access has obtained, and its TLB. -/
def Core.entries (c : Core) : List TlbEntry := c.held ++ c.tlb

/-- The translation in force for a core: its TLB's, else the tables'. -/
def State.translate (s : State) (c : CoreId) (va : Nat) : Option Leaf :=
  match findTlb (s.core c).entries (s.core c).ctx va with
  | some l => some l
  | none => s.walk (s.core c).ctx va

def Leaf.allows (l : Leaf) : Right → Bool
  | .read => bitOf l.pte 5
  | .write => bitOf l.pte 6
  | .fetch => bitOf l.pte 7

/-- The physical place that a leaf gives an address; SYNC and MMIO pages have none. -/
def Leaf.loc (l : Leaf) (va : Nat) : Option Loc :=
  let a := bitsOf l.pte 16 48 * 65536 + (va - l.va)
  match pteType l.pte with
  | 0 => some ⟨.hbm, a⟩
  | 1 => some ⟨.tier2, a⟩
  | 2 => some ⟨.wstore (Fin.ofNat 4 (bitsOf l.pte 8 2)), a⟩
  | 3 => some ⟨.plate (Fin.ofNat 128 (bitsOf l.pte 8 7)), a⟩
  | 5 => some ⟨.peer (bitsOf l.pte 8 8), a⟩
  | 6 => some ⟨.host, a⟩
  | _ => none

/-! ### Fetch (R56, R57, R107) -/

/-- One parcel at a code address, where an execute mapping exists. -/
def State.fetchParcel (s : State) (c : CoreId) (pc : Nat) : Option Nat :=
  if pc ≥ 2 ^ 48 then none
  else
    match s.translate c pc with
    | none => none
    | some l =>
      if !l.allows .fetch then none
      else (l.loc pc).map fun p => Memory.readNat (s.store p.sp).mem p.addr 4

/-- `n` parcels from a code address. -/
def State.fetchParcels (s : State) (c : CoreId) : (n : Nat) → Nat → Option (List Nat)
  | 0, _ => some []
  | n + 1, pc =>
    match s.fetchParcel c pc, s.fetchParcels c n (pc + 4) with
    | some p, some ps => some (p :: ps)
    | _, _ => none

/-- What fetching the instruction at an address gives. -/
inductive Fetched
  | instr (i : Instr) (parcels : Nat)
  | illegal (parcels : Nat)
  | noAccess
deriving DecidableEq, Repr

/-- The instruction at a code address. -/
def State.fetch (s : State) (c : CoreId) (pc : Word) : Fetched :=
  match s.fetchParcel c pc.toNat with
  | none => .noAccess
  | some p =>
    match s.fetchParcels c (parcelCount p) pc.toNat with
    | none => .noAccess
    | some ps =>
      match decode ps with
      | .ok i => .instr i ps.length
      | .error _ => .illegal ps.length

/-- The number of parcels of the instruction at an address; one where nothing can be fetched. -/
def State.lengthAt (s : State) (c : CoreId) (pc : Word) : Nat :=
  match s.fetchParcel c pc.toNat with
  | none => 1
  | some p => parcelCount p

/-! ### Hardware loops and the fetch chain (R101, R109–R112) -/

/-- Level `k` is open (R110). -/
def Core.levelOpen (c : Core) (k : Fin 4) : Bool := c.lc[k] ≠ 0

/-- END of level `k`. -/
def Core.levelEnd (c : Core) (k : Fin 4) : Nat := bitsOf c.le[k] 0 48

/-- BEGIN of level `k`. -/
def Core.levelBegin (c : Core) (k : Fin 4) : Nat := bitsOf c.lb[k] 0 48

/-- The body of level `k` lies strictly within that of level `j`. -/
def Core.bodyWithin (c : Core) (k j : Fin 4) : Bool :=
  c.levelBegin j ≤ c.levelBegin k && c.levelEnd k ≤ c.levelEnd j &&
    (c.levelBegin j ≠ c.levelBegin k || c.levelEnd k ≠ c.levelEnd j)

/-- A level opened later than those of a list, placed behind every one that lies strictly within it. -/
def Core.insertInner (c : Core) (k : Fin 4) : List (Fin 4) → List (Fin 4)
  | [] => [k]
  | j :: js => if (j :: js).any fun i => c.bodyWithin i k then j :: c.insertInner k js else k :: j :: js

/-- The open levels, innermost first (R101): by containment, and the one opened later first where the bodies are identical. DESIGN
CHOICE (log entry 70): so too where a handler has made bodies that overlap. -/
def Core.innermost (c : Core) : List (Fin 4) :=
  (c.order.filter fun k => c.levelOpen k).foldl (fun l k => c.insertInner k l) []

/-- seq(x) of R101 for an instruction of `n` parcels: the address and the core with the fetch count it used. -/
def Core.seqFrom (c : Core) (x : Word) (n : Nat) : Word × Core :=
  let last := x.toNat + 4 * n - 4
  let plain := x + BitVec.ofNat 64 (4 * n)
  if c.trapMode then (plain, c)
  else
    match c.innermost.find? fun k => c.levelEnd k = last && 1 < c.fc[k] with
    | some k => (BitVec.ofNat 64 (c.levelBegin k), { c with fc := c.fc.set k (c.fc[k] - 1) })
    | none => (plain, c)

/-- seq(x), with the length fetched. -/
def State.seq (s : State) (x : Word) : Word × State :=
  let r := s.cpu.seqFrom x (s.lengthAt s.cur x)
  (r.1, s.setCpu r.2)

/-- The rows of every view that loop-back of level `k` rotates (R111). -/
def rotateView (v : BitVec 128) (k : Fin 4) : BitVec 128 :=
  let rwin := bitsOf v 77 12
  let rstep := bitsOf v 89 12
  let roff := bitsOf v 103 12
  if rwin > 0 && bitsOf v 101 2 = k.val then
    BitVec.ofNat 128 (v.toNat % 2 ^ 103 + (roff + rstep) % rwin * 2 ^ 103 + v.toNat / 2 ^ 115 * 2 ^ 115)
  else v

/-- The loop-back event over the levels that end at this parcel, innermost first (R111). -/
def Core.loopBackOver (c : Core) : List (Fin 4) → Core
  | [] => c
  | k :: ks =>
    if 1 < c.lc[k].toNat then
      let c := { c with lc := c.lc.set k (c.lc[k] - 1) }
      let c := if bitOf c.le[k] 48 then { c with vw := c.vw.map (rotateView · k) } else c
      if bitOf c.ftlvl 2 && bitsOf c.ftlvl 0 2 = k.val then
        { c with ftlvl := BitVec.ofNat 8 (c.ftlvl.toNat % 16 + (bitsOf c.ftlvl 4 4 + 1) % 16 * 16) }
      else c
    else
      ({ c with lc := c.lc.set k 0, order := c.order.filter (· ≠ k) }).loopBackOver ks

/-- The loop-back event of the instruction whose last parcel stands at `last`. DEDUCED (log entry 71): a handler instruction that
ends at LE_k triggers no event, and seq() does not lead from it to LB_k. -/
def Core.loopBack (c : Core) (last : Nat) : Core :=
  if c.trapMode then c else c.loopBackOver (c.innermost.filter fun k => c.levelEnd k = last)

/-- The loop-back event at the end of an issue, or its deferral where a handler trap follows the S-cycle (R111, R124, R148). -/
def Core.finishBody (c : Core) (last : Nat) : Core :=
  if !c.trapMode && (c.traps.any fun t => !t.handler) && c.innermost.any fun k => c.levelEnd k = last then
    { c with loopDeferred := some last }
  else c.loopBack last

/-- Levels closed because an instruction issues outside their bodies (R112). -/
def Core.closeExited (c : Core) (pc : Word) : Core :=
  if c.trapMode then c
  else
    let out (k : Fin 4) : Bool := c.levelOpen k && !(c.levelBegin k ≤ pc.toNat && pc.toNat ≤ c.levelEnd k)
    { c with lc := Vector.ofFn fun k => if out k then 0 else c.lc[k], order := c.order.filter fun k => !out k }

/-! ### Proof-segment signature (R118) -/

/-- One bit step of the reflected CRC-32C. -/
def crcBit (c : BitVec 32) : BitVec 32 := if bitOf c 0 then (c >>> 1) ^^^ 0x82F63B78#32 else c >>> 1

/-- One byte fed to the CRC. -/
def crcByte (c : BitVec 32) (b : Byte) : BitVec 32 :=
  crcBit (crcBit (crcBit (crcBit (crcBit (crcBit (crcBit (crcBit (c ^^^ b.setWidth 32))))))))

/-- Bytes fed to the CRC. -/
def crcBytes (c : BitVec 32) (bs : List Byte) : BitVec 32 := bs.foldl crcByte c

/-- A parcel fed to the open segment's signature. -/
def Core.feed (c : Core) (parcel : Nat) : Core :=
  if c.seg.open_ && !c.trapMode then { c with seg := { c.seg with crc := crcBytes c.seg.crc (natBytes 4 parcel) } } else c

/-! ### Issue -/

/-- Branch-class instructions (R102). -/
def isBranch : Instr → Bool
  | .beq _ _ _ _ | .bne _ _ _ _ | .blt _ _ _ _ | .bge _ _ _ _ | .bltu _ _ _ _ | .bgeu _ _ _ _ | .bra _ _
  | .beqi _ _ _ _ | .bnei _ _ _ _ | .blti _ _ _ _ | .bgei _ _ _ _ | .bltui _ _ _ _ | .bgeui _ _ _ _
  | .jal _ _ | .jalr _ _ _ => true
  | _ => false

/-- The first parcel of an instruction. -/
def firstParcel (i : Instr) : Nat := (encode i).headD 0

/-- The length of the instruction at an address can be told. -/
def State.reads (s : State) (c : CoreId) (pc : Word) : Bool := (s.fetchParcel c pc.toNat).isSome

/-- seq(c2) is formed without the length of the instruction at c2, or from an address formed so (R107). -/
def State.guesses (s : State) : Bool := s.cpu.chain.guess2 || !s.reads s.cur s.cpu.chain.c2

/-- The chain moves on: (c1, c2, n), with the annul marks that the instruction at c0 sets and its class recorded. -/
def Core.shift (c : Core) (n : Word) (annul branch guess : Bool) : Core :=
  { c with chain := { c0 := c.chain.c1, c1 := c.chain.c2, c2 := n, annul0 := annul || c.chain.annul1, annul1 := annul,
                      prior1 := branch, prior2 := c.chain.prior1, guess1 := c.chain.guess2, guess2 := guess } }

/-- The core passes the instruction at c0, whose last parcel stands at `last`: the chain moves on and the loop-back event happens. -/
def Core.passed (c : Core) (n : Word) (annul branch guess : Bool) (last : Nat) : Core :=
  { (c.shift n annul branch guess).finishBody last with issued := true, seqNo := c.seqNo + 1, skipBreak := false }

/-- FC of each open level as R101 defines it where the chain holds no loop-back. -/
def Core.refill (c : Core) : Core :=
  if c.trapMode then c else { c with fc := Vector.ofFn fun k => if c.levelOpen k then c.lc[k].toNat else c.fc[k] }

/-- Entries of the chain that were formed without a length are formed again, now that the instruction at c0 can be fetched: a page
fault that the module OS resolves is a freeze (R107). -/
def State.refetch (s : State) : State :=
  let g := s.cpu.chain
  let r := (s.modCpu Core.refill).seq g.c0
  let s := r.2.modCpu fun c => { c with chain := { c.chain with c1 := r.1, guess1 := false } }
  if !g.guess2 then s
  else
    let u := !s.reads s.cur r.1
    let r := s.seq r.1
    r.2.modCpu fun c => { c with chain := { c.chain with c2 := r.1, guess2 := u } }

/-- What every issue does before the instruction's effect: the levels it leaves close and its parcel is fed (R112, R118). -/
def State.beginIssue (s : State) (i : Instr) : State :=
  s.modCpu fun c => (c.closeExited c.chain.c0).feed (firstParcel i)

/-- What every issue does after the effect: the chain moves on to seq(c2), the loop-back event happens, and the S-cycle has
had its issue (R101, R111). -/
def State.endIssue (s : State) (i : Instr) : State :=
  let c0 := s.cpu.chain.c0
  let r := s.seq s.cpu.chain.c2
  r.2.modCpu fun c => c.passed r.1 false (isBranch i) s.guesses (c0.toNat + 4 * (encode i).length - 4)

/-- The annulled instruction at c0 passes: it keeps its S-cycle, closes no level and feeds nothing (R105). -/
def State.annulStep (s : State) : State :=
  let c0 := s.cpu.chain.c0
  let n := s.lengthAt s.cur c0
  let branch := match s.fetch s.cur c0 with | .instr i _ => isBranch i | _ => false
  let r := s.seq s.cpu.chain.c2
  r.2.modCpu fun c => c.passed r.1 false branch s.guesses (c0.toNat + 4 * n - 4)

/-! ### Stores at a memory, and global accesses performed (R84, R92, R298, R304) -/

/-- The release count of a core in a list. -/
def knownOf (m : List (CoreId × Nat)) (c : CoreId) : Nat := ((m.find? (·.1 = c)).map (·.2)).getD 0

/-- The slice of an HBM address (R265). -/
def hbmSlice (a : Nat) : Fin 16 := Fin.ofNat 16 (a / 64)

/-- The release count that stands for a copy which its core has not consumed: no release covers it (R238). -/
def uncovered : Nat := 2 ^ 64

/-- One store at a slice's recent-writer table, with whether it races (R304). The table keeps the 1,024 lines stored to last. -/
def recentStore (t : List RecentWriter) (line : Nat) (c : CoreId) (rel : Nat) (known : List (CoreId × Nat)) :
    List RecentWriter × Bool :=
  let old := ((t.find? (·.line = line)).map (·.stores)).getD []
  let race := old.any fun p => p.1 ≠ c && knownOf known p.1 ≤ p.2
  let same (q : Nat) : Bool := q = rel || (q < uncovered && rel < uncovered)
  ((⟨line, (c, rel) :: old.filter fun p => !(p.1 = c && same p.2)⟩ :: t.filter (·.line ≠ line)).take 1024, race)

/-- DETST of a core whose store arrived second (R35, R304). -/
def Core.raceSeen (c : Core) (line : Nat) : Core :=
  if !c.det then c
  else if bitOf c.detst 0 then { c with detst := c.detst ||| 2#64 }
  else { c with detst := BitVec.ofNat 64 (line * 64 % 2 ^ 48 * 65536 + c.detst.toNat % 2 + 1 + c.detst.toNat / 2 % 2 * 2) }

/-- The release count of a store that is performed now: the releases that the core has made do not cover it. -/
def State.storeRel (s : State) (c : CoreId) (copy : Option Nat) : Nat :=
  match copy with | some id => uncovered + id | none => (s.core c).rel

/-- A plain store of a core to one HBM line, checked against the other cores' stores. -/
def State.raceAt (s : State) (c : CoreId) (rel : Nat) (known : List (CoreId × Nat)) (line : Nat) : State :=
  let d := hbmHome (line * 64)
  let k := hbmSlice (line * 64)
  let r := recentStore (s.die d).recent[k] line c rel known
  let s := s.modDie d fun x => { x with recent := x.recent.set k r.1 }
  if r.2 then s.modCore c fun x => x.raceSeen line else s

/-- The root port behind which a TIER2 frame lies, the frames of the expanders following each other (R266, R371). -/
def frameBehind : List (Fin 4 × Nat) → Nat → Fin 4
  | [], _ => 0
  | e :: es, f => if f < e.2 then e.1 else frameBehind es (f - e.2)

/-- The root port of a TIER2 address. DESIGN CHOICE (log entry 96): the frames are numbered expander by expander. -/
def State.tier2Port (s : State) (a : Nat) : Fin 4 := frameBehind s.hub.expanders (a / 65536)

/-- A TIER2 frame behind a failed port (R266). -/
def State.tier2Down (s : State) (sp : Space) (a : Nat) : Bool := sp = .tier2 && s.hub.failedPorts.contains (s.tier2Port a)

/-- A plain store of a core, or of one of its copies, arriving at a memory (R298): dropped behind a failed port, checked for races in
HBM. It carries the release of its copy, or those of the FENCEs that it stands behind (R294, R295). -/
def State.storeCells (s : State) (c : CoreId) (copy : Option Nat) (known : List (CoreId × Nat)) (rels : List Covered) (sp : Space)
    (cells : List (Nat × Byte)) (marked : Bool) : State :=
  let cells := cells.filter fun p => !s.tier2Down sp p.1
  let s := (s.writeSpace sp cells marked).flagCells sp cells c rels
  if sp = .hbm then ((cells.map (·.1 / 64)).eraseDups).foldl (fun s l => s.raceAt c (s.storeRel c copy) known l) s else s

/-- Bytes read at a place, and whether they arrive uncorrectable (R94, R266, R356). -/
def State.loadLoc (s : State) (l : Loc) (n : Nat) : List Byte × Bool :=
  (s.readSpace l.sp l.addr n, s.markedAt l.sp l.addr n || s.tier2Down l.sp l.addr)

/-! ### Global accesses of the sequencer -/

/-- A global access performed now (R92). -/
def State.performAccess (s : State) (c : CoreId) (g : GlobalAccess) : State × GlobalAccess :=
  if g.done then (s, g)
  else if g.isLoad then
    let r := s.loadLoc g.loc g.size
    (s, { g with done := true, data := r.1, poisoned := r.2, heard := s.heardAt g.loc.sp g.loc.addr g.size })
  else (s.storeCells c none g.known g.fenced g.loc.sp (cellsFrom g.loc.addr g.data) false, { g with done := true })

/-- The accesses of a list that a test selects, performed in program order. -/
def State.performList (s : State) (c : CoreId) (p : GlobalAccess → Bool) : List GlobalAccess → State × List GlobalAccess
  | [] => (s, [])
  | g :: gs =>
    let r := if p g then s.performAccess c g else (s, g)
    let q := r.1.performList c p gs
    (q.1, r.2 :: q.2)

/-- Every access of a core that a test selects has performed. -/
def State.performWhere (s : State) (c : CoreId) (p : GlobalAccess → Bool) : State :=
  let r := s.performList c p (s.core c).globals
  r.1.modCore c fun k => { k with globals := r.2 }

/-- The packets of a core that are under way. -/
def State.packetsOf (s : State) (c : CoreId) : List Packet :=
  let out (o : OutPort) : List Packet := o.waiting ++ o.buffer.map (·.2)
  let link (a : AgendaItem) : Option Packet := match a.what with | .d2dDelivery _ p => some p | _ => none
  ((s.dies.toList.flatMap fun d => d.outs.toList.flatMap out) ++ s.agenda.filterMap link).filter (·.msg.src = c)

/-- A write of an engine or of a copy. -/
def isWritePacket (p : Packet) : Bool :=
  match p.msg.of_, p.msg.ops with
  | .scalar _, _ => false
  | _, .bytes _ _ _ :: _ | _, .accum _ _ _ _ _ _ :: _ | _, .atom _ _ _ _ _ _ _ :: _ => true
  | _, _ => false

/-- A store of the sequencer that has not been performed stays behind an earlier write of its core to the same line that is under way
(R296). -/
def State.stuck (s : State) (c : CoreId) (g : GlobalAccess) : Bool :=
  !g.isLoad && !g.done && !g.back && (s.packetsOf c).any fun p =>
    p.num < g.num && isWritePacket p && p.sp = g.loc.sp && p.addr / 64 ≤ g.loc.addr / 64 && g.loc.addr / 64 ≤ (p.addr + p.bytes - 1) / 64

/-- The stores that a release of a core covers and that stay behind an earlier write (R238, R296): in trap mode the handler's own. -/
def State.stuckStores (s : State) (c : CoreId) : List Nat :=
  ((s.core c).globals.filter fun g => g.handler = (s.core c).trapMode && s.stuck c g).map (·.num)

/-! ### Taking a handler trap (R37, R120–R124, R377) -/

/-- CODE of a cause (R37). -/
def Cause.code : Cause → Nat
  | .illegalInstruction => 0x01 | .illegalFormat => 0x02 | .illegalInSlot => 0x03 | .misaligned => 0x04
  | .accessFault => 0x05 | .platePrivilege => 0x06 | .groupViolation => 0x07 | .viewBounds => 0x08 | .shapeLimit => 0x09
  | .tokenOverflow => 0x0A | .ringBroken => 0x0B | .poolOvercommit => 0x0C | .permInvalid => 0x0D
  | .ternaryIllegal => 0x0E | .proofMismatch => 0x0F | .guardReport => 0x10 | .trapInstr => 0x11 | .breakpoint => 0x12
  | .loopNesting => 0x13 | .streamUnbound => 0x14 | .poison => 0x15 | .overlapRace => 0x16 | .unreplayable => 0x17

/-- The causes 0x08–0x10 are delegable (R37). -/
def Cause.delegable (k : Cause) : Bool := 0x08 ≤ k.code && k.code ≤ 0x10

/-- ENG of TSTATUS (R36). -/
def engCode : Option Engine → Nat
  | none => 0 | some .ld => 1 | some .mx => 2 | some .vx => 3 | some .st => 4 | some .cp => 5

/-- The trap goes to the user handler (R120). -/
def Core.toUser (c : Core) (k : Cause) : Bool := k.delegable && c.trapDlg && c.utvec ≠ 0 && !c.trapMode

/-- The registers of a core on entry to a handler trap (R122): CAUSE, BADADDR, XPC0–XPC2 and TSTATUS are written, TX7 where an
engine is the origin, and the chain starts at the handler. X24–X31 stay and TX0–TX6 keep their values. A HALT that has not
completed stands at c0 and issues again (R114). -/
def Core.enterTrap (c : Core) (t : PendingTrap) (h1 h2 : Word) : Core :=
  let user := c.toUser t.cause
  let ch := c.chain
  let slot := if t.precise && t.eng.isNone then c.inSlot else t.slot
  let b (x : Bool) (k : Nat) : Nat := if x then 2 ^ k else 0
  { c with
    cause := BitVec.ofNat 64 (t.cause.code + b t.cause.delegable 8 + b t.precise 9),
    badaddr := t.badaddr,
    xpc0 := BitVec.ofNat 64 (ch.c0.toNat % 2 ^ 48), xpc1 := BitVec.ofNat 64 (ch.c1.toNat % 2 ^ 48),
    xpc2 := BitVec.ofNat 64 (ch.c2.toNat % 2 ^ 48),
    tstatus := BitVec.ofNat 11 (1 + b user 1 + b slot 2 + 8 * engCode t.eng + b c.loopDeferred.isSome 6 + b ch.annul0 7
      + b ch.annul1 8 + b ch.prior1 9 + b ch.prior2 10),
    tx := if t.eng.isSome then c.tx.set 7 t.addr else c.tx,
    chain := ⟨if user then c.utvec else c.tvec, h1, h2, false, false, false, false, false, false⟩,
    xguess := (ch.guess1, ch.guess2), breakTaken := t.cause = .breakpoint || (c.skipBreak && !c.trapMode), skipBreak := false,
    draining := if c.draining = some .halt then none else c.draining,
    hReady := [], hSlots := [], hDivFree := 0, hLater := [], globals := c.globals.filter fun g => !g.handler || (!g.isLoad && !g.done),
    rttWait := false, issued := false }

/-- A handler trap of a core: the entry of R122, with the handler's own fetch chain. -/
def State.enterTrap (s : State) (c : CoreId) (t : PendingTrap) : State :=
  let s1 := s.modCore c fun k => k.enterTrap t 0 0
  let v := (s1.core c).chain.c0
  let h1 := v + BitVec.ofNat 64 (4 * s1.lengthAt c v)
  let h2 := h1 + BitVec.ofNat 64 (4 * s1.lengthAt c h1)
  let u := !s1.reads c v
  s.modCore c fun k =>
    let k := k.enterTrap t h1 h2
    { k with chain := { k.chain with guess1 := u, guess2 := u || !s1.reads c h1 } }

/-- The trace record of TRAP n < 512, as the module OS appends it (R125). -/
def State.traceRecord (s : State) (c : CoreId) (n : Nat) : State :=
  let k := s.core c
  s.modTenant k.tenant fun t =>
    { t with trace := t.trace ++ [{ n, kernid := k.kernid, core := c, sclk := k.sclk - (if k.sOpen then 0 else 1),
                                    dclk := s.now c, xpc0 := k.xpc0, xpc1 := k.xpc1, xpc2 := k.xpc2, tstatus := k.tstatus }] }

/-- The kernel that runs on a core. -/
def State.kernelOf (s : State) (c : CoreId) : Option Kernel :=
  s.kernels.find? fun k => k.kid = (s.core c).kernid.toNat && k.saved.isNone

/-- One kernel changed. -/
def State.modKernel (s : State) (kid : Nat) (f : Kernel → Kernel) : State :=
  { s with kernels := s.kernels.map fun k => if k.kid = kid then f k else k }

/-- Every ring of a kernel breaks; what it wakes is serviced by the ring rules (R288 step 2). -/
def breakRings (kid : Nat) (c : Core) : Core :=
  { c with rings := c.rings.map fun r => r.map fun u => if u.kid = kid then { u with cond := .broken } else u }

/-- The waiting operations on the rings of a kernel at one core. -/
def ringWaiters (kid : Nat) (c : Core) : List (HomeReq RingOp) :=
  (c.rings.toList.filterMap id).flatMap fun u => if u.kid = kid then u.waitProd ++ u.waitCons else []

/-- Every semaphore of a core of the group has its FAULT flag set (R288 step 3). -/
def faultSems (c : Core) : Core := { c with sems := c.sems.map fun m => { m with fault := true } }

/-- An operation of a kernel's cores on its way to a home, issued no later than a time. -/
def sentBy (k : Kernel) (last : Nat) : Event → Bool
  | .semRemoteService src _ _ _ sent _ => k.cores.contains src && sent ≤ last
  | .poolService q => q.kid = k.kid && q.sent ≤ last
  | .ringService q | .ringWaitServiced q => q.kid = k.kid && q.sent ≤ last
  | _ => false

/-- Operations that a kernel's cores have issued by a time are still to be serviced (R276, R288). -/
def State.signalsOut (s : State) (k : Kernel) (last : Nat) : Bool :=
  (s.agenda.any fun a => sentBy k last a.what) ||
  s.casts.any fun m => m.sem.isSome && k.cores.contains m.src && m.sentAt ≤ last

/-- Steps 2 and 3 of R288 for a kernel marked faulted, once the homes have serviced what its cores had issued: its rings break and
their waiters are serviced, and FAULT flags are set on every core of its group. -/
def State.breakKernel (s : State) (k : Kernel) : State :=
  let waits := k.cores.flatMap fun c => ringWaiters k.kid (s.core c)
  let s := (k.cores.filter fun c => (s.core c).kernid.toNat = k.kid).foldl (fun s c => s.modCore c fun x => faultSems (breakRings k.kid x)) s
  let s := waits.foldl (fun s q => s.schedule 0 (.ringWaitServiced q)) s
  s.modKernel k.kid fun k => { k with broken := true }

/-- A kernel marked faulted (R288, R321): its first fault is kept. What R288 makes follow is KERNEL_END's. -/
def State.markFaulted (s : State) (kid : Nat) (f : KernelFault) : State :=
  match s.kernels.find? (·.kid = kid) with
  | none => s
  | some k =>
    if k.fault.isSome then s
    else (s.modKernel kid fun k => { k with fault := some { f with marked := s.time } }).schedule 0 (.kernelEnd kid)

/-- The faulting core stops at the trap: its queues and results in flight are discarded, dispatched copies run on (R321); its
stores that have issued are performed, those behind an earlier write once that has been. -/
def Core.stop (c : Core) : Core :=
  { c with activity := .stopped, queues := Vector.replicate 5 [], landings := [], globals := c.globals.filter fun g => !g.isLoad && !g.done, homeOps := [], draining := none, rttWait := false,
           freeze := none, traps := [], evq := [], ahead := [], posted := [] }

/-- What the module OS does when a handler trap reaches it (R37, R120, R125, R126, R260, R321): a trace record for TRAP n < 512
outside trap mode, for a breakpoint what the debugger asks, after which it returns (log entry 72), otherwise the kernel is marked
faulted and the core stops. -/
def State.osTrap (s : State) (c : CoreId) (t : PendingTrap) (nested : Bool) : State :=
  if t.cause = .trapInstr && t.badaddr.toNat < 512 && !nested then s.traceRecord c t.badaddr.toNat
  else if t.cause = .breakpoint && !nested then s
  else
    let k := s.core c
    let s := if t.cause = .guardReport then s.modCore c fun k => { k with guardst := 0 } else s
    let s := s.markFaulted k.kernid.toNat
      { code := t.cause.code, rank := k.rank, badaddr := t.badaddr, xpc := (s.core c).xpc0, host := false, marked := 0 }
    ((s.performWhere c fun g => !g.isLoad && !s.stuck c g).modCore c Core.stop).schedule 0 (.kernelEnd k.kernid.toNat)

/-- Taking a handler trap: the entry, and at the module OS what it does. -/
def State.takeTrap (s : State) (c : CoreId) (t : PendingTrap) : State :=
  let user := (s.core c).toUser t.cause
  let nested := (s.core c).trapMode
  let s := s.enterTrap c t
  if user then s else s.osTrap c t nested

/-- A precise fault of the instruction at c0, which has not issued (R122). -/
def State.preciseTrap (s : State) (k : Cause) (badaddr : Word) : State :=
  s.takeTrap s.cur { cause := k, badaddr, eng := none, addr := s.cpu.chain.c0, slot := false, precise := true }

/-- A cause left for the next boundary between S-cycles (R121). -/
def State.pendTrap (s : State) (c : CoreId) (t : PendingTrap) : State :=
  s.modCore c fun k => { k with traps := k.traps ++ [{ t with handler := k.trapMode && t.eng.isNone }] }

/-- The mark of a read at a bank in one die cycle, whatever the S-cycle (R257). -/
def dieKey (now : Nat) : Nat := 2 ^ 64 + now

/-- The distinct lines read in an S-cycle, and in the die cycle in which it takes place. -/
def Core.linesRead (c : Core) (key now : Nat) : List Nat :=
  ((c.bankReads.filter fun p => p.1 = key || p.1 = dieKey now).map (·.2)).eraseDups

/-- The most distinct lines that one bank reads then (R257). -/
def Core.bankLoad (c : Core) (key now : Nat) : Nat :=
  let lines := c.linesRead key now
  ((List.range 64).map fun b => (lines.filter fun l => l % 64 = b).length).foldl max 0

/-- The bank reads of an S-cycle, or of a handler's die cycle (`key` is `dieKey` then), are made: the core freezes one die cycle for each read beyond
the first at the busiest bank, and every bank stays busy for as many die cycles as it has lines to read (R257, R258). -/
def Core.readBanks (c : Core) (key now : Nat) : Core :=
  if c.bankReads.isEmpty then c
  else
    let n := c.bankLoad key now
    let held := match c.freeze with
      | none => some (.untilCycle (now + n))
      | some (.untilCycle d) => some (.untilCycle (max d (now + n)))
      | f => f
    { c with bankOwed := (c.linesRead key now).map (· % 64) ++ c.bankOwed,
             bankReads := c.bankReads.filter fun p => !(p.1 = key || p.1 = dieKey now),
             freeze := if 1 < n then held else c.freeze }

/-- A line read of group 4 has been granted its bank. -/
def Core.granted (c : Core) (r : Nat × Nat × Nat) : Core :=
  let rest := c.reads4.erase r
  { c with reads4 := rest, granted4 := if rest.any (·.2.2 = r.2.2) then c.granted4 else c.granted4 ++ [r.2.2] }

/-- At the end of a die cycle every bank that no other read has taken serves its oldest group-4 read (R258). -/
def Core.grantOver (c : Core) (busy : List Nat) : List (Nat × Nat × Nat) → Core
  | [] => { c with bankBusy := [], bankOwed := c.bankOwed.eraseDups.foldl List.erase c.bankOwed }
  | r :: rs =>
    let b := r.2.1 % 64
    if busy.contains b || c.bankOwed.contains b then c.grantOver busy rs else (c.granted r).grantOver (b :: busy) rs

/-- The banks at which a group-4 read has waited 16 die cycles. -/
def Core.overdue (c : Core) (now : Nat) : List Nat := ((c.reads4.filter fun r => r.1 + 16 ≤ now).map fun r => r.2.1 % 64).eraseDups

/-- The end of an S-cycle: its bank reads are made, SCLK advances, and the core has had this die cycle (R38, R257). What the module OS
has said of its accesses, and the translations obtained for them, are forgotten. -/
def State.endCycle (s : State) : State :=
  let now := s.now s.cur
  { s.modCpu fun c =>
      { c.readBanks c.sclk now with sclk := c.sclk + 1, sOpen := false, issued := false, unmapped := [], held := [] } with curDone := true }

/-- The close of an issue whose own handler trap is taken directly after its S-cycle: the chain moves on, a loop-back event of
the instruction is deferred (R111, R124), and the trap is entered. -/
def State.endTrapped (s : State) (i : Instr) (t : PendingTrap) : State :=
  let c0 := s.cpu.chain.c0
  let last := c0.toNat + 4 * (encode i).length - 4
  let slot := s.cpu.inSlot
  let r := s.seq s.cpu.chain.c2
  let s := r.2.modCpu fun c =>
    { c.shift r.1 false (isBranch i) s.guesses with
      loopDeferred := if !c.trapMode && c.innermost.any fun k => c.levelEnd k = last then some last else none,
      seqNo := c.seqNo + 1, skipBreak := false }
  let s := if s.cpu.trapMode then { s with curDone := true } else s.endCycle
  s.takeTrap s.cur { t with slot := t.slot && slot }

/-! ### Returning from a trap (R127) -/

/-- FC of each open level: LC less the loop-backs that the restored chain already holds. -/
def restoredFc (c : Core) (x0 x1 x2 : Word) (n0 n1 : Nat) : Vector Nat 4 :=
  Vector.ofFn fun k =>
    let holds (a : Word) (n : Nat) (b : Word) : Nat :=
      if a.toNat + 4 * n - 4 = c.levelEnd k && b.toNat = c.levelBegin k then 1 else 0
    if c.levelOpen k then c.lc[k].toNat - holds x0 n0 x1 - holds x1 n1 x2 else 0

/-- The registers of a core after RTT: the deferred loop-back event, the chain from XPC0–XPC2, FC, annulments and history from
TSTATUS, which is then cleared. `n0` and `n1` are the lengths of the instructions at XPC0 and XPC1. -/
def Core.returnTrap (c : Core) (n0 n1 : Nat) : Core :=
  let t := c.tstatus
  let c := { c with tstatus := 0 }
  let c := match c.loopDeferred with
    | some last => if bitOf t 6 then c.loopBack last else c
    | none => c
  let al (w : Word) : Word := BitVec.ofNat 64 (w.toNat / 4 * 4)
  { c with
    fc := restoredFc c (al c.xpc0) (al c.xpc1) (al c.xpc2) n0 n1,
    chain := ⟨al c.xpc0, al c.xpc1, al c.xpc2, bitOf t 7, bitOf t 8, bitOf t 9, bitOf t 10, c.xguess.1, c.xguess.2⟩,
    skipBreak := c.breakTaken, loopDeferred := none, hReady := [], hSlots := [], hDivFree := 0, hLater := [], issued := false }

end Sys2Proof.Machine
end

