-- ==== Sys2Proof/Machine/Issue.lean ====
section
/-! DEFINITION. Issue of an instruction at the core in focus: the checks that every instruction makes (R76, R77, R113), then
its own precise faults, then its effect between the opening and the closing of the issue. -/

namespace Sys2Proof.Machine

/-- Instructions that may not stand in a slot (R76, R113). -/
def slotForbidden : Instr → Bool
  | .loop _ _ _ _ _ | .loopi _ _ _ _ _ | .halt | .rtt | .segb | .sege _ _ => true
  | _ => false

/-- POOL and LAUNCH majors and the SYS instructions that R77 forbids in trap mode. -/
def handlerForbidden : Instr → Bool
  | .loop _ _ _ _ _ | .loopi _ _ _ _ _ | .halt | .segb | .sege _ _ | .tmark | .modeset _ | .qdrain _ => true
  | .pwbegin _ _ | .pwend _ _ | .pwnext _ _ _ | .prbegin _ _ _ | .prend _ | .prnext _ _ _ | .pquery _ _ => true
  | .launch _ | .launchs _ => true
  | _ => false

/-- The instruction is of the V or M format. -/
def isEngine (i : Instr) : Bool :=
  match firstParcel i % 4 with
  | 2 | 3 => (encode i).length ≥ 3
  | _ => false

/-- The restrictions of R77. -/
def trapModeIllegal (i : Instr) (c : Core) : Bool :=
  match i with
  | .rtt => !c.trapMode
  | .tlbinv _ _ => !c.trapMode || c.userHandler
  | _ => c.trapMode && (handlerForbidden i || isEngine i)

/-- The checks that every instruction makes when it would issue: its position, then its field rules and R77. -/
def issueCheck (i : Instr) (c : Core) : Option (Cause × Word) :=
  if slotForbidden i && c.inSlot then some (.illegalInSlot, c.chain.c0)
  else if trapModeIllegal i c || fieldFault i ≠ none then some (.illegalInstruction, c.chain.c0)
  else none

/-- Issue of an instruction that neither branches nor stops issue: its precise faults, else its effect. -/
def State.issue (s : State) (i : Instr) (fault : State → Option (Cause × Word)) (eff : State → State) : Out :=
  match (issueCheck i s.cpu).or (fault s) with
  | some (k, b) => .next (s.preciseTrap k b)
  | none => .next ((eff (s.beginIssue i)).endIssue i)

/-- No fault of its own. -/
def noFault (_ : State) : Option (Cause × Word) := none

/-- Issue of an instruction whose one result is register `d`, `lat` S-cycles later, computed from the state at issue. -/
def State.issueX (s : State) (i : Instr) (lat : Nat) (d : Reg) (v : Core → Word) : Out :=
  s.issue i noFault fun s => s.resultX lat d (v s.cpu)

end Sys2Proof.Machine
end

