-- ==== Sys2Proof/Machine/Alu.lean ====
section
/-! DEFINITION. The ALU major, S major 0x00 (R83, R86–R88): 31 instructions at 64 bits or, with W, at 32 bits. -/

namespace Sys2Proof.Machine

/-- An operation at 64 bits, or at 32 bits with its result sign-extended (R87). -/
def aluOp (f : (n : Nat) → BitVec n → BitVec n → BitVec n) (w : Bool) (a b : Word) : Word :=
  if w then (f 32 (a.setWidth 32) (b.setWidth 32)).signExtend 64 else f 64 a b

/-- A shift or rotate amount modulo the width. -/
def amount {n : Nat} (b : BitVec n) : Nat := b.toNat % n

/-- High `n` bits of the signed product. -/
def mulHigh (n : Nat) (a b : BitVec n) : BitVec n := BitVec.ofInt n (a.toInt * b.toInt / (2 : Int) ^ n)

/-- High `n` bits of the unsigned product. -/
def mulHighU (n : Nat) (a b : BitVec n) : BitVec n := BitVec.ofNat n (a.toNat * b.toNat / 2 ^ n)

/-- Signed quotient (R88): all ones for a zero divisor, overflow wraps, else rounded toward zero. -/
def divS (n : Nat) (a b : BitVec n) : BitVec n := if b = 0 then BitVec.allOnes n else BitVec.ofInt n (a.toInt.tdiv b.toInt)

/-- Unsigned quotient. -/
def divU (n : Nat) (a b : BitVec n) : BitVec n := if b = 0 then BitVec.allOnes n else BitVec.ofNat n (a.toNat / b.toNat)

/-- Signed remainder: the dividend for a zero divisor, else the sign of the dividend. -/
def remS (n : Nat) (a b : BitVec n) : BitVec n := if b = 0 then a else BitVec.ofInt n (a.toInt.tmod b.toInt)

/-- Unsigned remainder. -/
def remU (n : Nat) (a b : BitVec n) : BitVec n := if b = 0 then a else BitVec.ofNat n (a.toNat % b.toNat)

/-- 1 or 0. -/
def flag (n : Nat) (b : Bool) : BitVec n := if b then 1 else 0

/-- Leading zeros, `n` for zero. -/
def leadingZeros (n : Nat) (a : BitVec n) : BitVec n :=
  BitVec.ofNat n (if a = 0 then n else n - 1 - a.toNat.log2)

/-- Trailing zeros among the low `fuel` bits. -/
def trailingFrom : (fuel : Nat) → Nat → Nat
  | 0, _ => 0
  | k + 1, v => if v % 2 = 1 then 0 else 1 + trailingFrom k (v / 2)

/-- One bits among the low `fuel` bits. -/
def onesFrom : (fuel : Nat) → Nat → Nat
  | 0, _ => 0
  | k + 1, v => v % 2 + onesFrom k (v / 2)

/-- The low `fuel` bits in reverse order. -/
def reverseFrom : (fuel : Nat) → Nat → Nat
  | 0, _ => 0
  | k + 1, v => v % 2 * 2 ^ k + reverseFrom k (v / 2)

/-- The low `fuel` bytes in reverse order. -/
def swapFrom : (fuel : Nat) → Nat → Nat
  | 0, _ => 0
  | k + 1, v => v % 256 * 256 ^ k + swapFrom k (v / 256)

def aluAdd (n : Nat) (a b : BitVec n) : BitVec n := a + b
def aluSub (n : Nat) (a b : BitVec n) : BitVec n := a - b
def aluAnd (n : Nat) (a b : BitVec n) : BitVec n := a &&& b
def aluOr (n : Nat) (a b : BitVec n) : BitVec n := a ||| b
def aluXor (n : Nat) (a b : BitVec n) : BitVec n := a ^^^ b
def opAndn (n : Nat) (a b : BitVec n) : BitVec n := a &&& ~~~b
def opSll (n : Nat) (a b : BitVec n) : BitVec n := a <<< amount b
def opSrl (n : Nat) (a b : BitVec n) : BitVec n := a >>> amount b
def aluSra (n : Nat) (a b : BitVec n) : BitVec n := a.sshiftRight (amount b)
def opRol (n : Nat) (a b : BitVec n) : BitVec n := a.rotateLeft (amount b)
def aluMul (n : Nat) (a b : BitVec n) : BitVec n := a * b
def aluMin (n : Nat) (a b : BitVec n) : BitVec n := if b.slt a then b else a
def aluMax (n : Nat) (a b : BitVec n) : BitVec n := if a.slt b then b else a
def opMinu (n : Nat) (a b : BitVec n) : BitVec n := if b.ult a then b else a
def opMaxu (n : Nat) (a b : BitVec n) : BitVec n := if a.ult b then b else a
def opSlt (n : Nat) (a b : BitVec n) : BitVec n := flag n (a.slt b)
def opSltu (n : Nat) (a b : BitVec n) : BitVec n := flag n (a.ult b)
def opSeq (n : Nat) (a b : BitVec n) : BitVec n := flag n (a = b)
def opClz (n : Nat) (a _ : BitVec n) : BitVec n := leadingZeros n a
def opCtz (n : Nat) (a _ : BitVec n) : BitVec n := BitVec.ofNat n (trailingFrom n a.toNat)
def opPopc (n : Nat) (a _ : BitVec n) : BitVec n := BitVec.ofNat n (onesFrom n a.toNat)
def opBrev (n : Nat) (a _ : BitVec n) : BitVec n := BitVec.ofNat n (reverseFrom n a.toNat)
def opBswap (n : Nat) (a _ : BitVec n) : BitVec n := BitVec.ofNat n (swapFrom (n / 8) a.toNat)

/-- The value of MOVZ and MOVN: `a` where the condition holds, else the old XD, formed like every result (R87). -/
def moveIf (w : Bool) (keep : Bool) (a old : Word) : Word :=
  let v := if keep then old else a
  if w then (v.setWidth 32).signExtend 64 else v

/-- The condition b = 0 at the operation's width. -/
def zeroAt (w : Bool) (b : Word) : Bool := if w then b.setWidth 32 = 0 else b = 0

/-- An ALU instruction of two sources that lands at issue + 1. -/
def aluIssue (i : Instr) (f : (n : Nat) → BitVec n → BitVec n → BitVec n) (w : Bool) (d a b : Reg) (s : State) : Out :=
  s.issueX i 1 d fun c => aluOp f w (c.readX a) (c.readX b)

/-- A multiply: issue + 3. -/
def mulIssue (i : Instr) (f : (n : Nat) → BitVec n → BitVec n → BitVec n) (w : Bool) (d a b : Reg) (s : State) : Out :=
  s.issueX i 3 d fun c => aluOp f w (c.readX a) (c.readX b)

/-- The divider is taken for 24 S-cycles, or in a handler the handler divider for 24 die cycles (R84, R85). -/
def State.takeDivider (s : State) : State :=
  s.modCpu fun c =>
    if c.trapMode then { c with hDivFree := s.now s.cur + 24 } else { c with divFree := c.sclk + 24 }

/-- A divide-class instruction: issue + 24, for every operand value. -/
def divIssue (i : Instr) (f : (n : Nat) → BitVec n → BitVec n → BitVec n) (w : Bool) (d a b : Reg) (s : State) : Out :=
  s.issue i noFault fun s => s.takeDivider.resultX 24 d (aluOp f w (s.cpu.readX a) (s.cpu.readX b))

/-- A one-source ALU instruction. -/
def aluUnary (i : Instr) (f : (n : Nat) → BitVec n → BitVec n → BitVec n) (w : Bool) (d a : Reg) (s : State) : Out :=
  s.issueX i 1 d fun c => aluOp f w (c.readX a) 0

/-! ### The meanings (R87, R88) -/

def execAdd (w : Bool) (d a b : Reg) (s : State) : Out := aluIssue (.add w d a b) aluAdd w d a b s
def execSub (w : Bool) (d a b : Reg) (s : State) : Out := aluIssue (.sub w d a b) aluSub w d a b s
def execAnd (w : Bool) (d a b : Reg) (s : State) : Out := aluIssue (.and w d a b) aluAnd w d a b s
def execOr (w : Bool) (d a b : Reg) (s : State) : Out := aluIssue (.or w d a b) aluOr w d a b s
def execXor (w : Bool) (d a b : Reg) (s : State) : Out := aluIssue (.xor w d a b) aluXor w d a b s
def execAndn (w : Bool) (d a b : Reg) (s : State) : Out := aluIssue (.andn w d a b) opAndn w d a b s
def execSll (w : Bool) (d a b : Reg) (s : State) : Out := aluIssue (.sll w d a b) opSll w d a b s
def execSrl (w : Bool) (d a b : Reg) (s : State) : Out := aluIssue (.srl w d a b) opSrl w d a b s
def execSra (w : Bool) (d a b : Reg) (s : State) : Out := aluIssue (.sra w d a b) aluSra w d a b s
def execRol (w : Bool) (d a b : Reg) (s : State) : Out := aluIssue (.rol w d a b) opRol w d a b s
def execMin (w : Bool) (d a b : Reg) (s : State) : Out := aluIssue (.min w d a b) aluMin w d a b s
def execMax (w : Bool) (d a b : Reg) (s : State) : Out := aluIssue (.max w d a b) aluMax w d a b s
def execMinu (w : Bool) (d a b : Reg) (s : State) : Out := aluIssue (.minu w d a b) opMinu w d a b s
def execMaxu (w : Bool) (d a b : Reg) (s : State) : Out := aluIssue (.maxu w d a b) opMaxu w d a b s
def execSlt (w : Bool) (d a b : Reg) (s : State) : Out := aluIssue (.slt w d a b) opSlt w d a b s
def execSltu (w : Bool) (d a b : Reg) (s : State) : Out := aluIssue (.sltu w d a b) opSltu w d a b s
def execSeq (w : Bool) (d a b : Reg) (s : State) : Out := aluIssue (.seq w d a b) opSeq w d a b s
def execMul (w : Bool) (d a b : Reg) (s : State) : Out := mulIssue (.mul w d a b) aluMul w d a b s
def execMulh (w : Bool) (d a b : Reg) (s : State) : Out := mulIssue (.mulh w d a b) mulHigh w d a b s
def execMulhu (w : Bool) (d a b : Reg) (s : State) : Out := mulIssue (.mulhu w d a b) mulHighU w d a b s
def execDiv (w : Bool) (d a b : Reg) (s : State) : Out := divIssue (.div w d a b) divS w d a b s
def execDivu (w : Bool) (d a b : Reg) (s : State) : Out := divIssue (.divu w d a b) divU w d a b s
def execRem (w : Bool) (d a b : Reg) (s : State) : Out := divIssue (.rem w d a b) remS w d a b s
def execRemu (w : Bool) (d a b : Reg) (s : State) : Out := divIssue (.remu w d a b) remU w d a b s
def execClz (w : Bool) (d a : Reg) (s : State) : Out := aluUnary (.clz w d a) opClz w d a s
def execCtz (w : Bool) (d a : Reg) (s : State) : Out := aluUnary (.ctz w d a) opCtz w d a s
def execPopc (w : Bool) (d a : Reg) (s : State) : Out := aluUnary (.popc w d a) opPopc w d a s
def execBrev (w : Bool) (d a : Reg) (s : State) : Out := aluUnary (.brev w d a) opBrev w d a s
def execBswap (w : Bool) (d a : Reg) (s : State) : Out := aluUnary (.bswap w d a) opBswap w d a s
def execMovz (w : Bool) (d a b : Reg) (s : State) : Out :=
  s.issueX (.movz w d a b) 1 d fun c => moveIf w (!zeroAt w (c.readX b)) (c.readX a) (c.readX d)

def execMovn (w : Bool) (d a b : Reg) (s : State) : Out :=
  s.issueX (.movn w d a b) 1 d fun c => moveIf w (zeroAt w (c.readX b)) (c.readX a) (c.readX d)

end Sys2Proof.Machine
end

