-- ==== Sys2Proof/Machine/Access.lean ====
section
/-! DEFINITION. Placement groups, releases and acquires (R291, R294, R295), stores arriving at a memory (R298, R304), and the
sequencer's accesses to global memory between issue and performance (R84, R92, R95). -/

namespace Sys2Proof.Machine

/-- A time that has not been fixed yet: a handler's reply that has not arrived. -/
def notYet : Nat := 2 ^ 64

/-- What a handler access does when it lands, `t` die cycles of the die's count from reset on (R85). -/
def Core.handlerLands (c : Core) (t : Nat) (e : Eff) : Core := { c with hLater := c.hLater ++ [(t, c.chain.c0, e)] }

/-! ### Placement groups (R33) -/

/-- The cores of a core's placement group in rank order; a core without a kernel is alone. -/
def State.group (s : State) (c : CoreId) : List CoreId :=
  match s.kernelOf c with
  | some k => k.cores
  | none => [c]

/-- Whether a Plate belongs to the core or a group-mate (R92). -/
def State.mates (s : State) (c g : CoreId) : Bool := c = g || (s.group c).contains g

/-- The core of a rank of the group. -/
def State.rankCore (s : State) (c : CoreId) (r : Nat) : CoreId := ((s.group c)[r]?).getD c

/-! ### Releases and acquires -/

/-- A core lies within a scope of another (R291). -/
def State.within (s : State) (sc : Scope) (a b : CoreId) : Bool :=
  match sc with
  | .eng | .core => a = b
  | .group => s.mates a b
  | .die => s.mates a b || dieOf a = dieOf b
  | .device | .peer | .host | .system => true

/-- One count raised. -/
def raiseKnown (m : List (CoreId × Nat)) (p : CoreId × Nat) : List (CoreId × Nat) :=
  if knownOf m p.1 < p.2 then p :: m.filter (·.1 ≠ p.1) else m

/-- The larger count of every core. -/
def mergeKnown (m n : List (CoreId × Nat)) : List (CoreId × Nat) := n.foldl raiseKnown m

/-- Every count in `m` is known. -/
def covers (known m : List (CoreId × Nat)) : Bool := m.all fun p => p.2 ≤ knownOf known p.1

/-- A core makes a release at a scope (R238, R294): what it covers is what the core has acquired and its own stores before it. -/
def State.covered (s : State) (c : CoreId) (sc : Scope) : State × Covered :=
  let k := { s.core c with rel := (s.core c).rel + 1 }
  (s.setCore c k, ⟨sc, mergeKnown k.known [(c, k.rel)]⟩)

/-- A release left at an object, with the same core's earlier ones at that scope (R294). -/
def putPublished (p : Published) (l : List Published) : List Published :=
  let same (q : Published) : Bool := q.obj = p.obj && q.core = p.core && q.rel.scope = p.rel.scope
  let old := (l.filter same).foldl (fun m q => mergeKnown m q.rel.known) []
  { p with rel := { p.rel with known := mergeKnown old p.rel.known } } :: l.filter fun q => !same q

/-- A release reaches its object (R294). -/
def State.publish (s : State) (obj : SyncObj) (c : CoreId) (r : Option Covered) : State :=
  match r with
  | some r => { s with synced := putPublished ⟨obj, c, r⟩ s.synced }
  | none => s

/-- What an acquire by core `c` at scope `sc` takes of a release of a core: each lies within the other's scope (R291). -/
def State.takes (s : State) (sc : Scope) (c : CoreId) (r : CoreId × Covered) : Bool :=
  s.within r.2.scope r.1 c && s.within sc c r.1

/-- What the releases at an object let a core acquire now. -/
def State.gainAt (s : State) (c : CoreId) (sc : Scope) (obj : SyncObj) : List (CoreId × Nat) :=
  (s.synced.filter fun p => p.obj = obj && s.takes sc c (p.core, p.rel)).foldl (fun m p => mergeKnown m p.rel.known) []

/-- A core has acquired. -/
def State.learn (s : State) (c : CoreId) (m : List (CoreId × Nat)) : State :=
  s.modCore c fun k => { k with known := mergeKnown k.known m }

/-- A value written over whatever was at the object (SEMSET): earlier releases there are not acquired any more. -/
def State.overwritten (s : State) (obj : SyncObj) : State := { s with synced := s.synced.filter (·.obj ≠ obj) }

/-- One more release heard by a core's reads. -/
def addHeard (l : List (CoreId × Covered)) (r : CoreId × Covered) : List (CoreId × Covered) :=
  let same (q : CoreId × Covered) : Bool := q.1 = r.1 && q.2.scope = r.2.scope
  let old := (l.filter same).foldl (fun m q => mergeKnown m q.2.known) []
  (r.1, ⟨r.2.scope, mergeKnown old r.2.known⟩) :: l.filter fun q => !same q

/-- A release kept as what later stores carry, in place of an earlier one at its scope. -/
def addFenced (l : List Covered) (r : Covered) : List Covered := r :: l.filter fun q => q.scope ≠ r.scope

/-- A FENCE makes a release: the core's later stores carry it (R249, R295). -/
def State.fenceRelease (s : State) (c : CoreId) (sc : Scope) : State :=
  let r := s.covered c sc
  r.1.modCore c fun k => { k with fenced := addFenced k.fenced r.2 }

/-- A FENCE acquires what the core's reads have returned (R249, R295). -/
def State.fenceAcquire (s : State) (c : CoreId) (sc : Scope) : State :=
  s.modCore c fun k =>
    { k with known := (k.heard.filter (s.takes sc c)).foldl (fun m r => mergeKnown m r.2.known) k.known,
             heard := k.heard.filter fun r => !s.takes sc c r }

/-- The release counts of the stores on record, and of the lost ones, changed. -/
def State.restamp (s : State) (f : CoreId × Nat → CoreId × Nat) : State :=
  let one (r : RecentWriter) : RecentWriter := { r with stores := r.stores.map f }
  let die (d : Die) : Die := { d with recent := d.recent.map fun t => t.map one }
  { s with dies := s.dies.map die, links := s.links.map fun (l : PeerLink) => { l with lost := l.lost.map f } }

/-- A core has consumed the record or a token of a copy (R238): a later release of the core covers the copy's writes, those that
were lost included (R301). -/
def State.consumeCopy (s : State) (c : CoreId) (id : Nat) : State :=
  s.restamp fun p => if p = (c, uncovered + id) then (c, (s.core c).rel) else p

/-- What a core has done is released as its part of a node ends: its stores, and every copy that it has dispatched (R294, R308). -/
def State.endRelease (s : State) (c : CoreId) : State × List (CoreId × Nat) :=
  let r := (s.restamp fun p => if p.1 = c && uncovered ≤ p.2 then (c, (s.core c).rel) else p).covered c .device
  (r.1, r.2.known)

/-! ### Global accesses in order, and their landing -/

/-- Two places lie in one 64-byte line of one memory. -/
def sameLine (a b : Loc) : Bool := a.sp = b.sp && a.addr / 64 = b.addr / 64

/-- An access performs, after the core's earlier accesses to the same line (R95, R296). -/
def State.performUpTo (s : State) (c : CoreId) (seq : Nat) : State :=
  match (s.core c).globals.find? (·.seq = seq) with
  | some g => s.performWhere c fun x => x.seq ≤ seq && sameLine x.loc g.loc
  | none => s

/-- Every access of a core has performed: what a release of its earlier accesses waits for (R238). In trap mode these are the
handler's own; the interrupted program's accesses are not waited for. A store that stays behind an earlier write waits for its turn
(`State.stuckStores`). -/
def State.performAll (s : State) (c : CoreId) : State :=
  s.performWhere c fun g => g.handler = (s.core c).trapMode && !s.stuck c g

/-- Before a local Plate access, the core's earlier accesses to the same line through a mapping have performed (R95). -/
def State.ownPlateFirst (s : State) (off : Nat) : State :=
  s.performWhere s.cur fun g => sameLine g.loc ⟨.plate s.cur, off⟩

/-- A loaded value extended to a register (R91). -/
def extendTo (signed : Bool) (n : Nat) (bs : List Byte) : Word :=
  let v := bytesNat bs
  if signed && v ≥ 2 ^ (8 * n - 1) then BitVec.ofNat 64 (v + 2 ^ 64 - 2 ^ (8 * n)) else BitVec.ofNat 64 v

/-- An imprecise poison fault of the sequencer (R94). -/
def poisonTrap (badaddr addr : Word) : PendingTrap :=
  { cause := .poison, badaddr, eng := none, addr, slot := false, precise := false }

/-- The wait for acknowledgements of a release at DIE scope or wider (R296, R238): as many die cycles as the fabric takes. -/
def State.ackWait (s : State) (sc : Scope) : State :=
  if scopeCode sc < 3 || s.choice = 0 then s.chosen
  else s.chosen.modCpu fun k => { k with freeze := some (.untilCycle (s.now s.cur + s.choice)) }

end Sys2Proof.Machine
end

