-- ==== Sys2Proof/Machine/Casts.lean ====
section
/-! DEFINITION. Multicasts on the notice network: CMCAST, SEMMSET and TLBINV (R297, R345–R347), and what a part of a copy that
has been performed comes to (R229, R230). -/

namespace Sys2Proof.Machine

/-- Die cycles to service at a home, and S-cycles until the reply is readable (R236). -/
def homeRow (c home : CoreId) : Nat × Nat :=
  if c = home then (1, 2) else if dieOf c = dieOf home then (4, 9) else (12, 25)

/-! ### Parts of copies -/

/-- A copy in flight changed. -/
def Core.modCopy (c : Core) (id : Nat) (f : CopyInFlight → CopyInFlight) : Core :=
  { c with copies := c.copies.map fun k => if k.id = id then f k else k }

/-- Every part of a copy has been read, written and performed. -/
def CopyInFlight.finished (k : CopyInFlight) : Bool := k.srcs.isEmpty && k.dsts.isEmpty && k.out.isEmpty && k.waiting = 0

/-- A copy all of whose parts have been performed completes, no sooner than R229 allows. -/
def State.copyIfDone (s : State) (c : CoreId) (id : Nat) : State :=
  match (s.core c).copies.find? (·.id = id) with
  | none => s
  | some k =>
    if !k.finished then s
    else s.chosen.schedule (max s.choice (k.started + (k.bytes + 255) / 256 - s.now c)) (.copyComplete c id)

/-- A destination has applied the multicast of a copy, `n` bytes of it (R233). -/
def State.copyPart (s : State) (c : CoreId) (id n : Nat) : State :=
  (s.modCore c fun x => x.modCopy id fun k => { k with waiting := k.waiting - 1, written := k.written + n }).copyIfDone c id

/-- A copy's status, the first error standing (R233). -/
def State.copyStatus (s : State) (c : CoreId) (id status : Nat) : State :=
  s.modCore c fun x => x.modCopy id fun k => if k.status = 0 || k.status = 4 then { k with status } else k

/-- Traffic with a module that nothing has been exchanged with. -/
def PeerLink.fresh (m : Nat) : PeerLink :=
  { module := m, nextSeq := 0, unacked := [], held := [], paths := [], seen := [], answers := [], pairing := [], beats := [], lost := [] }

/-- A write of a core's copy toward a module is lost (R301). -/
def State.loseWrite (s : State) (m : Nat) (c : CoreId) (id : Nat) : State :=
  let links := if s.links.any (·.module = m) then s.links else s.links ++ [PeerLink.fresh m]
  let one (l : PeerLink) : PeerLink := if l.module = m then { l with lost := ((c, uncovered + id) :: l.lost).eraseDups } else l
  { s with links := links.map one }

/-! ### Sending -/

/-- The first window in which a port has not yet posted, at or after now (R345). -/
def postWindow (d : Die) (port : Port) : Nat := max (d.dclk / 8) d.noticed[port]

/-- Multicast `a` was sent before `b` by the same core, and they share a destination: it comes first (R297). -/
def Multicast.precedes (a b : Multicast) : Bool := a.src = b.src && a.id < b.id && a.dsts.any b.dsts.contains

/-- The first window behind those of the multicasts that come first on this die. -/
def State.windowBehind (s : State) (m : Multicast) : Nat :=
  (s.casts.filter fun a => a.precedes m && a.die = m.die).foldl (fun w a => match a.window with | some v => max w (v + 1) | none => w) 0

/-- A SEMMSET that has its place is serviced at each destination when R236 says, or when those before it have been applied. -/
def State.serviceCast (s : State) (m : Multicast) : State :=
  if m.sem.isNone then s
  else m.dsts.foldl (fun s c => s.schedule (m.sentAt + (homeRow m.src c).1 - s.time) (.multicastApply c m.src m.id)) s

/-- A port's window on a die is taken. -/
def State.takeWindow (s : State) (d : DieId) (port : Port) (w : Nat) : State :=
  s.modDie d fun x => { x with noticed := x.noticed.set port (w + 1) }

/-- A notice posted on a die: every port sees it at die cycle 8w + 24. -/
def State.postNotice (s : State) (m : Multicast) : State :=
  let d := s.die m.die
  let w := max (postWindow d m.port) (s.windowBehind m)
  let m := { m with window := some w }
  let s := s.takeWindow m.die m.port w
  ({ s with casts := s.casts ++ [m] }.serviceCast m).schedule (8 * w + 24 - d.dclk) (.noticeWindow m.die)

/-- The dies of a list of cores. -/
def diesOf (cs : List CoreId) : List DieId := (List.finRange 4).filter fun d => cs.any fun c => dieOf c = d

/-- The notices of a cross-die multicast on its destination dies, through their hub ports (R347); `m` holds the destinations that have still
to apply it. -/
def State.postHub (s : State) (dies : List DieId) (m : Option Multicast) : State :=
  dies.foldl (fun s d =>
    let port := Fin.ofNat 64 (48 + d.val)
    match m with
    | some m =>
      let here := m.dsts.filter fun c => dieOf c = d
      if here.isEmpty then s.takeWindow d port (postWindow (s.die d) port) else s.postNotice { m with die := d, port, dsts := here }
    | none => s.takeWindow d port (postWindow (s.die d) port)) s

/-- A local multicast waits for the notice of one that comes first and has not been posted. -/
def State.postBlocked (s : State) (m : Multicast) : Bool := s.casts.any fun a => a.precedes m && a.window.isNone

/-- A multicast sent by a core (R345, R347): with its destinations on one die, its own, it posts there, behind the core's earlier
multicasts to a common destination (R297); otherwise its notice goes to the hub, which posts no sooner than 64 die cycles later. -/
def State.sendCast (s : State) (m : Multicast) : State :=
  let m := { m with id := s.nextCast, die := dieOf m.src, port := Fin.ofNat 64 (localOf m.src).val, sentAt := s.time }
  let s := { s with nextCast := s.nextCast + 1 }
  if m.dsts.all fun c => dieOf c = m.die then
    if s.postBlocked m then { s with casts := s.casts ++ [m] } else s.postNotice m
  else
    let m := { m with hub := some s.hub.nextHubNotice }
    let s := { s with casts := s.casts ++ [m],
                      hub := { s.hub with nextHubNotice := s.hub.nextHubNotice + 1, hubQueue := s.hub.hubQueue ++ [(m.id, diesOf m.dsts)] } }
    (s.chosen.serviceCast m).schedule (64 + s.choice) .hubNotice

/-- The local multicasts that have waited for an earlier notice of their core are posted, oldest first. -/
def State.postWaiting (s : State) : State :=
  (s.casts.filter fun m => m.window.isNone && m.hub.isNone).foldl (fun s m =>
    if s.postBlocked m then s
    else { s with casts := s.casts.filter fun x => !(x.id = m.id && x.window.isNone) }.postNotice m) s

/-- A multicast with nothing in it yet. -/
def Multicast.empty (src : CoreId) (dsts : List CoreId) : Multicast :=
  { id := 0, src, die := 0, port := 0, window := none, dsts, copy := none, seq := 0, cells := [], sem := none, inval := none,
    marked := [], hub := none, sentAt := 0, owed := [], rel := none }

/-! ### The part's steps -/

/-- HUB_NOTICE (R347): the hub posts the oldest numbered multicast on its destination dies; what has waited for it is posted behind. -/
def execHubNotice (s : State) : Out :=
  match s.event with
  | .hubNotice =>
    match s.hub.hubQueue with
    | [] => .next s
    | (id, dies) :: rest =>
      let s1 := { s with hub := { s.hub with hubQueue := rest } }
      let m := s1.casts.find? fun m => m.id = id && m.window.isNone
      .next ({ s1 with casts := s1.casts.filter fun x => !(x.id = id && x.window.isNone) }.postHub dies m).postWaiting
  | _ => .next s

/-- `a` stands before `b` in the order of their die: the notice order (R345), then in the hub's numbering those that the hub has still to
post (R347). -/
def Multicast.before (a b : Multicast) : Bool :=
  match a.window, b.window with
  | some v, some w => v < w || (v = w && a.port < b.port)
  | some _, none => true
  | none, some _ => false
  | none, none => a.hub.getD 0 < b.hub.getD 0

/-- A multicast has a place in the order of a die: its notice has been posted there, or the hub has numbered it. -/
def Multicast.placed (m : Multicast) (d : DieId) : Bool :=
  match m.window with
  | some _ => m.die = d
  | none => m.hub.isSome

/-- The next multicast that a core applies: the first in their order of those placed on its die that name it. -/
def State.nextCastAt (s : State) (c : CoreId) : Option Multicast :=
  let ms := s.casts.filter fun m => m.placed (dieOf c) && m.dsts.contains c
  ms.foldl (fun a m => match a with | none => some m | some b => if m.before b then some m else some b) none

/-- The time has come for a multicast at a core: its notice has been seen and its data is there (R346); a SEMMSET is serviced from the time of
R236 on. DEDUCED (log entry 17): it has its place in the notice order, and waits for no notice once every multicast before it has been applied. -/
def State.castReady (s : State) (c : CoreId) (m : Multicast) : Bool :=
  if m.sem.isSome then m.sentAt + (homeRow m.src c).1 ≤ s.time
  else !m.owed.contains c && match m.window with | some w => 8 * w + 24 ≤ s.now c | none => false

/-- What a multicast does at one destination (R231, R239, R253): an invalidation drops translations, those that a waiting access has
obtained too, and restarts the walks of its pages. -/
def State.applyCast (s : State) (c : CoreId) (m : Multicast) : State :=
  let s := match m.cells.head?, m.cells.getLast? with
    | some a, some b =>
      (s.modCore c fun k => k.writePlate m.cells m.marked).flagCells (.plate c) m.cells m.src m.rel.toList
    | _, _ => s
  let s := match m.sem with
    | some (i, v) =>
      ((s.overwritten (.sem c i)).publish (.sem c i) m.src m.rel).modCore c fun k =>
        { k with sems := k.sems.set i { k.sems[i] with value := v } }
    | none => s
  match m.inval with
  | some (t, va, n) =>
    let gone (e : TlbEntry) : Bool := e.ctx.val = t.val && (n = 0 || (va < e.va + e.size && e.va < va + n))
    let root := s.rootOf (Fin.ofNat 9 t.val)
    let again (w : Walk) : Walk :=
      if w.ctx.val = t.val && (n = 0 || (va < w.va + 65536 && w.va < va + n)) then
        { w with levels := walkLevels, base := root, done := false, leaf := none }
      else w
    (s.modCore c fun k => { k with tlb := k.tlb.filter fun e => !gone e, held := k.held.filter fun e => !gone e }).modDie (dieOf c) fun d =>
      { d with tlb := d.tlb.filter fun e => !gone e, walks := d.walks.map again }
  | none => s

/-- A destination crossed off a multicast. -/
def crossOff (c : CoreId) (m : Multicast) (l : List Multicast) : List Multicast :=
  (l.map fun x => if x.id = m.id && x.die = m.die && x.window = m.window then { x with dsts := x.dsts.filter (· ≠ c) } else x).filter
    fun x => !x.dsts.isEmpty

/-- One multicast applied at a core, which is crossed off it. -/
def State.applyOne (s : State) (c : CoreId) (m : Multicast) : State :=
  let s := s.applyCast c m
  let s := { s with casts := crossOff c m s.casts }
  let s := match m.copy with | some id => s.copyPart m.src id m.cells.length | none => s
  if m.inval.isSome && !(s.casts.any fun x => x.id = m.id) then s.schedule 0 (.tlbinvComplete m.src) else s

/-- The next multicast of a core is applied, once its time has come, in its turn among the core's services of this die cycle (R237). -/
def State.wakeCast (s : State) (c : CoreId) : State :=
  match s.nextCastAt c with
  | some m => if s.castReady c m then s.schedule 0 (.multicastApply c m.src m.id) else s
  | none => s

/-- The data of a multicast arrives at a destination (R346). -/
def State.castData (s : State) (id : Nat) (c : CoreId) : State :=
  { s with casts := s.casts.map fun (m : Multicast) => if m.id = id then { m with owed := m.owed.erase c } else m }.wakeCast c

/-- A destination has no room for the data of a multicast: it holds the data of 8 others that it has not applied, and this one is not
the next in its order (R346). -/
def State.castFull (s : State) (id : Nat) (c : CoreId) : Bool :=
  let held := s.casts.filter fun m => !m.cells.isEmpty && m.id ≠ id && m.dsts.contains c && !m.owed.contains c
  8 ≤ ((held.map Multicast.id).eraseDups).length && !((s.nextCastAt c).any fun m => m.id = id)

/-- MULTICAST_APPLY (R346): a multicast is applied at a core if it is the next in its order; then the next one has its turn, and so has what
has waited to be posted behind it. -/
def execMulticastApply (s : State) : Out :=
  match s.event with
  | .multicastApply c _ id =>
    match s.nextCastAt c with
    | some m => if m.id = id && s.castReady c m then .next ((s.applyOne c m).postWaiting.wakeCast c) else .next s
    | none => .next s
  | _ => .next s

/-- NOTICE_WINDOW (R345): the notices of a window are seen, and the destinations on the die apply what they name, each core in the order
of R237. -/
def execNoticeWindow (s : State) : Out :=
  match s.event with
  | .noticeWindow d =>
    let seen := s.casts.filter fun m => m.die = d && m.window.any fun w => 8 * w + 24 ≤ (s.die d).dclk
    .next ((seen.flatMap (·.dsts)).eraseDups.foldl (fun s c => s.wakeCast c) s)
  | _ => .next s

end Sys2Proof.Machine
end

