-- ==== Sys2Proof/Machine/Errors.lean ====
section
/-! DEFINITION. Error banks and life counters (R362–R364, R367). -/

namespace Sys2Proof.Machine

/-- An error as it arrives at a bank (R363). -/
structure ErrorReport where
  uc   : Bool
  kind : Nat
  unit : Nat
  core : Option CoreId
  addr : Nat
  info : Nat
deriving DecidableEq, Repr

/-- EBSTAT of a fresh record: VALID, UC, UNIT, KIND, COUNT, CORE, TENANT, TVALID (R363). -/
def ebstatWord (r : ErrorReport) (tenant : Option TenantId) (ovf : Bool) (count : Nat) : Word :=
  let who := match r.core, tenant with
    | some c, some t => c.val * 2 ^ 32 + t.val * 2 ^ 39 + 2 ^ 42
    | _, _ => 0
  BitVec.ofNat 64 (1 + (if r.uc then 2 else 0) + (if ovf then 4 else 0) + r.unit % 32 * 8 + r.kind % 256 * 256
    + min count 65535 * 65536 + who)

/-- An error arriving at a bank (R364). -/
def ErrorBank.record (b : ErrorBank) (r : ErrorReport) (tenant : Option TenantId) (time : Nat) : ErrorBank :=
  let b := if r.uc then b else { b with ce := if b.ce = BitVec.allOnes 32 then b.ce else b.ce + 1 }
  let fresh (ovf : Bool) : ErrorBank :=
    { b with stat := ebstatWord r tenant ovf (if r.uc then 1 else 0), addr := BitVec.ofNat 64 r.addr,
             info := BitVec.ofNat 64 r.info, time := BitVec.ofNat 64 time }
  if !bitOf b.stat 0 then fresh (bitOf b.stat 2)
  else if r.uc && !bitOf b.stat 1 then fresh (bitOf b.stat 2)
  else if r.uc then
    let n := bitsOf b.stat 16 16
    { b with stat := (b.stat ||| 4#64) + (if n < 65535 then 0x10000#64 else 0) }
  else { b with stat := b.stat ||| 4#64 }

/-- The tenant that owns a core (R314). -/
def State.ownerOf (s : State) (c : CoreId) : Option TenantId := s.hub.owners[c]

/-- An error becomes the record of a bank as an uncorrectable one: none is held, or a correctable one is. -/
def ErrorBank.raises (b : ErrorBank) (r : ErrorReport) : Bool := r.uc && !(bitOf b.stat 0 && bitOf b.stat 1)

/-- The module OS's error interrupt, raised by every uncorrectable record (R363). -/
def State.errorInterrupt (s : State) (raised : Bool) : State :=
  if raised then { s with hub := { s.hub with interrupts := s.hub.interrupts + 1 } } else s

/-- An error reported to a bank of a compute die. -/
def State.dieError (s : State) (d : DieId) (bank : Fin 16) (r : ErrorReport) : State :=
  let t := r.core.bind s.ownerOf
  (s.modDie d fun x => { x with banks := x.banks.set bank (x.banks[bank].record r t x.dclk) }).errorInterrupt
    ((s.dies[d].banks[bank]).raises r)

/-- An error reported to a bank of the hub. -/
def State.hubError (s : State) (bank : Fin 4) (r : ErrorReport) : State :=
  { s with hub := { s.hub with banks := s.hub.banks.set bank (s.hub.banks[bank].record r (r.core.bind s.ownerOf) s.time) } }.errorInterrupt
    (s.hub.banks[bank].raises r)

/-- A life counter of a die, 64 bits and saturating (R367). -/
def State.lifeAdd (s : State) (d : DieId) (off n : Nat) : State :=
  s.modDie d fun x => { x with life := Memory.writeNat x.life off 8 (min (Memory.readNat x.life off 8 + n) (2 ^ 64 - 1)) }

/-- Correctable errors of a unit (R367): 0–31 Plates, 32–63 weight-store groups, 64–79 HBM slices, 80 crossbar, 81–84
die-to-die ports, 85–88 Biryar ports, 89–120 core state. -/
def lifeCorrectable (unit : Nat) : Nat := 0x40 + 8 * unit

/-- Uncorrectable errors of a unit. -/
def lifeUncorrectable (unit : Nat) : Nat := 0x440 + 8 * unit

/-- Poison substitutions under ZERO and under REPLAY_THEN_ZERO, reduction discards, lost peer packets, header abandonments. -/
def lifeOther (k : Nat) : Nat := 0x1560 + 8 * k

/-- A proof fault, corrected or escalated, at a SEGE: bank 14, KIND 6, with the address of the SEGB of the segment where the proof
table names it (R82, R359, R360, R362), and the life record. -/
def State.proofFault (s : State) (c : CoreId) (escalated : Bool) (sege : Nat) (segment : Option Nat) : State :=
  let s := s.dieError (dieOf c) 14
    { uc := escalated, kind := 6, unit := (localOf c).val, core := some c, addr := sege, info := segment.getD 0 }
  s.lifeAdd (dieOf c) (0x840 + 8 * (localOf c).val) 1

/-- A replay of an engine command window: bank 14, KIND 5. -/
def State.countReplay (s : State) (c : CoreId) (at_ : Nat) : State :=
  let s := s.dieError (dieOf c) 14
    { uc := false, kind := 5, unit := (localOf c).val, core := some c, addr := at_, info := 0 }
  s.lifeAdd (dieOf c) (0x940 + 8 * (localOf c).val) 1

/-- An escalation (R360): bank 14, KIND 7. -/
def State.countEscalation (s : State) (c : CoreId) (at_ : Nat) : State :=
  let s := s.dieError (dieOf c) 14
    { uc := true, kind := 7, unit := (localOf c).val, core := some c, addr := at_, info := 0 }
  s.lifeAdd (dieOf c) (0xA40 + 8 * (localOf c).val) 1

end Sys2Proof.Machine
end

