-- ==== Sys2Proof/Machine/Flags.lean ====
section
/-! DEFINITION. The status flags of vector, conversion and matrix results: VSTAT (R35). -/

namespace Sys2Proof.Machine

/-- Flags in the bit positions of VSTAT. -/
abbrev VFlags := BitVec 5

/-- A result was inexact. -/
def flagNX : VFlags := 1
/-- Overflow. -/
def flagOF : VFlags := 2
/-- Invalid operation. -/
def flagNV : VFlags := 4
/-- A result saturated. -/
def flagST : VFlags := 8
/-- Illegal ternary code decoded as zero. -/
def flagTERN : VFlags := 16

/-- A flag under a condition. -/
def flagIf (b : Bool) (f : VFlags) : VFlags := if b then f else 0

end Sys2Proof.Machine
end

