-- ==== Sys2Proof/Machine/Formats.lean ====
section
/-! DEFINITION. Number formats and rounding (R149–R166): format codes, decoding to exact numbers, exact sums and products,
the one rounding procedure, stochastic rounding, and the block quantisers. -/

namespace Sys2Proof.Machine

/-- The formats of R149. -/
inductive Fmt
  | int8 | uint8 | int16 | int32 | int4 | uint4 | t5 | fp32 | bf16 | fp16 | e4m3 | e5m2 | e2m1 | e8m0
  | mxfp8 | mxfp4 | mx4s | mxint8 | int64
deriving DecidableEq, Repr

/-- The format of a code; none for 0 and the reserved codes 20–31. -/
def fmtOf (n : Nat) : Option Fmt :=
  match n with
  | 1 => some .int8 | 2 => some .uint8 | 3 => some .int16 | 4 => some .int32 | 5 => some .int4 | 6 => some .uint4
  | 7 => some .t5 | 8 => some .fp32 | 9 => some .bf16 | 10 => some .fp16 | 11 => some .e4m3 | 12 => some .e5m2
  | 13 => some .e2m1 | 14 => some .e8m0 | 15 => some .mxfp8 | 16 => some .mxfp4 | 17 => some .mx4s
  | 18 => some .mxint8 | 19 => some .int64 | _ => none

/-- The code of a format. -/
def Fmt.code : Fmt → Nat
  | .int8 => 1 | .uint8 => 2 | .int16 => 3 | .int32 => 4 | .int4 => 5 | .uint4 => 6 | .t5 => 7 | .fp32 => 8 | .bf16 => 9
  | .fp16 => 10 | .e4m3 => 11 | .e5m2 => 12 | .e2m1 => 13 | .e8m0 => 14 | .mxfp8 => 15 | .mxfp4 => 16 | .mx4s => 17
  | .mxint8 => 18 | .int64 => 19

/-- Bits of one stored element; T5 holds five in a byte and has no width of its own. -/
def Fmt.bits : Fmt → Nat
  | .int8 | .uint8 | .e4m3 | .e5m2 | .e8m0 | .mxfp8 | .mxint8 | .t5 => 8
  | .int16 | .bf16 | .fp16 => 16
  | .int32 | .fp32 => 32
  | .int4 | .uint4 | .e2m1 | .mxfp4 | .mx4s => 4
  | .int64 => 64

/-- A plain whole-byte format: bytes per element. -/
def Fmt.size (f : Fmt) : Nat := f.bits / 8

/-- Elements in `n` bytes of a row (R128, R150, R160). -/
def Fmt.elems (f : Fmt) (n : Nat) : Nat := if f = .t5 then 5 * n else n * 8 / f.bits

/-- Integer formats. -/
def Fmt.isInt : Fmt → Bool
  | .int8 | .uint8 | .int16 | .int32 | .int4 | .uint4 | .int64 => true
  | _ => false

/-- Unsigned integer formats. -/
def Fmt.unsigned : Fmt → Bool
  | .uint8 | .uint4 => true
  | _ => false

/-- MX block formats. -/
def Fmt.isMx : Fmt → Bool
  | .mxfp8 | .mxfp4 | .mx4s | .mxint8 => true
  | _ => false

/-- The element format of an MX block (R155); any other format is its own. -/
def Fmt.base : Fmt → Fmt
  | .mxfp8 => .e4m3
  | .mxfp4 | .mx4s => .e2m1
  | .mxint8 => .int8
  | f => f

/-- Scale bytes of one block (R155). -/
def Fmt.scaleBytes : Fmt → Nat
  | .mx4s => 2
  | _ => 1

/-! ### Float layouts -/

/-- A float layout (R151, R152): field widths, bias, the code of the largest finite magnitude, of infinity and of the canonical
NaN where the format has them. -/
structure FloatFmt where
  ebits   : Nat
  fbits   : Nat
  bias    : Nat
  maxCode : Nat
  inf     : Option Nat
  nan     : Option Nat
deriving DecidableEq, Repr

def fmtFP32 : FloatFmt := ⟨8, 23, 127, 0x7F7FFFFF, some 0x7F800000, some 0x7FC00000⟩
def fmtBF16 : FloatFmt := ⟨8, 7, 127, 0x7F7F, some 0x7F80, some 0x7FC0⟩
def fmtFP16 : FloatFmt := ⟨5, 10, 15, 0x7BFF, some 0x7C00, some 0x7E00⟩
def fmtE4M3 : FloatFmt := ⟨4, 3, 7, 0x7E, none, some 0x7F⟩
def fmtE5M2 : FloatFmt := ⟨5, 2, 15, 0x7B, some 0x7C, some 0x7E⟩
def fmtE2M1 : FloatFmt := ⟨2, 1, 1, 7, none, none⟩

/-- The layout of a float format. -/
def Fmt.float : Fmt → Option FloatFmt
  | .fp32 => some fmtFP32 | .bf16 => some fmtBF16 | .fp16 => some fmtFP16 | .e4m3 => some fmtE4M3
  | .e5m2 => some fmtE5M2 | .e2m1 => some fmtE2M1 | _ => none

/-- The weight of the sign bit. -/
def FloatFmt.sign (f : FloatFmt) : Nat := 2 ^ (f.ebits + f.fbits)

/-- The exponent of the least subnormal. -/
def FloatFmt.qmin (f : FloatFmt) : Int := 1 - (f.bias : Int) - f.fbits

/-- Code of a magnitude with a sign. -/
def FloatFmt.signed (f : FloatFmt) (neg : Bool) (mag : Nat) : Nat := mag + if neg then f.sign else 0

/-! ### Exact numbers -/

/-- What an element reads as: (−1)^neg × m × 2^e, an infinity, or a NaN, signalling or quiet. -/
inductive Num
  | fin (neg : Bool) (m : Nat) (e : Int)
  | inf (neg : Bool)
  | nan (signalling : Bool)
deriving DecidableEq, Repr

/-- An exact value before rounding: (−1)^neg × n / d × 2^e with d > 0, an infinity, or NaN. -/
inductive Exact
  | ratio (neg : Bool) (n d : Nat) (e : Int)
  | inf (neg : Bool)
  | nan
deriving DecidableEq, Repr

def Num.zero : Num := .fin false 0 0

def Num.exact : Num → Exact
  | .fin s m e => .ratio s m 1 e
  | .inf s => .inf s
  | .nan _ => .nan

def Num.isNaN : Num → Bool
  | .nan _ => true
  | _ => false

def Num.isZero : Num → Bool
  | .fin _ 0 _ => true
  | _ => false

def Num.neg : Num → Num
  | .fin s m e => .fin (!s) m e
  | .inf s => .inf (!s)
  | .nan q => .nan q

def Num.abs : Num → Num
  | .fin _ m e => .fin false m e
  | .inf _ => .inf false
  | .nan q => .nan q

/-- The sign of a number. -/
def Num.isNeg : Num → Bool
  | .fin s _ _ => s
  | .inf s => s
  | .nan _ => false

/-- An integer as a number. -/
def Num.ofInt (i : Int) : Num := .fin (i < 0) i.natAbs 0

/-- A float code read exactly (R151, R152). -/
def FloatFmt.decode (f : FloatFmt) (bits : Nat) : Num :=
  let s := bits / f.sign % 2 = 1
  let mag := bits % f.sign
  if mag > f.maxCode then
    if f.inf = some mag then .inf s
    else .nan (f.inf.isSome && mag / 2 ^ (f.fbits - 1) % 2 = 0)
  else
    let x := mag / 2 ^ f.fbits
    let frac := mag % 2 ^ f.fbits
    if x = 0 then .fin s frac f.qmin else .fin s (2 ^ f.fbits + frac) (f.qmin + (x - 1 : Nat))

/-- A subnormal read as zero of its own sign (R133, R164). -/
def FloatFmt.decodeFlushed (f : FloatFmt) (bits : Nat) : Num :=
  let mag := bits % f.sign
  if mag / 2 ^ f.fbits = 0 then .fin (bits / f.sign % 2 = 1) 0 0 else f.decode bits

/-- Two's complement or unsigned value of `w` bits. -/
def intValue (unsigned : Bool) (w bits : Nat) : Int :=
  let b := bits % 2 ^ w
  if !unsigned && b ≥ 2 ^ (w - 1) then (b : Int) - 2 ^ w else b

/-- An element of a plain format as a number (R149–R154). -/
def Fmt.decode (f : Fmt) (bits : Nat) : Num :=
  match f.float with
  | some l => l.decode bits
  | none =>
    if f = .e8m0 then (if bits % 256 = 255 then .nan false else .fin false 1 ((bits % 256 : Nat) - 127))
    else Num.ofInt (intValue f.unsigned f.bits bits)

/-- FP32, BF16 and FP16 subnormals flushed where `flush` holds (R164). -/
def Fmt.decodeIn (f : Fmt) (flush : Bool) (bits : Nat) : Num :=
  match f with
  | .fp32 => if flush then fmtFP32.decodeFlushed bits else fmtFP32.decode bits
  | .bf16 => if flush then fmtBF16.decodeFlushed bits else fmtBF16.decode bits
  | .fp16 => if flush then fmtFP16.decodeFlushed bits else fmtFP16.decode bits
  | f => f.decode bits

/-! ### Exact operations (R132, R166) -/

/-- A product; 0 × ∞ is invalid, as a signalling NaN. -/
def Num.mul : Num → Num → Num
  | .nan p, .nan q => .nan (p || q)
  | .nan p, _ => .nan p
  | _, .nan q => .nan q
  | .inf s, .inf t => .inf (s != t)
  | .inf s, .fin t m _ => if m = 0 then .nan true else .inf (s != t)
  | .fin s m _, .inf t => if m = 0 then .nan true else .inf (s != t)
  | .fin s m e, .fin t n f => .fin (s != t) (m * n) (e + f)

/-- The signed integer of a finite number at scale 2^q, for q at most its exponent. -/
def Num.at_ (q : Int) : Num → Int
  | .fin s m e => let v := (m : Int) * 2 ^ (e - q).toNat; if s then -v else v
  | _ => 0

/-- The least exponent of the finite terms that are not zero. -/
def leastExp (ts : List Num) : Int :=
  ts.foldl (fun q t => match t with | .fin _ m e => if m ≠ 0 && e < q then e else q | _ => q) 0

/-- An exact sum (R132, R165, R166), with `down` for RDN: any NaN, or +∞ with −∞, gives NaN; an exact zero is −0 where every
term is −0, or under RDN from terms that are not all +0. DEDUCED (log entry 61): a sum has no order, so +∞ and −∞ among its terms
set NV also beside a quiet NaN. -/
def sumNums (down : Bool) (ts : List Num) : Exact × VFlags :=
  let pos := ts.any (· = .inf false)
  let neg := ts.any (· = .inf true)
  if ts.any Num.isNaN then (.nan, flagIf (ts.any (· = .nan true) || (pos && neg)) flagNV)
  else
    if pos && neg then (.nan, flagNV)
    else if pos then (.inf false, 0)
    else if neg then (.inf true, 0)
    else
      let q := leastExp ts
      let v := ts.foldl (fun a t => a + t.at_ q) (0 : Int)
      if v ≠ 0 then (.ratio (v < 0) v.natAbs 1 q, 0)
      else
        let allNeg := !ts.isEmpty && ts.all Num.isNeg
        let allPos := ts.all fun t => !t.isNeg
        (.ratio (allNeg || (down && !allPos)) 0 1 0, 0)

/-- A quotient (R138): 0/0 and ∞/∞ are invalid; a finite value over zero gives an exact infinity with OF. -/
def divNums (a c : Num) : Exact × VFlags :=
  match a, c with
  | .nan p, .nan q => (.nan, flagIf (p || q) flagNV)
  | .nan p, _ => (.nan, flagIf p flagNV)
  | _, .nan q => (.nan, flagIf q flagNV)
  | .inf _, .inf _ => (.nan, flagNV)
  | .inf s, .fin t _ _ => (.inf (s != t), 0)
  | .fin s _ _, .inf t => (.ratio (s != t) 0 1 0, 0)
  | .fin s m e, .fin t n f =>
    if n = 0 then (if m = 0 then (.nan, flagNV) else (.inf (s != t), flagOF))
    else (.ratio (s != t) m n (e - f), 0)

/-- Comparison of two numbers that are not NaN: 0 equal, with +0 and −0 equal. -/
def Num.cmp : Num → Num → Ordering
  | .inf s, .inf t => if s = t then .eq else if s then .lt else .gt
  | .inf s, _ => if s then .lt else .gt
  | _, .inf t => if t then .gt else .lt
  | a, b => let q := leastExp [a, b]; compare (a.at_ q) (b.at_ q)

/-- As `cmp`, with −0 below +0 (R135, R139). -/
def Num.cmpSigned (a b : Num) : Ordering :=
  match a.cmp b with
  | .eq => if a.isNeg && !b.isNeg then .lt else if !a.isNeg && b.isNeg then .gt else .eq
  | o => o

/-! ### Rounding (R161, R162) -/

/-- The rounding modes. -/
inductive RMode | rne | rtz | rdn | rup | sto
deriving DecidableEq, Repr

/-- The rounding in force: a MOD field with MODE.RND in place of RNE (R34, R132). -/
def roundMode (mod : BitVec 4) (modeRnd : Nat) : RMode :=
  if mod.toNat / 8 % 2 = 1 then .sto
  else
    let r := if mod.toNat % 4 = 0 then modeRnd else mod.toNat % 4
    match r with | 1 => .rtz | 2 => .rdn | 3 => .rup | _ => .rne

/-- SAT of a MOD field. -/
def satOf (mod : BitVec 4) : Bool := mod.toNat / 4 % 2 = 1

/-- A non-negative ratio rounded to an integer under a mode: the integer, whether it is inexact, whether it went up in
magnitude. `u` is the random word of STO. -/
def roundRatio (neg : Bool) (num den : Nat) (mode : RMode) (u : Nat) : Nat × Bool × Bool :=
  let t := num / den
  let r := num % den
  if r = 0 then (t, false, false)
  else
    let up := match mode with
      | .rne => 2 * r > den || (2 * r = den && t % 2 = 1)
      | .rtz => false
      | .rdn => neg
      | .rup => !neg
      | .sto => u < r * 2 ^ 32 / den
    (if up then t + 1 else t, true, up)

/-- ⌊log2(n / d)⌋ for n, d > 0. -/
def ratioLog2 (n d : Nat) : Int :=
  let k : Int := (n.log2 : Int) - d.log2
  let ge := if 0 ≤ k then d * 2 ^ k.toNat ≤ n else d ≤ n * 2 ^ (-k).toNat
  if ge then k else k - 1

/-- n / d × 2^e in units of 2^q, as a ratio. -/
def scaleRatio (n d : Nat) (e q : Int) : Nat × Nat :=
  if q ≤ e then (n * 2 ^ (e - q).toNat, d) else (n, d * 2 ^ (q - e).toNat)

/-- What a format without infinity gives for ±∞ after rounding (R161): the canonical NaN, or for E2M1 its largest value. -/
def FloatFmt.noInf (f : FloatFmt) (neg : Bool) : Nat × VFlags :=
  match f.nan with
  | some n => (n, 0)
  | none => (f.signed neg f.maxCode, flagST)

/-- The rounding procedure of R161. DEDUCED (log entry 63): under STO a value beyond the largest magnitude that the format with an
unbounded exponent holds exactly counts as rounded down, and sets no NX. -/
def FloatFmt.round (f : FloatFmt) (mode : RMode) (sat : Bool) (u : Nat) : Exact → Nat × VFlags
  | .nan => match f.nan with | some n => (n, 0) | none => (0, flagNV)
  | .inf neg =>
    match f.inf with
    | some i => (f.signed neg i, 0)
    | none => if sat || f.nan.isNone then (f.signed neg f.maxCode, flagST) else f.noInf neg
  | .ratio neg n d e =>
    if n = 0 then (f.signed neg 0, 0)
    else
      let q := max (ratioLog2 n d + e - f.fbits) f.qmin
      let p := scaleRatio n d e q
      let r := roundRatio neg p.1 p.2 mode u
      let mag := (q - f.qmin).toNat * 2 ^ f.fbits + r.1
      let nx := flagIf r.2.1 flagNX
      if mag ≤ f.maxCode then (f.signed neg mag, nx)
      else
        let toMax := match mode with
          | .rtz => true
          | .rdn => !neg
          | .rup => neg
          | .rne => false
          | .sto => !r.2.2
        let fl := nx ||| flagOF
        if toMax then (f.signed neg f.maxCode, fl)
        else if sat then (f.signed neg f.maxCode, fl ||| flagST)
        else
          match f.inf with
          | some i => (f.signed neg i, fl)
          | none => let x := f.noInf neg; (x.1, fl ||| x.2)

/-- A result that is a non-zero subnormal replaced by zero of its sign, with NX (R164). -/
def FloatFmt.flush (f : FloatFmt) (flushing : Bool) (r : Nat × VFlags) : Nat × VFlags :=
  let mag := r.1 % f.sign
  if flushing && mag ≠ 0 && mag / 2 ^ f.fbits = 0 then (r.1 - mag, r.2 ||| flagNX) else r

/-- The formats whose subnormals the flush of R133 concerns. -/
def Fmt.flushes : Fmt → Bool
  | .fp32 | .bf16 | .fp16 => true
  | _ => false

/-- The bounds of an integer format. -/
def intBounds (unsigned : Bool) (w : Nat) : Int × Int :=
  if unsigned then (0, 2 ^ w - 1) else (-(2 ^ (w - 1)), 2 ^ (w - 1) - 1)

/-- An integer result: wrapped, or under SAT clamped with ST (R132). -/
def Fmt.putInt (f : Fmt) (sat : Bool) (v : Int) : Nat × VFlags :=
  let b := intBounds f.unsigned f.bits
  if sat && v < b.1 then ((b.1 % 2 ^ f.bits).toNat, flagST)
  else if sat && b.2 < v then ((b.2 % 2 ^ f.bits).toNat, flagST)
  else ((v % 2 ^ f.bits).toNat, 0)

/-! ### The stochastic stream (R162) -/

/-- Philox4x32 rounds. -/
def philoxRounds : (n : Nat) → Nat → Nat → Nat → Nat → Nat → Nat → List Nat
  | 0, _, _, c0, c1, c2, c3 => [c0, c1, c2, c3]
  | n + 1, k0, k1, c0, c1, c2, c3 =>
    let p0 := 0xD2511F53 * c0
    let p1 := 0xCD9E8D57 * c2
    philoxRounds n ((k0 + 0x9E3779B9) % 2 ^ 32) ((k1 + 0xBB67AE85) % 2 ^ 32)
      (Nat.xor (Nat.xor (p1 / 2 ^ 32) c1) k0) (p1 % 2 ^ 32) (Nat.xor (Nat.xor (p0 / 2 ^ 32) c3) k1) (p0 % 2 ^ 32)

/-- Philox4x32-10 with a 64-bit key. -/
def philox (seed c0 c1 c2 c3 : Nat) : List Nat :=
  philoxRounds 10 (seed % 2 ^ 32) (seed / 2 ^ 32 % 2 ^ 32) c0 c1 c2 c3

/-- What the stream depends on besides the element position: the kernel's seed, the iteration number, the engine and the
dispatch S-cycle. -/
structure StoKey where
  seed : Nat
  x30  : Nat
  eng  : Nat
  dsc  : Nat
deriving DecidableEq, Repr

/-- The random word of element position p. -/
def StoKey.word (k : StoKey) (p : Nat) : Nat :=
  (philox k.seed (p / 4) (k.dsc % 2 ^ 32) (k.dsc / 2 ^ 32 % 2 ^ 32) (2 ^ 31 + k.x30 % 2 ^ 23 * 256 + k.eng))[p % 4]?.getD 0

/-- The word where the mode needs one. -/
def StoKey.use (k : StoKey) (mode : RMode) (p : Nat) : Nat := if mode = .sto then k.word p else 0

/-! ### MX blocks (R156–R159) -/

/-- The value of an element of a block with its scale byte and, for MX4S, its extra value (R156). -/
def mxValue (f : Fmt) (elem scale xv : Nat) : Num :=
  if scale % 256 = 255 then .nan false
  else
    let s : Num := .fin false 1 ((scale % 256 : Nat) - 127)
    match f with
    | .mxint8 => ((Num.ofInt (intValue false 8 elem)).mul (.fin false 1 (-6))).mul s
    | .mx4s => if elem % 16 = 8 then (fmtE4M3.decode xv).mul s else (fmtE2M1.decode (elem % 16)).mul s
    | .mxfp4 => (fmtE2M1.decode (elem % 16)).mul s
    | _ => (fmtE4M3.decode (elem % 256)).mul s

/-- emax of R157. -/
def mxEmax : Fmt → Int
  | .mxfp8 => 8
  | .mxfp4 => 2
  | _ => 0

/-- Clamp to −127 … 127. -/
def clampExp (e : Int) : Int := max (-127) (min 127 e)

/-- A quotient by 2^k. -/
def Exact.shift (x : Exact) (k : Int) : Exact :=
  match x with
  | .ratio s n d e => .ratio s n d (e - k)
  | x => x

/-- The magnitude of a finite exact value at its ratio. -/
def Exact.isFinite : Exact → Bool
  | .ratio _ _ _ _ => true
  | _ => false

/-- |a| < |b| for finite exact values. -/
def Exact.magLt (a b : Exact) : Bool :=
  match a, b with
  | .ratio _ n d e, .ratio _ m c f =>
    let q := min e f
    n * 2 ^ (e - q).toNat * c < m * 2 ^ (f - q).toNat * d
  | _, _ => false

/-- The largest magnitude of a list, zero for none. -/
def maxMag (xs : List Exact) : Exact := xs.foldl (fun a x => if a.magLt x then x else a) (.ratio false 0 1 0)

/-- ⌊log2 |x|⌋ of a finite non-zero value. -/
def Exact.log2 : Exact → Int
  | .ratio _ n d e => ratioLog2 n d + e
  | _ => 0

def Exact.isZero : Exact → Bool
  | .ratio _ 0 _ _ => true
  | _ => false

/-- An element of a block rounded with saturation: ST where the value lies beyond the format's largest magnitude, as in the
worked example of R158. Log entry 15. -/
def FloatFmt.roundBlock (l : FloatFmt) (mode : RMode) (u : Nat) (x : Exact) : Nat × VFlags :=
  let r := l.round mode true u x
  (r.1, r.2 ||| flagIf ((l.decode l.maxCode).exact.magLt x) flagST)

/-- An element of MXINT8 under a mode: −127 to 127 (R157). DESIGN CHOICE (log entry 62): an element that rounds to ±128 sets ST and
NX and not OF. -/
def roundMxInt8 (mode : RMode) (u : Nat) : Exact → Nat × VFlags
  | .ratio neg n d e =>
    let p := scaleRatio n d e 0
    let r := roundRatio neg p.1 p.2 mode u
    let nx := flagIf r.2.1 flagNX
    let m := min r.1 127
    let v : Int := if neg then -(m : Int) else m
    ((v % 256).toNat, nx ||| flagIf (127 * p.2 < p.1) flagST)
  | _ => (0, 0)

/-- A quantised block: its scale bytes, element codes and flags. -/
structure MxBlock where
  scale : List Nat
  elems : List Nat
  flags : VFlags
deriving DecidableEq, Repr

/-- The quantiser of R157; `us` gives the random word of each element under STO. -/
def quantizeMx (f : Fmt) (mode : RMode) (us : List Nat) (xs : List Exact) : MxBlock :=
  if xs.any fun x => !x.isFinite then ⟨[0xFF], xs.map fun _ => 0, flagNV⟩
  else
    let a := maxMag xs
    if a.isZero then ⟨[0], xs.map fun _ => 0, 0⟩
    else
      let e := clampExp (a.log2 - mxEmax f)
      let rs := (xs.zip us).map fun p =>
        match f with
        | .mxint8 => roundMxInt8 mode p.2 (p.1.shift (e - 6))
        | .mxfp4 => fmtE2M1.roundBlock mode p.2 (p.1.shift e)
        | _ => fmtE4M3.roundBlock mode p.2 (p.1.shift e)
      ⟨[(e + 127).toNat], rs.map (·.1), rs.foldl (fun a r => a ||| r.2) 0⟩

/-- The MX4S quantiser of R158. -/
def quantizeMx4s (mode : RMode) (us : List Nat) (xs : List Exact) : MxBlock :=
  if xs.any fun x => !x.isFinite then ⟨[0xFF, 0x7F], xs.map fun _ => 0, flagNV⟩
  else
    let a := maxMag xs
    if a.isZero then ⟨[0, 0], xs.map fun _ => 0, 0⟩
    else
      let o := xs.findIdx fun x => !x.magLt a
      let xo := xs[o]?.getD a
      let m2 := maxMag ((xs.zipIdx.filter fun p => p.2 ≠ o).map (·.1))
      let e := clampExp (if m2.isZero then xo.log2 - 7 else m2.log2 - 2)
      let xv := fmtE4M3.roundBlock .rne 0 (xo.shift e)
      let rs := ((xs.zip us).zipIdx).map fun p =>
        if p.2 = o then (8, xv.2)
        else
          let r := fmtE2M1.roundBlock mode p.1.2 (p.1.1.shift e)
          (if r.1 = 8 then 0 else r.1, r.2)
      ⟨[(e + 127).toNat, xv.1], rs.map (·.1), rs.foldl (fun a r => a ||| r.2) 0⟩

/-- The quantiser of an MX format. -/
def quantize (f : Fmt) (mode : RMode) (us : List Nat) (xs : List Exact) : MxBlock :=
  if f = .mx4s then quantizeMx4s mode us xs else quantizeMx f mode us xs

/-- The five trits of a legal T5 byte (R160). -/
def t5Trits (b : Nat) : List Int :=
  [81, 27, 9, 3, 1].map fun w => let d := b / w % 3; if d = 2 then -1 else (d : Int)

end Sys2Proof.Machine
end

