-- ==== Sys2Proof/Machine/Operands.lean ====
section
/-! DEFINITION. The operands of engine instructions (R14, R22, R23, R61–R63, R128–R130): views and the rows they select, the
operand ring, broadcast registers and literals, masks, and how elements are read from bytes and written back. Every element
carries the mark of the data it comes from (R356). -/

namespace Sys2Proof.Machine

/-- An element: its bits, and whether it is read, computed or copied from marked data. -/
structure Elem where
  bits : Nat
  bad  : Bool
deriving DecidableEq, Repr

def Elem.zero : Elem := ⟨0, false⟩

/-- Rows of elements. -/
abbrev Tile := List (List Elem)

/-! ### Fields of a view (R13) -/

def viewBase (v : BitVec 128) : Nat := bitsOf v 0 22
def viewPitch (v : BitVec 128) : Nat := bitsOf v 22 22
def viewRows (v : BitVec 128) : Nat := bitsOf v 44 12
def viewFmt (v : BitVec 128) : Nat := bitsOf v 56 5
def viewRowb (v : BitVec 128) : Nat := bitsOf v 64 13
def viewRwin (v : BitVec 128) : Nat := bitsOf v 77 12
def viewRoff (v : BitVec 128) : Nat := bitsOf v 103 12

/-- A reserved bit of a view is set. -/
def viewReserved (v : BitVec 128) : Bool := bitsOf v 61 3 ≠ 0 || bitsOf v 115 13 ≠ 0

/-- A use of view `vw` at an operand position (R377): view rows `row + i × step` for i < `rows`, bytes `off` to
`off + bytes − 1` of each, `short` bytes fewer of the last row. -/
structure ViewUse where
  pos   : Nat
  vw    : Reg
  row   : Nat
  step  : Nat
  off   : Nat
  rows  : Nat
  bytes : Nat
  short : Nat := 0
deriving DecidableEq, Repr

/-- The Plate offset of row `r` of a view (R14). -/
def viewRowAt (v : BitVec 128) (r : Nat) : Nat :=
  viewBase v + (if 0 < viewRwin v then (r + viewRoff v) % viewRwin v else r) * viewPitch v

/-- The Plate offset of each row of a use. -/
def ViewUse.offsets (u : ViewUse) (v : BitVec 128) : List Nat :=
  (List.range u.rows).map fun i => viewRowAt v (u.row + i * u.step) + u.off

/-- The bytes of row i of a use. -/
def ViewUse.len (u : ViewUse) (i : Nat) : Nat := if i + 1 = u.rows then u.bytes - u.short else u.bytes

/-- The Plate offset and the length of each row of a use. -/
def ViewUse.segs (u : ViewUse) (v : BitVec 128) : List (Nat × Nat) := (u.offsets v).zipIdx.map fun r => (r.1, u.len r.2)

/-- A condition of R14 fails. -/
def ViewUse.outOfBounds (u : ViewUse) (v : BitVec 128) : Bool :=
  viewRows v = 0 || viewReserved v || (0 < viewRwin v && viewRwin v ≤ viewRoff v) || viewRowb v < u.off + u.bytes ||
  (List.range u.rows).any (fun i =>
    viewRows v ≤ u.row + i * u.step || (0 < viewRwin v && viewRwin v ≤ u.row + i * u.step)) ||
  (u.segs v).any fun r => plateSize < r.1 + r.2

/-- The lowest offset in the trap window that a use touches (R12, R377). -/
def ViewUse.privileged (u : ViewUse) (v : BitVec 128) : Option Nat :=
  (((u.segs v).filter fun r => r.2 ≠ 0 && trapWindow < r.1 + r.2).map fun r => max r.1 trapWindow).min?

/-- The fault of a list of view uses: view bounds at the lowest failing position, else Plate privilege. -/
def usesFault (vw : Reg → BitVec 128) (us : List ViewUse) : Option (Cause × Word) :=
  let bad := us.filter fun u => u.outOfBounds (vw u.vw)
  match (bad.map (·.pos)).min? with
  | some p =>
    match bad.find? fun u => u.pos = p with
    | some u => some (.viewBounds, BitVec.ofNat 64 (u.vw.val + 32 * p))
    | none => none
  | none =>
    ((us.filterMap fun u => u.privileged (vw u.vw)).min?).map fun o => (.platePrivilege, BitVec.ofNat 64 o)

/-- RSTEP code as a step. -/
def stepOf (c : Fin 4) : Nat :=
  match c with | 0 => 1 | 1 => 2 | 2 => 4 | _ => 0

/-- A view operand over `rows` rows of `bytes` bytes, at a position. -/
def useOf (pos : Nat) (o : Operand) (rows bytes : Nat) : Option ViewUse :=
  match o with
  | .view vw row st cb => some { pos, vw, row := row.val, step := stepOf st, off := 128 * cb.val, rows, bytes }
  | _ => none

/-! ### Captured state (R39) -/

def QEntry.view (q : QEntry) (n : Reg) : BitVec 128 := q.cap.vw[n]
def QEntry.reg (q : QEntry) (n : Reg) : Word := q.cap.x[n]

/-- Rows of the captured shape (R15). -/
def QEntry.rows (q : QEntry) : Nat := bitsOf q.cap.shp 0 5 + 1

/-- Row bytes of the captured shape. -/
def QEntry.rb (q : QEntry) : Nat := bitsOf q.cap.shp 5 9 + 1

/-- b of R134. -/
def QEntry.blocks (q : QEntry) : Nat := (q.rows * q.rb + 511) / 512

/-- MODE.EXP at issue. -/
def QEntry.exposed (q : QEntry) : Bool := bitOf q.cap.mode 0

/-- MODE.RND at issue. -/
def QEntry.rnd (q : QEntry) : Nat := bitsOf q.cap.mode 3 2

/-- The shape-limit fault of a vector, conversion or permutation instruction (R377). -/
def QEntry.shapeFault (q : QEntry) : Cause × Word := (.shapeLimit, q.cap.shp.setWidth 64)

/-- The illegal-format fault (R377). -/
def QEntry.formatFault (q : QEntry) : Cause × Word := (.illegalFormat, q.addr)

/-! ### Bytes with marks -/

/-- Bytes of a memory from `off` on, each with its line's mark. -/
def readMarked (m : Memory) (marks : NatSet) (off n : Nat) : List Elem :=
  let bs := Memory.readBytes m off n
  if marks.isEmpty then bs.map fun b => ⟨b.toNat, false⟩
  else bs.zipIdx.map fun p => ⟨p.1.toNat, marks.contains ((off + p.2) / 64)⟩

/-- The ring entry of a depth: the (d + 1)-th most recent of `pos` earlier pushes (R23). -/
def Core.ringAt (c : Core) (pos d : Nat) : RingEntry :=
  if d < pos then c.ring[Fin.ofNat 8 (pos - 1 - d)] else RingEntry.empty

/-- The bytes of each row of a view use. -/
def Core.useBytes (c : Core) (v : BitVec 128) (u : ViewUse) : Tile :=
  (u.segs v).map fun r => readMarked c.plate c.marks r.1 r.2

/-- The bytes of each row of a view or ring operand. -/
def Core.operandBytes (c : Core) (q : QEntry) (o : Operand) (rows bytes : Nat) : Tile :=
  match o with
  | .ring d =>
    let r := c.ringAt q.cap.ringPos d.val
    (List.range rows).map fun i => readMarked r.data r.marks (512 * i) bytes
  | o =>
    match useOf 0 o rows bytes with
    | some u => c.useBytes (q.view u.vw) u
    | none => []

/-! ### Elements and bytes (R128, R150, R160) -/

/-- `n` groups of `k` from a list. -/
def chunks {α : Type} : (n : Nat) → Nat → List α → List (List α)
  | 0, _, _ => []
  | n + 1, k, l => l.take k :: chunks n k (l.drop k)

/-- A little-endian element of some bytes. -/
def joinBytes : List Elem → Elem
  | [] => Elem.zero
  | b :: bs => let r := joinBytes bs; ⟨b.bits + 256 * r.bits, b.bad || r.bad⟩

/-- An element's bytes. -/
def splitElem : (n : Nat) → Elem → List Elem
  | 0, _ => []
  | n + 1, x => ⟨x.bits % 256, x.bad⟩ :: splitElem n ⟨x.bits / 256, x.bad⟩

/-- Elements of whole-byte or 4-bit width from a row's bytes; element 2i is the low half of byte i (R150). -/
def elemsOf (width : Nat) (bs : List Elem) : List Elem :=
  if width = 4 then bs.flatMap fun b => [⟨b.bits % 16, b.bad⟩, ⟨b.bits / 16, b.bad⟩]
  else (chunks (bs.length * 8 / width) (width / 8) bs).map joinBytes

/-- A row's bytes from its elements. -/
def bytesOf (width : Nat) (es : List Elem) : List Elem :=
  if width = 4 then
    (chunks ((es.length + 1) / 2) 2 es).map fun p =>
      ⟨(p.headD Elem.zero).bits % 16 + 16 * ((p.drop 1).headD Elem.zero).bits, p.any (·.bad)⟩
  else es.flatMap (splitElem (width / 8))

/-- A row's elements in place of positions written at 4 bits; `old` supplies an odd last half. -/
def Tile.toBytes (width : Nat) (t : Tile) : Tile := t.map (bytesOf width)

/-! ### Broadcast values (R62, R130) -/

/-- The low 32 bits of a word as FP32, rounded once, RNE without SAT, to a float format. DESIGN CHOICE (log entry 101): the conversion
sets no VSTAT flag. -/
def narrowFloat (f : FloatFmt) (w : Nat) : Nat := (f.round .rne false 0 (fmtFP32.decode (w % 2 ^ 32)).exact).1

/-- An FP32 value rounded once, RNE, to E8M0 (R154, R161): NaN, or the nearer power of two. What the format has no number for (zero,
negative values, infinity, an overflow, a value below the least), and a tie, which no fraction bit settles, is a free value. Log entry 13. -/
def narrowE8M0 (w : BitVec 32) : Nat :=
  let e := bitsOf w 23 8
  let m := bitsOf w 0 23
  let free := (Config.scalarE8M0 w).toNat
  if e = 255 && m ≠ 0 then 0xFF
  else if bitOf w 31 || e = 255 then free
  else if e = 0 then
    if 2 ^ 22 ≤ m && m < 3 * 2 ^ 21 then 0 else if 3 * 2 ^ 21 < m then 1 else free
  else if m < 2 ^ 22 then e
  else if 2 ^ 22 < m && e < 254 then e + 1
  else free

/-- A register or literal as an element of a format. -/
def scalarElem (f : Fmt) (w : Word) : Elem :=
  let v := match f with
    | .e8m0 => narrowE8M0 (w.setWidth 32)
    | .fp32 => w.toNat % 2 ^ 32
    | f => match f.float with
      | some l => narrowFloat l w.toNat
      | none => w.toNat % 2 ^ f.bits
  ⟨v, false⟩

/-- A tile of one value. -/
def constTile (rows e : Nat) (x : Elem) : Tile := List.replicate rows (List.replicate e x)

/-- The elements of a first or second source in format `f`, `e` per row. -/
def Core.sourceTile (c : Core) (q : QEntry) (f : Fmt) (o : Src2) (rows e : Nat) : Tile :=
  match o with
  | .lit l => constTile rows e (scalarElem f (l.setWidth 64))
  | .op (.reg n) => constTile rows e (scalarElem f (q.reg n))
  | .op o => (c.operandBytes q o rows (e * f.bits / 8)).map (elemsOf f.bits)

/-! ### Masks (R18) -/

/-- Mask `k` as it is read: M0 is all ones. -/
def Core.maskOf (c : Core) (k : Fin 8) : BitVec 4096 := if k = 0 then BitVec.allOnes 4096 else c.masks[k]

/-- A tile position is on: there is no mask above position 4,095, where only M0 may be read. -/
def maskOn (k : Fin 8) (m : BitVec 4096) (p : Nat) : Bool := k = 0 || m.getLsbD p

/-! ### Results -/

/-- Cells and marked lines of rows of bytes written at Plate offsets. -/
def rowCells (offs : List Nat) (t : Tile) : List (Nat × Byte) × List Nat :=
  let ps := (offs.zip t).flatMap fun r => r.2.zipIdx.map fun b => (r.1 + b.2, b.1)
  (ps.map fun p => (p.1, BitVec.ofNat 8 p.2.bits), ((ps.filter fun p => p.2.bad).map fun p => lineOf p.1).eraseDups)

/-- Rows written to one place: the highest-numbered row wins on each byte (R128). -/
def stackRows (t : Tile) : List Elem := t.foldl (fun acc r => r ++ acc.drop r.length) []

/-- Rows of bytes to a view use; with step 0 they are written to one view row. -/
def writeUse (v : BitVec 128) (u : ViewUse) (t : Tile) : Eff :=
  let offs := u.offsets v
  let r := if u.step = 0 then rowCells (offs.take 1) [stackRows t] else rowCells offs t
  .plate r.1 r.2

/-- Rows of bytes as a ring entry (R22): what lies beyond 32 rows of 512 bytes is not held. -/
def ringEff (pos : Nat) (t : Tile) : Eff :=
  let r := rowCells ((List.range 32).map (512 * ·)) ((t.take 32).map (·.take 512))
  .ring pos (r.1.filter fun p => p.2 ≠ 0) r.2

/-- A ring entry that reads as zero (R123). -/
def ringZero (pos : Nat) : Eff := .ring pos [] []

/-- The lines that a view use reads, in row-major order at 512 bytes per S-cycle from `start` (R257). -/
def useReads (start : Nat) (v : BitVec 128) (u : ViewUse) : List (Nat × Nat) :=
  ((u.segs v).zipIdx.flatMap fun p =>
    let r := p.1
    (granules r.1 r.2).flatMap fun l =>
      let lo := max r.1 (64 * l)
      let hi := min (r.1 + r.2 - 1) (64 * l + 63)
      let at_ (x : Nat) := start + (p.2 * u.bytes + (x - r.1)) / 512
      if at_ lo = at_ hi then [(at_ lo, l)] else [(at_ lo, l), (at_ hi, l)])

/-- The Plate range of each row of a use. -/
def useRanges (v : BitVec 128) (u : ViewUse) : List Res :=
  (u.segs v).map fun r => Res.plate r.1 r.2

/-- The Plate offsets of the bytes of a use. -/
def useOffsets (v : BitVec 128) (u : ViewUse) : List Nat := (u.segs v).flatMap fun r => List.range' r.1 r.2

end Sys2Proof.Machine
end

