-- ==== Sys2Proof/Machine/Streams.lean ====
section
/-! DEFINITION. Stream records: their fields and validity, cursors and how they advance, the coordinates and addresses of a
tile (R214–R217). -/

namespace Sys2Proof.Machine

/-! ### Fields (R214) -/

abbrev StreamRecord := BitVec 512

def srBase (r : StreamRecord) : Nat := bitsOf r 0 48
def srFmt (r : StreamRecord) : Nat := bitsOf r 64 5
def srBchk (r : StreamRecord) : Bool := bitOf r 69
def srPois (r : StreamRecord) : Nat := bitsOf r 70 2
def srNdim (r : StreamRecord) : Nat := bitsOf r 72 3
def srPaden (r : StreamRecord) : Bool := bitOf r 75
def srSparse (r : StreamRecord) : Bool := bitOf r 76
def srTrows (r : StreamRecord) : Nat := bitsOf r 80 12
def srTrb (r : StreamRecord) : Nat := bitsOf r 96 13
def srIdxh (r : StreamRecord) : Reg := Fin.ofNat 32 (bitsOf r 112 5)
def srIdxv (r : StreamRecord) : Bool := bitOf r 127
def srExtent (r : StreamRecord) (k : Nat) : Nat := bitsOf r (128 + 32 * k) 32
def srStride (r : StreamRecord) (k : Nat) : Int := (BitVec.ofNat 32 (bitsOf r (256 + 32 * k) 32)).toInt
def srCursor (r : StreamRecord) : BitVec 64 := BitVec.ofNat 64 (bitsOf r 384 64)
def srPad (r : StreamRecord) (x : Nat) : Nat := bitsOf r (448 + 8 * (x % 4)) 8
def srIfmt (r : StreamRecord) : Nat := bitsOf r 480 5
def srIdim (r : StreamRecord) : Nat := bitsOf r 488 2

/-- T0–T3 of a cursor. -/
def cursorAt (c : BitVec 64) (k : Nat) : Nat := bitsOf c (16 * k) 16

/-- A quotient rounded up. -/
def cdiv (a b : Nat) : Nat := (a + b - 1) / b

/-- The extent of a dimension; one beyond NDIM (R215). -/
def srDim (r : StreamRecord) (k : Nat) : Nat := if k < srNdim r then srExtent r k else 1

/-- How many tile steps dimension `k` takes, as advance() counts them (R216): the dimension an index replaces counts as
extent 1. -/
def srSteps (r : StreamRecord) (k : Nat) : Nat :=
  let e := if srIdxv r && srIdim r = k then 1 else srDim r k
  match k with
  | 0 => cdiv e (srTrb r)
  | 1 => cdiv e (srTrows r)
  | _ => e

/-- A valid record (R215). -/
def streamValid (r : StreamRecord) : Bool :=
  let s := (fmtOf (srFmt r)).map Fmt.size
  let dims := List.range 4
  (fmtOf (srFmt r)).isSome && srPois r ≠ 3 && 1 ≤ srNdim r && srNdim r ≤ 4 && 1 ≤ srTrows r && 1 ≤ srTrb r &&
  srTrb r ≤ 4096 &&
  bitsOf r 48 16 = 0 && bitsOf r 77 3 = 0 && bitsOf r 92 4 = 0 && bitsOf r 109 3 = 0 && bitsOf r 117 10 = 0 &&
  bitsOf r 485 3 = 0 && bitsOf r 490 22 = 0 && srStride r 0 = 1 &&
  dims.all (fun k => if k < srNdim r then 1 ≤ srExtent r k
    else srExtent r k = 0 && bitsOf r (256 + 32 * k) 32 = 0) &&
  cdiv (srDim r 0) (srTrb r) ≤ 65536 && cdiv (srDim r 1) (srTrows r) ≤ 65536 && srDim r 2 ≤ 65536 && srDim r 3 ≤ 65536 &&
  cursorAt (srCursor r) 0 < cdiv (srDim r 0) (srTrb r) && cursorAt (srCursor r) 1 < cdiv (srDim r 1) (srTrows r) &&
  cursorAt (srCursor r) 2 < srDim r 2 && cursorAt (srCursor r) 3 < srDim r 3 &&
  (match s with
   | some n => n = 0 || srFmt r = 7 ||
      (srBase r % n = 0 && srTrb r % n = 0 && [1, 2, 3].all fun k => srStride r k % (n : Int) = 0)
   | none => true) &&
  (if srIdxv r then
     (srIfmt r = 2 || srIfmt r = 3 || srIfmt r = 4 || srIfmt r = 19) && 1 ≤ srIdim r && srIdim r < srNdim r && srTrows r ≤ 64
   else srIfmt r = 0 && srIdim r = 0)

/-- A handle bound to a record (R28). -/
def bindRecord (r : StreamRecord) : StreamBinding := { record := r, cursor := srCursor r }

/-! ### Cursors (R216, R224) -/

/-- One digit of a cursor moved on by `c` steps of `n`: the digit and the carry. -/
def advanceDigit (t n c : Nat) : Nat × Nat :=
  if c = 0 then (t, 0) else let v := min t (n - 1) + c; (v % n, v / n)

/-- k applications of advance(). -/
def StreamBinding.advance (b : StreamBinding) (k : Nat) : StreamBinding :=
  let r := b.record
  let d0 := advanceDigit (cursorAt b.cursor 0) (srSteps r 0) k
  let d1 := advanceDigit (cursorAt b.cursor 1) (srSteps r 1) d0.2
  let d2 := advanceDigit (cursorAt b.cursor 2) (srSteps r 2) d1.2
  let d3 := advanceDigit (cursorAt b.cursor 3) (srSteps r 3) d2.2
  { b with cursor := BitVec.ofNat 64 (d0.1 + 2 ^ 16 * d1.1 + 2 ^ 32 * d2.1 + 2 ^ 48 * d3.1) }

/-- The coordinate of tile row `row`, byte `x`; `idx` replaces dimension IDIM of an indexed transfer. -/
def StreamBinding.coord (b : StreamBinding) (idx : Option Int) (row x : Nat) (k : Nat) : Int :=
  let r := b.record
  let plain : Int := match k with
    | 0 => cursorAt b.cursor 0 * srTrb r + x
    | 1 => cursorAt b.cursor 1 * srTrows r + row
    | k => cursorAt b.cursor k
  match idx with
  | some i => if k = srIdim r then i else plain
  | none => plain

/-- inb of R216. -/
def StreamBinding.inBounds (b : StreamBinding) (idx : Option Int) (row x : Nat) : Bool :=
  (List.range (srNdim b.record)).all fun k =>
    let c := b.coord idx row x k
    0 ≤ c && c < (srExtent b.record k : Int)

/-- addr of R216. -/
def StreamBinding.addr (b : StreamBinding) (idx : Option Int) (row x : Nat) : Nat :=
  let a := (List.range (srNdim b.record)).foldl (fun a k => a + b.coord idx row x k * srStride b.record k) (srBase b.record : Int)
  (a % 2 ^ 48).toNat

/-- A run of bytes of a tile row that all lie in bounds: the first byte, the count and the address of the first. Within a row
the bytes are contiguous (ST0 = 1), and only dimension 0 depends on the byte. -/
structure RowRun where
  row  : Nat
  x    : Nat
  n    : Nat
  addr : Nat
deriving DecidableEq, Repr

/-- The bytes of a tile row that are accessed, as one run, none where they all lie out of bounds; without BCHK all of them
(R217). -/
def StreamBinding.rowRun (b : StreamBinding) (idx : Option Int) (row : Nat) : Option RowRun :=
  let r := b.record
  let n := if !srBchk r then srTrb r
    else if b.inBounds idx row 0 then min (srTrb r) (srExtent r 0 - cursorAt b.cursor 0 * srTrb r) else 0
  if n = 0 then none else some { row, x := 0, n, addr := b.addr idx row 0 }

/-- The address of the first out-of-bounds byte of a row (R217). -/
def StreamBinding.rowFault (b : StreamBinding) (idx : Option Int) (row : Nat) : Option Nat :=
  let n := ((b.rowRun idx row).map (·.n)).getD 0
  if n < srTrb b.record then some (b.addr idx row n) else none

/-- The access fault of R217: the transfer has a byte out of bounds and no padding. -/
def StreamBinding.boundsFault (b : StreamBinding) (idx : Nat → Option Int) (rows : Nat) : Option Nat :=
  if srBchk b.record && !srPaden b.record then ((List.range rows).filterMap fun r => b.rowFault (idx r) r).head? else none

end Sys2Proof.Machine
end

