-- ==== Sys2Proof/Machine/Engine.lean ====
section
/-! DEFINITION. Issue of an engine instruction into its queue (R26, R39, R83, R216): the engine, the ring push, what is captured,
the stream handles it captures and advances; and what a dispatch comes to. -/

namespace Sys2Proof.Machine

/-! ### Classification (R60, R65, R73) -/

/-- The major of an instruction. -/
def majorOf (i : Instr) : Nat := firstParcel i / 4 % 64

/-- The engine that executes an engine instruction. -/
def engineOf (i : Instr) : Engine :=
  if firstParcel i % 4 = 3 then .mx
  else
    match majorOf i with
    | 0x08 => .ld
    | 0x09 => .st
    | 0x0A => .cp
    | _ => .vx

/-- The place of an engine in a vector of engines. -/
def engIx : Engine → Fin 5
  | .ld => 0 | .mx => 1 | .vx => 2 | .st => 3 | .cp => 4

/-- V majors 0x00–0x06 and VPERM push one ring entry (R22). -/
def pushesRing (i : Instr) : Bool :=
  match i with
  | .vperm _ => true
  | i => firstParcel i % 4 = 2 && majorOf i ≤ 6

/-- The places of a queue (R26). -/
def queueSize : Engine → Nat
  | .cp => 32
  | _ => 16

/-- The token bits of an engine instruction. -/
def tokensOf (i : Instr) : Tokens :=
  let p := firstParcel i
  let sh := if p % 4 = 3 then 12 else 14
  ⟨p / 2 ^ sh % 2 = 1, p / 2 ^ (sh + 1) % 2 = 1, p / 2 ^ (sh + 2) % 2 = 1, p / 2 ^ (sh + 3) % 2 = 1⟩

/-- The counter between an engine and its right neighbour in the ring LD, MX, VX, ST, CP (R24), in TOKST order (R36): even
numbers count A→B, odd numbers B→A. -/
def tokenOut (e : Engine) (right : Bool) : Fin 10 :=
  match e, right with
  | .ld, true => 0 | .mx, false => 1
  | .mx, true => 2 | .vx, false => 3
  | .vx, true => 4 | .st, false => 5
  | .st, true => 6 | .cp, false => 7
  | .cp, true => 8 | .ld, false => 9

/-- The counter that a wait pops: what the neighbour on that side posts toward the engine. -/
def tokenIn (e : Engine) (right : Bool) : Fin 10 :=
  match e, right with
  | .ld, true => 1 | .mx, false => 0
  | .mx, true => 3 | .vx, false => 2
  | .vx, true => 5 | .st, false => 4
  | .st, true => 7 | .cp, false => 6
  | .cp, true => 9 | .ld, false => 8

/-! ### Stream handles (R216, R220) -/

/-- The handle in an operand. -/
def handleOf (o : Operand) : List Reg :=
  match o with
  | .reg n => [n]
  | _ => []

/-- The handles that an instruction names as sources or destinations of data. -/
def namedHandles (i : Instr) : List Reg :=
  match i with
  | .tld v | .tldi v | .tldw v | .tpref v | .sadv v => handleOf v.s1
  | .tst v | .tsti v | .tstm v | .cfill v | .catom v =>
    match i with
    | .catom v => handleOf v.s1
    | _ => handleOf v.d
  | .cpy v | .cpya v | .cmcast v | .wstore v => handleOf v.d ++ handleOf v.s1
  | _ => []

/-- TLDI and TSTI name an index handle too (R221). -/
def isIndexed (i : Instr) : Bool :=
  match i with
  | .tldi _ | .tsti _ => true
  | _ => false

/-- Every distinct handle, the index handle of the record included. -/
def Core.handles (c : Core) (i : Instr) : List Reg :=
  let hs := namedHandles i
  let ix := if isIndexed i then hs.flatMap fun h => match c.streams[h] with | some b => [srIdxh b.record] | none => [] else []
  (hs ++ ix).eraseDups

/-- Tile steps that an instruction advances its handles by at issue (R216, R224). -/
def cursorSteps (i : Instr) : Nat :=
  match i with
  | .sadv v => match v.s2 with | .lit k => k.toNat | _ => 0
  | .tpref _ => 0
  | _ => 1

/-! ### Issue -/

/-- What an engine instruction captures (R39). -/
def Core.capture (c : Core) (i : Instr) : Capture :=
  { vw := c.vw, shp := c.shp, ft := c.ft[Fin.ofNat 16 (bitsOf c.ftlvl 4 4)], mode := c.mode,
    x := Vector.ofFn fun n => c.readX n,
    streams := (c.handles i).filterMap fun h => (c.streams[h]).map fun b => ⟨h, b⟩,
    ringPos := c.ringPush }

/-- An instruction enters its queue; its handles advance and its ring position is taken. -/
def Core.enqueue (c : Core) (i : Instr) : Core :=
  let e := engIx (engineOf i)
  let q : QEntry := { instr := i, addr := c.chain.c0, seq := c.seqNo, issuedAt := c.sclk, window := c.window.number,
                      cap := c.capture i }
  let k := cursorSteps i
  { c with
    queues := c.queues.set e (c.queues[e] ++ [q]),
    ringPush := if pushesRing i then c.ringPush + 1 else c.ringPush,
    streams := (c.handles i).foldl (fun ss (h : Reg) => ss.set h ((ss[h]).map (·.advance k))) c.streams,
    seg := if engineOf i = .cp then { c.seg with clean := false } else c.seg,
    window := if engineOf i = .mx || engineOf i = .ld then { c.window with count := c.window.count + 1 } else c.window }

/-- Stream unbound, precise at issue, with the handle's number (R28, R234). -/
def unboundFault (i : Instr) (s : State) : Option (Cause × Word) :=
  ((s.cpu.handles i).find? fun h => (s.cpu.streams[h]).isNone).map fun h => (.streamUnbound, BitVec.ofNat 64 h.val)

/-- With FMT = 0 the views decide the element format, and R62 forbids a literal beside some of them. -/
def literalFault (i : Instr) (v : VWord) (s : State) : Option (Cause × Word) :=
  let f (o : Operand) : Bool := match o with | .view n _ _ _ => noLiteralFormat (viewFmt s.cpu.vw[n]) | _ => false
  match v.s2 with
  | .lit _ =>
    if firstParcel i % 4 = 2 && majorOf i ≤ 5 && v.fmt = 0 && (f v.d || f v.s1) then some (.illegalInstruction, s.cpu.chain.c0)
    else none
  | _ => none

/-- Issue of a V instruction of an engine. -/
def State.issueV (s : State) (i : Instr) (v : VWord) : Out :=
  s.issue i (fun s => (literalFault i v s).or (unboundFault i s)) fun s => s.modCpu fun c => c.enqueue i

/-- Issue of an M instruction. -/
def State.issueM (s : State) (i : Instr) : Out := s.issue i noFault fun s => s.modCpu fun c => c.enqueue i

/-! ### Dispatch -/

/-- A piece of what a transfer or a copy writes, at most one packet: the memory, the address and length, and its operations. -/
structure Piece where
  sp   : Space
  addr : Nat
  n    : Nat
  ops  : List PortOp
deriving DecidableEq, Repr

/-- What an engine instruction comes to at dispatch (R39, R123): its latency and the occupancies of its engine and of the Burin,
the views and other own Plate bytes it reads, the Plate bytes, accumulators and slots it writes, the results that land, or its
fault; for a store to the own Plate whether it goes through a mapping; for a transfer also what it stores to memory, whether it reads memory at dispatch, the bank group it refreshes, the pages it translates ahead and the index tile it has read. -/
structure Dispatch where
  lat    : Nat
  occ    : Nat
  burin  : Nat := 0
  reads  : List ViewUse := []
  ranges : List (Nat × Nat) := []
  writes : List Res := []
  effs   : List Eff := []
  fault  : Option (Cause × Word) := none
  mapped : Bool := false
  store  : List Piece := []
  atOnce : Bool := true
  refresh : Option Reg := none
  ahead  : List Nat := []
  touched : List LoadRun := []
deriving DecidableEq, Repr

/-- The stochastic stream of an instruction that dispatches now (R162): engine 3 is VX. -/
structure StoSource where
  seed : Nat
  x30  : Nat
  dsc  : Nat
deriving DecidableEq, Repr

def StoSource.key (s : StoSource) (eng : Nat) : StoKey := { seed := s.seed, x30 := s.x30, eng, dsc := s.dsc }

/-- SEED of a kernel record (R312). -/
def Kernel.seed (k : Kernel) : Nat := bytesNat ((k.record.drop 88).take 8)

/-- The stream for the core in focus. -/
def State.stoSource (s : State) : StoSource :=
  { seed := ((s.kernelOf s.cur).map Kernel.seed).getD 0, x30 := s.cpu.x30Start.toNat, dsc := s.cpu.sclk }

end Sys2Proof.Machine
end

