-- ==== Sys2Proof/Machine/Tile.lean ====
section
/-! DEFINITION. The tile model of the vector instructions (R128–R134): the element format, the geometry of every operand, the
faults at dispatch, predication and merging, and the elementwise instruction that most of majors 0x00–0x02 and 0x05 are. -/

namespace Sys2Proof.Machine

/-! ### Format classes (R129) -/

def classI (n : Nat) : Bool := 1 ≤ n && n ≤ 4
def classF (n : Nat) : Bool := 8 ≤ n && n ≤ 10
def classN (n : Nat) : Bool := classI n || classF n
def classX (n : Nat) : Bool := classN n || n = 11 || n = 12 || n = 14

/-- W(F): INT32 for an integer format, FP32 for a float format. -/
def widened (f : Fmt) : Fmt := if f.isInt then .int32 else .fp32

/-- What a vector instruction's row of the tables says: its class, latency and occupancy from b, whether S2 holds INT32
indices, whether D is widened, whether it reads D, whether elements that are off keep D, the rows and bytes of S1 and of D (and by
how many bytes D's last row is shorter), an index view, the masks it reads besides its predicate, and its own shape limits. -/
structure VSpec where
  cls     : Nat → Bool
  lat     : Nat → Nat
  occ     : Nat → Nat
  index   : Bool := false
  wide    : Bool := false
  readsD  : Bool := false
  merges  : Bool := true
  s1Shape : Nat → Nat → Nat → Nat × Nat := fun rows e s => (rows, e * s)
  dShape  : Nat → Nat → Nat → Nat × Nat := fun rows e s => (rows, e * s)
  dShort  : Nat → Nat → Nat := fun _ _ => 0
  aux     : Option (Reg × (Nat → Nat → Nat × Nat)) := none
  selector : Fin 8 := 0
  limit   : Nat → Nat → Bool := fun _ _ => false

/-- The geometry of one vector instruction: the element format, the tile, and the view uses that it reads and writes. -/
structure VPlan where
  lat   : Nat
  occ   : Nat
  fmt   : Fmt
  rows  : Nat
  e     : Nat
  reads : List ViewUse
  dst   : List ViewUse
  fault : Option (Cause × Word)
deriving DecidableEq, Repr

/-- The FMT of a view operand, none for another operand. -/
def QEntry.operandFmt (q : QEntry) (o : Operand) : Option Nat :=
  match o with
  | .view n _ _ _ => some (viewFmt (q.view n))
  | _ => none

/-- The operand of S2 that is not a literal. -/
def src2Operand (s : Src2) : Operand :=
  match s with
  | .op o => o
  | .lit _ => .view 0 0 0 0

/-- S2 holds an operand. -/
def src2Present (s : Src2) : Bool :=
  match s with
  | .op _ => true
  | .lit _ => false

/-- The element format (R129): FMT, else the common FMT of the views. -/
def resolveFmt (fmt : Nat) (views : List Nat) : Option Nat :=
  if fmt ≠ 0 then some fmt
  else
    match views with
    | [] => none
    | f :: fs => if f ≠ 0 && fs.all (· = f) then some f else none

/-- The view that a fixed format requires holds that code or 0. -/
def fixedOk (want : Nat) (f : Option Nat) : Bool :=
  match f with
  | some n => n = 0 || n = want
  | none => true

/-- The geometry of a vector instruction. `two` says that the instruction has a second source. -/
def VSpec.plan (sp : VSpec) (two : Bool) (v : VWord) (q : QEntry) : VPlan :=
  let b := q.blocks
  let maskDst := match v.d with | .special _ => true | _ => false
  let s2 := if two && src2Present v.s2 then [src2Operand v.s2] else []
  let data := (if sp.wide then [] else [v.d]) ++ [v.s1] ++ (if sp.index then [] else s2)
  let base : VPlan := { lat := sp.lat b, occ := sp.occ b, fmt := .int8, rows := q.rows, e := 0, reads := [], dst := [],
                        fault := none }
  match (resolveFmt v.fmt.toNat (data.filterMap q.operandFmt)).bind fun n => if sp.cls n then fmtOf n else none with
  | none => { base with fault := some q.formatFault }
  | some f =>
    let wf := (widened f).code
    let idx := if sp.index then s2.map q.operandFmt else []
    let aux := match sp.aux with | some a => [some (viewFmt (q.view a.1))] | none => []
    if !(if sp.wide then fixedOk wf (q.operandFmt v.d) else true) || !(idx ++ aux).all (fixedOk 4) then
      { base with fmt := f, fault := some q.formatFault }
    else
      let s := f.size
      let e := q.rb / s
      if q.rb % s ≠ 0 || ((v.pm ≠ 0 || maskDst || sp.selector ≠ 0) && 4096 < q.rows * e) || sp.limit q.rows e then
        { base with fmt := f, fault := some q.shapeFault }
      else
        let sh1 := sp.s1Shape q.rows e s
        let shd := sp.dShape q.rows e s
        let d := (useOf 0 v.d shd.1 shd.2).map fun u => { u with short := sp.dShort e s }
        let keeps := sp.readsD || (sp.merges && v.pm ≠ 0 && !v.bit21)
        let xs := match sp.aux with
          | some a =>
            let n := a.2 q.rows e
            [match v.d with
             | .view _ row st _ => { pos := 3, vw := a.1, row := row.val, step := stepOf st, off := 0, rows := n.1, bytes := n.2 }
             | _ => { pos := 3, vw := a.1, row := 0, step := 1, off := 0, rows := n.1, bytes := n.2 }]
          | none => []
        let reads := (useOf 1 v.s1 sh1.1 sh1.2).toList ++
          s2.flatMap (fun o => (useOf 2 o q.rows (e * if sp.index then 4 else s)).toList) ++ (if keeps then d.toList else [])
        let dst := d.toList ++ xs
        { base with fmt := f, e, reads, dst, fault := usesFault q.view (reads ++ dst) }

/-! ### What a dispatching instruction sees -/

/-- The instruction, its core, and its stochastic stream. -/
structure Env where
  q   : QEntry
  c   : Core
  sto : StoSource

/-- The rounding of an instruction (R34, R132), its element format and its random words. -/
structure Ctx where
  fmt   : Fmt
  mode  : RMode
  sat   : Bool
  flush : Bool
  key   : StoKey
deriving DecidableEq, Repr

def Env.ctx (x : Env) (f : Fmt) (mod : BitVec 4) : Ctx :=
  { fmt := f, mode := roundMode mod x.q.rnd, sat := satOf mod, flush := x.q.exposed, key := x.sto.key 3 }

/-- A float element as an exact number, subnormals flushed in exposed mode (R133). -/
def Ctx.val (x : Ctx) (a : Elem) : Num := x.fmt.decodeIn x.flush a.bits

/-- An integer element. -/
def Ctx.int (x : Ctx) (a : Elem) : Int := intValue x.fmt.unsigned x.fmt.bits a.bits

/-- An exact value rounded once to a format at element position p, and flushed in exposed mode (R132, R133). -/
def Ctx.putIn (x : Ctx) (f : Fmt) (p : Nat) (r : Exact × VFlags) : Nat × VFlags :=
  match f.float with
  | some l =>
    let y := l.flush (x.flush && f.flushes) (l.round x.mode x.sat (x.key.use x.mode p) r.1)
    (y.1, r.2 ||| y.2)
  | none => (0, r.2)

def Ctx.put (x : Ctx) (p : Nat) (r : Exact × VFlags) : Nat × VFlags := x.putIn x.fmt p r

/-- An element's result: the bits, the mark and the flags. -/
abbrev Res1 := Elem × VFlags

/-- An elementwise operation: context, element position, S1, S2 and D elements. -/
abbrev ElemOp := Ctx → Nat → Elem → Elem → Elem → Res1

/-- A result computed from two elements. -/
def mark2 (a c : Elem) (r : Nat × VFlags) : Res1 := (⟨r.1, a.bad || c.bad⟩, r.2)

/-- A result computed from three elements. -/
def mark3 (a c d : Elem) (r : Nat × VFlags) : Res1 := (⟨r.1, a.bad || c.bad || d.bad⟩, r.2)

/-- One row, from position p. -/
def mapRow (f : Nat → Elem → Elem → Elem → Res1) : Nat → List Elem → List Elem → List Elem → List Res1
  | p, a :: as, c :: cs, d :: ds => f p a c d :: mapRow f (p + 1) as cs ds
  | _, _, _, _ => []

/-- All rows, `e` elements each, from position p. -/
def mapTile (f : Nat → Elem → Elem → Elem → Res1) (e : Nat) : Nat → Tile → Tile → Tile → List (List Res1)
  | p, a :: as, c :: cs, d :: ds => mapRow f p a c d :: mapTile f e (p + e) as cs ds
  | _, _, _, _ => []

/-- The old destination tile, read where it is needed; the operand ring has none. -/
def Env.oldTile (x : Env) (v : VWord) (f : Fmt) (rows e : Nat) (needed : Bool) : Tile :=
  match v.d with
  | .view _ _ _ _ => if needed then (x.c.operandBytes x.q v.d rows (e * f.bits / 8)).map (elemsOf f.bits) else constTile rows e Elem.zero
  | _ =>
    if needed then
      (List.range rows).map fun i => (List.range e).map fun j => ⟨Config.ringOld x.q.seq (i * e + j) % 2 ^ f.bits, false⟩
    else constTile rows e Elem.zero

/-- The results that land from a tile of bytes: in the Plate, in the ring, and the flags (R131). -/
def Env.results (x : Env) (d : Operand) (dst : List ViewUse) (t : Tile) (fl : VFlags) : List Eff :=
  (match d, dst with
   | .view _ _ _ _, u :: _ => [writeUse (x.q.view u.vw) u t]
   | _, _ => []) ++ [ringEff x.q.cap.ringPos t] ++ (if fl = 0 then [] else [.vstat fl])

/-- The flags of all results. -/
def allFlags (t : List (List Res1)) : VFlags := t.foldl (fun a r => r.foldl (fun a x => a ||| x.2) a) 0

/-- The elements of all results. -/
def allElems (t : List (List Res1)) : Tile := t.map (·.map (·.1))

/-- The Plate ranges of view uses. -/
def usesRanges (q : QEntry) (us : List ViewUse) : List Res := us.flatMap fun u => useRanges (q.view u.vw) u

/-- What a fault at dispatch leaves: the ring entry reads as zero (R123). -/
def VPlan.faulted (p : VPlan) (q : QEntry) (f : Cause × Word) : Dispatch :=
  { lat := p.lat, occ := p.occ, reads := p.reads, writes := usesRanges q p.dst, effs := if pushesRing q.instr then [ringZero q.cap.ringPos] else [],
    fault := some f }

/-- A dispatch with a plan: its fault, else the given results. -/
def VPlan.run (p : VPlan) (q : QEntry) (effs : List Eff) : Dispatch :=
  match p.fault with
  | some f => p.faulted q f
  | none => { lat := p.lat, occ := p.occ, reads := p.reads, writes := usesRanges q p.dst, effs }

/-- Predication of one element (R131): on, off to zero, off to the old element. -/
def predicated (v : VWord) (m : BitVec 4096) (f : Nat → Elem → Elem → Elem → Res1) (p : Nat) (a c d : Elem) : Res1 :=
  if maskOn v.pm m p then f p a c d else if v.bit21 then (Elem.zero, 0) else (d, 0)

/-- The rule of R131 for an elementwise instruction. -/
def elementwise (sp : VSpec) (two : Bool) (op : ElemOp) (v : VWord) (x : Env) : Dispatch :=
  let p := sp.plan two v x.q
  let f := p.fmt
  let keeps := sp.readsD || (v.pm ≠ 0 && !v.bit21)
  let s1 := x.c.sourceTile x.q f (.op v.s1) p.rows p.e
  let s2 := if two then x.c.sourceTile x.q f v.s2 p.rows p.e else constTile p.rows p.e Elem.zero
  let d := x.oldTile v f p.rows p.e keeps
  let cx := x.ctx f v.mod
  let r := mapTile (predicated v (x.c.maskOf v.pm) (op cx)) p.e 0 s1 s2 d
  p.run x.q (x.results v.d p.dst ((allElems r).toBytes f.bits) (allFlags r))

end Sys2Proof.Machine
end

