-- ==== Sys2Proof/Machine/Vector.lean ====
section
/-! DEFINITION. V major 0x00, elementwise arithmetic and logic, and major 0x01, compares (R132–R137): the operation of each
instruction on one element, what its dispatch comes to, and its issue. -/

namespace Sys2Proof.Machine

/-! ### Latency classes (R134) -/

/-- 4 + b, occupancy b. -/
def latFast (b : Nat) : Nat := 4 + b
/-- 6 + b, occupancy b. -/
def latMul (b : Nat) : Nat := 6 + b
/-- Occupancy b. -/
def occOne (b : Nat) : Nat := b
/-- Occupancy 2b. -/
def occTwo (b : Nat) : Nat := 2 * b

def specN : VSpec := { cls := classN, lat := latFast, occ := occOne }
def specMul : VSpec := { specN with lat := latMul }
def specFma : VSpec := { specMul with readsD := true }
def specAvg : VSpec := specMul
def specMulh : VSpec := { specMul with cls := classI }
def specShift : VSpec := { specN with cls := classI }
def specBits : VSpec := { specN with cls := classX }

/-! ### Elements of major 0x00 (R132, R135) -/

/-- An integer result from integers, wrapped or clamped. -/
def intOp (g : Int → Int → Int → Int) (x : Ctx) (a c d : Elem) : Nat × VFlags :=
  x.fmt.putInt x.sat (g (x.int a) (x.int c) (x.int d))

/-- A float result from exact numbers, rounded once. -/
def floatOp (g : Bool → Num → Num → Num → Exact × VFlags) (x : Ctx) (p : Nat) (a c d : Elem) : Nat × VFlags :=
  x.put p (g (x.mode = .rdn) (x.val a) (x.val c) (x.val d))

/-- The operation of an instruction of class N over S1 and S2. -/
def arith2 (gi : Int → Int → Int → Int) (gf : Bool → Num → Num → Num → Exact × VFlags) : ElemOp := fun x p a c d =>
  mark2 a c (if x.fmt.isInt then intOp gi x a c d else floatOp gf x p a c d)

/-- The operation of an instruction of class N over S1, S2 and D. -/
def arith3 (gi : Int → Int → Int → Int) (gf : Bool → Num → Num → Num → Exact × VFlags) : ElemOp := fun x p a c d =>
  mark3 a c d (if x.fmt.isInt then intOp gi x a c d else floatOp gf x p a c d)

/-- The flags and value of a choice between numbers, where a NaN operand gives NaN, with NV only for a signalling one. -/
def pickNum (g : Num → Num → Num) (a c : Num) : Exact × VFlags :=
  if a.isNaN || c.isNaN then (.nan, flagIf (a = .nan true || c = .nan true) flagNV) else ((g a c).exact, 0)

/-- The smaller of two numbers, −0 below +0. -/
def Num.least (a c : Num) : Num := if c.cmpSigned a = .lt then c else a

/-- The larger of two numbers. -/
def Num.most (a c : Num) : Num := if a.cmpSigned c = .lt then c else a

/-- sgn(c) of VADDSUB. -/
def Num.sgn (c : Num) : Num :=
  match c with
  | .nan q => .nan q
  | .inf s => .fin s 1 0
  | .fin s m _ => if m = 0 then Num.zero else .fin s 1 0

/-- |v| of an exact value. -/
def Exact.abs (v : Exact) : Exact :=
  match v with
  | .ratio _ n d e => .ratio false n d e
  | .inf _ => .inf false
  | .nan => .nan

/-- v / 2. -/
def Exact.half (v : Exact) : Exact := v.shift 1

def opAdd : ElemOp := arith2 (fun a c _ => a + c) (fun dn a c _ => sumNums dn [a, c])
def opSub : ElemOp := arith2 (fun a c _ => a - c) (fun dn a c _ => sumNums dn [a, c.neg])

/-- A product as an exact value. -/
def mulExact (a c : Num) : Exact × VFlags :=
  let r := a.mul c
  (r.exact, flagIf (r = .nan true) flagNV)

def opMul : ElemOp := arith2 (fun a c _ => a * c) (fun _ a c _ => mulExact a c)
def opFma : ElemOp := arith3 (fun a c d => a * c + d) (fun dn a c d => sumNums dn [a.mul c, d])
def opFms : ElemOp := arith3 (fun a c d => a * c - d) (fun dn a c d => sumNums dn [a.mul c, d.neg])
def opFnma : ElemOp := arith3 (fun a c d => -(a * c) + d) (fun dn a c d => sumNums dn [(a.mul c).neg, d])
def opMin : ElemOp := arith2 (fun a c _ => min a c) (fun _ a c _ => pickNum Num.least a c)
def opMax : ElemOp := arith2 (fun a c _ => max a c) (fun _ a c _ => pickNum Num.most a c)
def opAddsub : ElemOp :=
  arith3 (fun a c d => d + a * c.sign) (fun dn a c d => sumNums dn [d, a.mul c.sgn])
def opAvg : ElemOp :=
  arith2 (fun a c _ => (a + c + 1) / 2) (fun dn a c _ => let r := sumNums dn [a, c]; (r.1.half, r.2))
def opAbsd : ElemOp :=
  arith2 (fun a c _ => (a - c).natAbs) (fun dn a c _ => let r := sumNums dn [a, c.neg]; (r.1.abs, r.2))

/-- VCLAMP: min(max(a, lo), c), lo = −c; integer negation clamps, and UINT8 has lo = 0. -/
def opClamp : ElemOp := fun x p a c d =>
  mark2 a c <|
    if x.fmt.isInt then
      let b := intBounds x.fmt.unsigned x.fmt.bits
      let lo := if x.fmt.unsigned then 0 else min (-(x.int c)) b.2
      intOp (fun a c _ => min (max a lo) c) x a c d
    else floatOp (fun _ a c _ => pickNum (fun a c => (a.most c.neg).least c) a c) x p a c d

/-- VABS: a float keeps its exact bits but the sign (R133). -/
def opAbs : ElemOp := fun x _ a c d =>
  mark2 a c <|
    if x.fmt.isInt then intOp (fun a _ _ => a.natAbs) x a c d else (a.bits % 2 ^ (x.fmt.bits - 1), 0)

/-- VNEG: a float has its sign bit flipped. -/
def opNeg : ElemOp := fun x _ a c d =>
  mark2 a c <|
    if x.fmt.isInt then intOp (fun a _ _ => -a) x a c d
    else (Nat.xor (a.bits % 2 ^ x.fmt.bits) (2 ^ (x.fmt.bits - 1)), 0)

/-- VMULH: the high half of the product, whatever SAT says. -/
def opMulh : ElemOp := fun x _ a c _ =>
  mark2 a c (((x.int a * x.int c / 2 ^ x.fmt.bits) % 2 ^ x.fmt.bits).toNat, 0)

def opShl : ElemOp := fun x _ a c _ => mark2 a c (a.bits * 2 ^ (c.bits % x.fmt.bits) % 2 ^ x.fmt.bits, 0)
def opShr : ElemOp := fun x _ a c _ => mark2 a c (a.bits / 2 ^ (c.bits % x.fmt.bits), 0)
/-- VSRA (R135). DESIGN CHOICE (log entry 64): a UINT8 element, which has no sign, is filled with its top bit. -/
def opSra : ElemOp := fun x _ a c _ =>
  mark2 a c ((intValue false x.fmt.bits a.bits / 2 ^ (c.bits % x.fmt.bits) % 2 ^ x.fmt.bits).toNat, 0)
def opAnd : ElemOp := fun _ _ a c _ => mark2 a c (Nat.land a.bits c.bits, 0)
def opOr : ElemOp := fun _ _ a c _ => mark2 a c (Nat.lor a.bits c.bits, 0)
def opXor : ElemOp := fun _ _ a c _ => mark2 a c (Nat.xor a.bits c.bits, 0)
def opNot : ElemOp := fun x _ a _ _ => (⟨2 ^ x.fmt.bits - 1 - a.bits % 2 ^ x.fmt.bits, a.bad⟩, 0)
def opMov : ElemOp := fun _ _ a _ _ => (a, 0)

/-- VSEL: the selector mask chooses S1 or S2; selector 0 chooses S1 everywhere. -/
def opSel (k : Fin 8) (m : BitVec 4096) : ElemOp := fun _ p a c _ => (if maskOn k m p then a else c, 0)

/-! ### Major 0x00: dispatch and issue -/

def dispatchVadd (v : VWord) (x : Env) : Dispatch := elementwise specN true opAdd v x
def execVadd (v : VWord) (s : State) : Out := s.issueV (.vadd v) v

def dispatchVsub (v : VWord) (x : Env) : Dispatch := elementwise specN true opSub v x
def execVsub (v : VWord) (s : State) : Out := s.issueV (.vsub v) v

def dispatchVmul (v : VWord) (x : Env) : Dispatch := elementwise specMul true opMul v x
def execVmul (v : VWord) (s : State) : Out := s.issueV (.vmul v) v

def dispatchVfma (v : VWord) (x : Env) : Dispatch := elementwise specFma true opFma v x
def execVfma (v : VWord) (s : State) : Out := s.issueV (.vfma v) v

def dispatchVfms (v : VWord) (x : Env) : Dispatch := elementwise specFma true opFms v x
def execVfms (v : VWord) (s : State) : Out := s.issueV (.vfms v) v

def dispatchVfnma (v : VWord) (x : Env) : Dispatch := elementwise specFma true opFnma v x
def execVfnma (v : VWord) (s : State) : Out := s.issueV (.vfnma v) v

def dispatchVmin (v : VWord) (x : Env) : Dispatch := elementwise specN true opMin v x
def execVmin (v : VWord) (s : State) : Out := s.issueV (.vmin v) v

def dispatchVmax (v : VWord) (x : Env) : Dispatch := elementwise specN true opMax v x
def execVmax (v : VWord) (s : State) : Out := s.issueV (.vmax v) v

def dispatchVabs (v : VWord) (x : Env) : Dispatch := elementwise specN false opAbs v x
def execVabs (v : VWord) (s : State) : Out := s.issueV (.vabs v) v

def dispatchVneg (v : VWord) (x : Env) : Dispatch := elementwise specN false opNeg v x
def execVneg (v : VWord) (s : State) : Out := s.issueV (.vneg v) v

def dispatchVaddsub (v : VWord) (x : Env) : Dispatch := elementwise specFma true opAddsub v x
def execVaddsub (v : VWord) (s : State) : Out := s.issueV (.vaddsub v) v

def dispatchVavg (v : VWord) (x : Env) : Dispatch := elementwise specAvg true opAvg v x
def execVavg (v : VWord) (s : State) : Out := s.issueV (.vavg v) v

def dispatchVmulh (v : VWord) (x : Env) : Dispatch := elementwise specMulh true opMulh v x
def execVmulh (v : VWord) (s : State) : Out := s.issueV (.vmulh v) v

def dispatchVshl (v : VWord) (x : Env) : Dispatch := elementwise specShift true opShl v x
def execVshl (v : VWord) (s : State) : Out := s.issueV (.vshl v) v

def dispatchVshr (v : VWord) (x : Env) : Dispatch := elementwise specShift true opShr v x
def execVshr (v : VWord) (s : State) : Out := s.issueV (.vshr v) v

def dispatchVsra (v : VWord) (x : Env) : Dispatch := elementwise specShift true opSra v x
def execVsra (v : VWord) (s : State) : Out := s.issueV (.vsra v) v

def dispatchVand (v : VWord) (x : Env) : Dispatch := elementwise specBits true opAnd v x
def execVand (v : VWord) (s : State) : Out := s.issueV (.vand v) v

def dispatchVor (v : VWord) (x : Env) : Dispatch := elementwise specBits true opOr v x
def execVor (v : VWord) (s : State) : Out := s.issueV (.vor v) v

def dispatchVxor (v : VWord) (x : Env) : Dispatch := elementwise specBits true opXor v x
def execVxor (v : VWord) (s : State) : Out := s.issueV (.vxor v) v

def dispatchVnot (v : VWord) (x : Env) : Dispatch := elementwise specBits false opNot v x
def execVnot (v : VWord) (s : State) : Out := s.issueV (.vnot v) v

def dispatchVmov (v : VWord) (x : Env) : Dispatch := elementwise specBits false opMov v x
def execVmov (v : VWord) (s : State) : Out := s.issueV (.vmov v) v

def dispatchVclamp (v : VWord) (x : Env) : Dispatch := elementwise specN true opClamp v x
def execVclamp (v : VWord) (s : State) : Out := s.issueV (.vclamp v) v

def dispatchVabsd (v : VWord) (x : Env) : Dispatch := elementwise specN true opAbsd v x
def execVabsd (v : VWord) (s : State) : Out := s.issueV (.vabsd v) v

/-- The selector of VSEL: XFN 2:0. -/
def selectorOf (v : VWord) : Fin 8 := Fin.ofNat 8 (bitsOf v.xfn 0 3)

def specSel (v : VWord) : VSpec := { specBits with selector := selectorOf v }

def dispatchVsel (v : VWord) (x : Env) : Dispatch :=
  elementwise (specSel v) true (opSel (selectorOf v) (x.c.maskOf (selectorOf v))) v x
def execVsel (v : VWord) (s : State) : Out := s.issueV (.vsel v) v

/-! ### Compares (R136, R137) -/

/-- A relation over two elements: whether it holds, and the flags. -/
abbrev CmpOp := Ctx → Elem → Elem → Bool × VFlags

/-- A compare of class N: a NaN makes the relation false but for NE, and a signalling one sets NV. -/
def relation (ne : Bool) (r : Ordering → Bool) : CmpOp := fun x a c =>
  if x.fmt.isInt then (r (compare (x.int a) (x.int c)), 0)
  else
    let m := x.val a
    let n := x.val c
    if m.isNaN || n.isNaN then (ne, flagIf (m = .nan true || n = .nan true) flagNV) else (r (m.cmp n), 0)

def relEq : CmpOp := relation false (· = .eq)
def relNe : CmpOp := relation true (· ≠ .eq)
def relLt : CmpOp := relation false (· = .lt)
def relLe : CmpOp := relation false (· ≠ .gt)
def relGt : CmpOp := relation false (· = .gt)
def relGe : CmpOp := relation false (· ≠ .lt)

/-- The class bit of a float element (R137); subnormals are seen in both modes. -/
def classBit (l : FloatFmt) (bits : Nat) : Nat :=
  let neg := bits / l.sign % 2 = 1
  let mag := bits % l.sign
  match l.decode bits with
  | .inf s => if s then 0 else 7
  | .nan s => if s then 8 else 9
  | .fin _ m _ =>
    if m = 0 then (if neg then 3 else 4)
    else if mag / 2 ^ l.fbits = 0 then (if neg then 2 else 5)
    else if neg then 1 else 6

/-- VCLASS: the element's class lies in the set. -/
def relClass (set : Nat) : CmpOp := fun x a _ =>
  match x.fmt.float with
  | some l => (set / 2 ^ classBit l a.bits % 2 = 1, 0)
  | none => (false, 0)

/-- A compare as an elementwise operation: all ones where it holds. -/
def cmpElem (r : CmpOp) : ElemOp := fun x _ a c _ =>
  let t := r x a c
  mark2 a c (if t.1 then 2 ^ x.fmt.bits - 1 else 0, t.2)

/-- The mask from the elements of a result, bit p for element p. -/
def maskFrom : Nat → List Elem → Nat
  | _, [] => 0
  | p, a :: as => (if a.bits = 0 then 0 else 2 ^ p) + maskFrom (p + 1) as

/-- A compare (R136): to a view or the ring elementwise; to a mask, whose bits from rows × e on are cleared, with the ring
entry of R22. A result from marked data leaves the mask and raises poison (R356). -/
def compareDispatch (sp : VSpec) (two : Bool) (r : CmpOp) (v : VWord) (x : Env) : Dispatch :=
  match v.d with
  | .special n =>
    let k : Fin 8 := Fin.ofNat 8 n.val
    let p := sp.plan two v x.q
    let f := p.fmt
    let ones := 2 ^ f.bits - 1
    let old := x.c.masks[k]
    let s1 := x.c.sourceTile x.q f (.op v.s1) p.rows p.e
    let s2 := if two then x.c.sourceTile x.q f v.s2 p.rows p.e else constTile p.rows p.e Elem.zero
    let d := (List.range p.rows).map fun i => (List.range p.e).map fun j =>
      (⟨if old.getLsbD (i * p.e + j) then ones else 0, false⟩ : Elem)
    let t := mapTile (predicated v (x.c.maskOf v.pm) (cmpElem r (x.ctx f v.mod))) p.e 0 s1 s2 d
    let es := allElems t
    let land : Eff := if es.any (·.any (·.bad)) then .poison (Config.poisonAddr x.q.seq)
      else .mask k (BitVec.ofNat 4096 (maskFrom 0 es.flatten))
    p.run x.q ([land] ++ x.results v.d p.dst (es.toBytes f.bits) (allFlags t))
  | _ => elementwise sp two (cmpElem r) v x

def specClass : VSpec := { specN with cls := classF }

def dispatchVcmpeq (v : VWord) (x : Env) : Dispatch := compareDispatch specN true relEq v x
def execVcmpeq (v : VWord) (s : State) : Out := s.issueV (.vcmpeq v) v

def dispatchVcmpne (v : VWord) (x : Env) : Dispatch := compareDispatch specN true relNe v x
def execVcmpne (v : VWord) (s : State) : Out := s.issueV (.vcmpne v) v

def dispatchVcmplt (v : VWord) (x : Env) : Dispatch := compareDispatch specN true relLt v x
def execVcmplt (v : VWord) (s : State) : Out := s.issueV (.vcmplt v) v

def dispatchVcmple (v : VWord) (x : Env) : Dispatch := compareDispatch specN true relLe v x
def execVcmple (v : VWord) (s : State) : Out := s.issueV (.vcmple v) v

def dispatchVcmpgt (v : VWord) (x : Env) : Dispatch := compareDispatch specN true relGt v x
def execVcmpgt (v : VWord) (s : State) : Out := s.issueV (.vcmpgt v) v

def dispatchVcmpge (v : VWord) (x : Env) : Dispatch := compareDispatch specN true relGe v x
def execVcmpge (v : VWord) (s : State) : Out := s.issueV (.vcmpge v) v

def dispatchVclass (v : VWord) (x : Env) : Dispatch := compareDispatch specClass false (relClass (bitsOf v.xfn 0 10)) v x
def execVclass (v : VWord) (s : State) : Out := s.issueV (.vclass v) v

end Sys2Proof.Machine
end

