-- ==== Sys2Proof/Machine/Fabric.lean ====
section
/-! DEFINITION. The crossbars, the links between dies and the memory ports (R296, R298, R317, R340–R344), the links toward other
modules (R300, R301, R348–R352), and what a write does at its port (R165, R231). -/

namespace Sys2Proof.Machine

/-! ### Where a write leaves a die (R340) -/

/-- A Biryar port carries flits: UP of its status (R352). -/
def State.portUp (s : State) (p : Fin 16) : Bool := bitOf (s.ports[p]).status 0

/-- Traffic with a module. -/
def State.linkTo (s : State) (m : Nat) : Option PeerLink := s.links.find? (·.module = m)

/-- One module's link changed. -/
def State.modLink (s : State) (m : Nat) (f : PeerLink → PeerLink) : State :=
  { s with links := s.links.map fun l => if l.module = m then f l else l }

/-- The paths toward a module that are up, in order of preference: the port is up, and so is the way beyond it (R350). -/
def State.livePaths (s : State) (m : Nat) : List PeerPath :=
  match s.linkTo m with
  | some l => l.paths.filter fun p => s.portUp p.port && !p.down
  | none => []

/-- The port of the first path that is up toward a module (R350). -/
def State.pathPort (s : State) (m : Nat) : Option (Fin 16) := (s.livePaths m).head?.map (·.port)

/-- The path of a packet toward a module is up. -/
def State.pathUp (s : State) (m : Nat) (port : Fin 16) (via : List Nat) : Bool :=
  (s.livePaths m).any fun p => p.port = port && p.via = via

/-- The weight-store port of a bank group: 56 for groups 0–15, 57 for the others. DESIGN CHOICE (log entry 106). -/
def weightPort (g : Nat) : Port := Fin.ofNat 64 (56 + g / 16 % 2)

/-- The die and the port at which a packet for a memory leaves the crossbars: a core's port, a slice, the hub port, a weight-store
port, or a Biryar port; none where every path to a module is down. -/
def State.exitPort (s : State) (src : DieId) (sp : Space) (a : Nat) : Option (DieId × Port) :=
  match sp with
  | .plate g => some (dieOf g, Fin.ofNat 64 (localOf g).val)
  | .hbm => some (hbmHome a, Fin.ofNat 64 (32 + (hbmSlice a).val))
  | .tier2 | .host => some (src, Fin.ofNat 64 (48 + src.val))
  | .wstore d => some (d, weightPort (a / 2 ^ 25))
  | .peer m => (s.pathPort m).map fun p => (Fin.ofNat 4 (p.val / 4), Fin.ofNat 64 (52 + p.val % 4))

/-- The address whose bits give the lane of R343. -/
def laneOf (sp : Space) (a : Nat) : Nat :=
  let a := match sp with | .plate g => 0x7F0000000000 + g.val * plateSize + a | _ => a
  Nat.xor (Nat.xor (a / 64 % 8) (a / 512 % 8)) (Nat.xor (a / 4096 % 8) (a / 32768 % 8))

/-- The beats of a packet of `n` bytes: its header and its data (R341). -/
def beatsOf (n : Nat) : Nat := 1 + (n + 255) / 256

/-! ### Arbitration (R317, R342) -/

/-- The owner of the slot-table entry in force at a die cycle. -/
def OutPort.owner (o : OutPort) (d : Nat) : Option Nat :=
  let b := o.slots[Fin.ofNat 64 (d / 8)]
  if bitOf b 7 then some (bitsOf b 0 3) else none

/-- A port with a slot table: memory slices, Biryar ports, weight-store ports (R317). -/
def hasTable (o : Port) : Bool := (32 ≤ o.val && o.val < 48) || 52 ≤ o.val

/-- Die cycles until the next entry that another tenant than `t` owns begins; none where no other tenant owns one. -/
def OutPort.room (o : OutPort) (t d : Nat) : Option Nat :=
  let k := (List.range 64).find? fun k => match o.owner (8 * (d / 8 + k + 1)) with | some u => u ≠ t | none => false
  k.map fun k => 8 * (d / 8 + k + 1) - d

/-- A tenant's packet that takes `n` die cycles ends within the entry in force (R317). One of more than eight fits no entry, and goes where it
delays no other owner: log entry 18. -/
def OutPort.fits (o : OutPort) (d t n : Nat) : Bool := if n ≤ 8 then n ≤ 8 - d % 8 else (o.room t d).all (n ≤ ·)

/-- A tenant's packet of `n` die cycles may be granted at a die cycle as R317 says: the owner's first, another's where it ends in time. -/
def OutPort.mayGo (o : OutPort) (table : Bool) (d : Nat) (ownerWaits : Bool) (t n : Nat) : Bool :=
  !table || match o.owner d with
    | some u => if ownerWaits then t = u else o.fits d t n
    | none => o.fits d t n

/-- The engine whose traffic a packet is: the sequencer, LD, ST, CP. -/
def packetEngine (p : Packet) : Nat :=
  match p.msg.of_, p.msg.ops with
  | .scalar _, _ => 0
  | .tile _, .read _ _ _ _ :: _ | .index _, _ => 1
  | .tile _, _ => 2
  | .copy _, _ => 3
  | .inbound _, _ => 4
  | .outside, _ => 5

/-- Two packets touch one line. -/
def packetsMeet (a b : Packet) : Bool :=
  a.sp = b.sp && a.addr / 64 ≤ (b.addr + b.bytes - 1) / 64 && b.addr / 64 ≤ (a.addr + a.bytes - 1) / 64

/-- A packet may not pass an earlier one from its port: they are on one lane to one port (R296, R343), or one engine's accesses to a
common line (R228). -/
def packetBehind (b a : Packet) : Bool :=
  a.msg.src = b.msg.src && (packetEngine a = 4) = (packetEngine b = 4) &&
    ((a.dstDie = b.dstDie && a.dstPort = b.dstPort && a.lane = b.lane) || (packetEngine a = packetEngine b && packetsMeet a b))

/-- The packets of a list that need not stay behind an earlier one of it or one of `seen`. -/
def unblocked (seen : List Packet) : List Packet → List Packet
  | [] => []
  | p :: ps => if seen.any (packetBehind p) then unblocked (p :: seen) ps else p :: unblocked (p :: seen) ps

/-- The packet that an output grants (R317, R342): of those that may go, one of the input granted least recently. Which of an input's packets
on different lanes goes is a choice (R343). `hold` is how long a packet holds the output. -/
def OutPort.pick (o : OutPort) (table : Bool) (d n : Nat) (ready : Packet → Bool) (hold : Packet → Nat) : Option Packet :=
  let offers (i : Port) : List Packet := (unblocked [] (o.waiting.filter (·.inPort = i))).filter ready
  let ownerWaits := match o.owner d with | some t => o.order.any fun i => (offers i).any (·.tenant = t) | none => false
  o.order.findSome? fun i =>
    let ps := (offers i).filter fun p => o.mayGo table d ownerWaits p.tenant (hold p)
    ps[n % ps.length]?

/-- The port after a grant: the input is the most recently granted, and the packet holds the output for `n` die cycles. -/
def OutPort.grant (o : OutPort) (d n : Nat) (p : Packet) : OutPort :=
  { o with order := o.order.filter (· ≠ p.inPort) ++ [p.inPort], freeAt := d + n, waiting := o.waiting.erase p }

/-- Bytes per die cycle of a Biryar port: 140, on four lanes 70 (R348, R349). -/
def State.linkRate (s : State) (port : Fin 16) : Nat := if bitOf (s.ports[port]).status 1 then 70 else 140

/-- The die cycles for which a packet holds an output and its input: its beats, at a Biryar port its bytes at the rate of the link (R340, R348). -/
def State.holdOf (s : State) (d : DieId) (o : Port) (p : Packet) : Nat :=
  if p.dstDie = d && 52 ≤ o.val && o.val < 56 then
    let r := s.linkRate (Fin.ofNat 16 (4 * d.val + o.val % 4))
    max p.beats (((if p.beats = 1 then 0 else p.bytes) + r - 1) / r)
  else p.beats

/-- One output of a die changed. -/
def State.modOut (s : State) (d : DieId) (o : Port) (f : OutPort → OutPort) : State :=
  s.modDie d fun x => { x with outs := x.outs.set o (f x.outs[o]) }

/-- A packet joins those that wait for an output, which it is granted no sooner than the output is free. -/
def State.request (s : State) (d : DieId) (p : Packet) : State :=
  let s := s.modOut d p.outPort fun o => { o with waiting := o.waiting ++ [p] }
  s.schedule ((s.die d).outs[p.outPort].freeAt - (s.die d).dclk) (.crossbarGrant d p.outPort)

/-- A packet reaches the unit at an output at a die cycle, no sooner than those before it, and stands in its buffer until it is
served. -/
def State.deliver (s : State) (d : DieId) (o : Port) (at_ : Nat) (p : Packet) : State :=
  let x := (s.die d).outs[o]
  let t := max at_ x.lastOut
  let s := s.modOut d o fun x => { x with lastOut := t, buffer := x.buffer ++ [(t, p)] }
  if x.buffer.isEmpty then s.schedule (t - (s.die d).dclk) (.memoryPortArrival d o) else s

/-! ### Sending -/

/-- Pieces of at most 2,048 bytes that cross no 2,048-byte boundary (R341). -/
def packetPieces : (fuel : Nat) → Nat → Nat → List (Nat × Nat)
  | 0, _, _ => []
  | f + 1, a, n =>
    let k := min n (2048 - a % 2048)
    if n = 0 then [] else (a, k) :: packetPieces f (a + k) (n - k)

/-- The space of an operation and the address it begins at. -/
def opPlace : PortOp → Option (Space × Nat)
  | .bytes sp cells _ => some (sp, (cells.head?.map (·.1)).getD 0)
  | .accum sp a _ _ _ _ => some (sp, a)
  | .atom sp a _ _ _ _ _ => some (sp, a)
  | .read sp a _ _ => some (sp, a)
  | .back | .cast _ _ => none

/-- A packet that enters a die by a port toward the memory at (sp, a), for `n` bytes there, a read being its header only (R341); none where no
path leads there. -/
def State.packetFrom (s : State) (die : DieId) (inPort : Port) (tenant : Nat) (sp : Space) (a n : Nat) (isRead : Bool) (w : PortWrite) :
    Option Packet :=
  (s.exitPort die sp a).map fun e =>
    { num := s.nextPacket, inPort, outPort := if e.1 = die then e.2 else Fin.ofNat 64 (48 + e.1.val),
      beats := if isRead then 1 else beatsOf n, dstDie := e.1, dstPort := e.2, sp, addr := a, bytes := n, lane := laneOf sp a, tenant, msg := w }

/-- A packet that a core sends. -/
def State.packetFor (s : State) (c : CoreId) (sp : Space) (a n : Nat) (isRead : Bool) (w : PortWrite) : Option Packet :=
  s.packetFrom (dieOf c) (Fin.ofNat 64 (localOf c).val) (s.core c).tenant.val sp a n isRead w

/-- A packet leaves its core. -/
def State.post (s : State) (p : Packet) : State :=
  { s with nextPacket := s.nextPacket + 1 }.request (dieOf p.msg.src) p

/-- The die and the port that a packet has come from: its core's, or the Biryar port by which it has entered this module. -/
def State.originOf (s : State) (p : Packet) : DieId × Port :=
  match p.msg.of_ with
  | .inbound id =>
    match s.inbound.find? (·.id = id) with
    | some x => (Fin.ofNat 4 (x.port.val / 4), Fin.ofNat 64 (52 + x.port.val % 4))
    | none => (dieOf p.msg.src, Fin.ofNat 64 (localOf p.msg.src).val)
  | _ => (dieOf p.msg.src, Fin.ofNat 64 (localOf p.msg.src).val)

/-- The data of a read goes back from the port that has served it; from the weight store of the core's own die at 512 bytes per die cycle,
beside the crossbar (log entry 76). -/
def State.sendBack (s : State) (d : DieId) (o : Port) (p : Packet) : State :=
  let e := s.originOf p
  let q : Packet :=
    { p with inPort := o, outPort := if e.1 = d then e.2 else Fin.ofNat 64 (48 + e.1.val), beats := beatsOf p.bytes, dstDie := e.1,
             dstPort := e.2, msg := { p.msg with ops := [.back] }, notBefore := 0, met := false }
  if p.sp = .wstore e.1 then s.deliver e.1 e.2 ((s.die d).dclk + (p.bytes + 511) / 512) q else s.request d q

/-! ### At a memory port (R165, R231, R298) -/

/-- The arithmetic of a memory port: one rounding, to nearest even, subnormals honoured, integers wrapping (R164). -/
def portCtx (f : Fmt) : Ctx :=
  { fmt := f, mode := .rne, sat := false, flush := false, key := { seed := 0, x30 := 0, eng := 0, dsc := 0 } }

/-- Operation 0 ADD, 1 MAX, 2 MIN, 3 AND, 4 OR, 5 XOR of CPYA. -/
def accumOp (op : Nat) : ElemOp :=
  match op with
  | 0 => opAdd | 1 => opMax | 2 => opMin | 3 => opAnd | 4 => opOr | _ => opXor

/-- dest op src. -/
def accumBits (f : Fmt) (op old v : Nat) : Nat := (accumOp op (portCtx f) 0 ⟨old, false⟩ ⟨v, false⟩ ⟨0, false⟩).1.bits

/-- The element after CATOM: 0 FADD, 1 SWAP, 2 CAS. -/
def atomBits (f : Fmt) (op old v w : Nat) : Nat :=
  match op with
  | 0 => accumBits f 0 old v
  | 1 => v
  | _ => if old = w then v else old

/-- An element read, changed and written in one operation; the old value. -/
def State.combine (s : State) (sp : Space) (a : Nat) (f : BitVec 5) (marked : Bool) (g : Fmt → Nat → Nat) : State × Nat :=
  match fmtOf f.toNat with
  | none => (s, 0)
  | some f =>
    let old := bytesNat (s.readSpace sp a f.size)
    (s.writeSpace sp (cellsFrom a (natBytes f.size (g f old))) (marked || s.markedAt sp a f.size), old)

/-- The copy that a packet belongs to. -/
def carrierCopy : Carrier → Option Nat
  | .copy id => some id
  | _ => none

/-- A read-modify-write of a packet: what the element carried it carries on, and the packet's release with it (R295). -/
def State.combineFor (s : State) (w : PortWrite) (sp : Space) (a : Nat) (f : BitVec 5) (marked : Bool) (g : Fmt → Nat → Nat) :
    State × Nat :=
  let n := ((fmtOf f.toNat).map Fmt.size).getD 0
  let r := s.combine sp a f marked g
  let t := (s.heardAt sp a n).foldl (fun (t : State) p => t.setFlags sp a n p.1 [p.2]) r.1
  (t.setFlags sp a n w.src w.rels, r.2)

/-- One writing operation arrives at its memory port. What lies behind a failed root port takes no effect (R266). -/
def State.portOp (s : State) (w : PortWrite) (o : PortOp) : State :=
  match o with
  | .bytes sp cells marked => s.storeCells w.src (carrierCopy w.of_) w.known w.rels sp cells marked
  | .accum sp a f op v m =>
    if s.tier2Down sp a then s
    else (s.combineFor w sp a f m fun f old => accumBits f op.toNat old v.toNat).1
  | .atom sp a f op v x m =>
    if s.tier2Down sp a then s
    else
      let r := s.combineFor w sp a f m fun f old => atomBits f op.toNat old v.toNat x.toNat
      let bad := s.markedAt sp a 1
      match (carrierCopy w.of_) with
      | some id =>
        r.1.modCore w.src fun c => c.modCopy id fun k =>
          { k with data := BitVec.ofNat 64 r.2, oldBad := bad, status := if bad && k.status = 0 then 4 else k.status }
      | none => r.1
  | _ => s

/-- An operation meets a failed root port. -/
def State.opDown (s : State) (o : PortOp) : Bool :=
  match o with
  | .bytes sp cells _ => cells.any fun p => s.tier2Down sp p.1
  | .accum sp a _ _ _ _ | .atom sp a _ _ _ _ _ | .read sp a _ _ => s.tier2Down sp a
  | .back | .cast _ _ => false

/-! ### Toward another module (R300, R301, R350, R351) -/

/-- The module that a packet is for. -/
def packetModule (p : Packet) : Option Nat :=
  match p.sp, p.msg.ops with
  | .peer m, o :: _ => match o with | .back => none | _ => some m
  | _, _ => none

/-- Fewer than 4,096 packets of this module are unacknowledged there (R300). -/
def State.linkRoom (s : State) (m : Nat) : Bool :=
  match s.linkTo m with
  | some l => l.unacked.length + l.held.length < 4096
  | none => true

/-- The die cycles of an idle path for `n` bytes: at the rate of the link, and 320 more for each module that relays (R351). -/
def peerTransit (rate relays n : Nat) : Nat := 960 + (n + rate - 1) / rate + 320 * relays

/-- The first path toward a module that is up and leaves by a port, or else the first that is up. -/
def State.pathFor (s : State) (m : Nat) (port : Fin 16) (via : List Nat) : Option (Fin 16 × List Nat) :=
  if s.pathUp m port via then some (port, via)
  else (((s.livePaths m).find? (·.port = port)).or (s.livePaths m).head?).map fun p => (p.port, p.via)

/-! ### Flits (R348) -/

/-- One bit step of the CRC-32 of a flit, most significant bit first: polynomial 0x04C1_1DB7. Log entry 19. -/
def crc32Bit (c : BitVec 32) : BitVec 32 := if bitOf c 31 then (c <<< 1) ^^^ 0x04C11DB7#32 else c <<< 1

/-- One byte fed to it. -/
def crc32Byte (c : BitVec 32) (b : Byte) : BitVec 32 :=
  crc32Bit (crc32Bit (crc32Bit (crc32Bit (crc32Bit (crc32Bit (crc32Bit (crc32Bit (c ^^^ (b.setWidth 32 <<< 24)))))))))

/-- Bytes 0–251 of a flit. -/
def flitBytes (f : Flit) : List Byte :=
  natBytes 2 f.lseq.toNat ++ natBytes 2 f.kind.toNat ++ natBytes 1 f.srcMod.toNat ++ natBytes 1 f.dstMod.toNat
    ++ natBytes 4 f.pairSeq.toNat ++ natBytes 1 f.beat.toNat ++ natBytes 1 f.last.toNat
    ++ (f.payload ++ List.replicate 240 0).take 240

/-- The CRC of a flit. -/
def flitCrc (f : Flit) : BitVec 32 := ~~~((flitBytes f).foldl crc32Byte 0xFFFFFFFF#32)

def State.modPort (s : State) (p : Fin 16) (f : BiryarPort → BiryarPort) : State :=
  { s with ports := s.ports.set p (f s.ports[p]) }

/-- The bytes that an operation carries. -/
def opPayload : PortOp → List Byte
  | .bytes _ cells _ => cells.map (·.2)
  | .accum _ _ f _ v _ => natBytes (((fmtOf f.toNat).map Fmt.size).getD 0) v.toNat
  | .atom _ _ f _ v w _ => natBytes (((fmtOf f.toNat).map Fmt.size).getD 0) v.toNat ++ natBytes (((fmtOf f.toNat).map Fmt.size).getD 0) w.toNat
  | .read _ _ _ _ | .back | .cast _ _ => []

/-- An operation carries marked data. -/
def opMarked : PortOp → Bool
  | .bytes _ _ m | .accum _ _ _ _ _ m | .atom _ _ _ _ _ _ m => m
  | _ => false

/-- The flits of a packet of some payload, from a link sequence number on. DESIGN CHOICE (log entry 20): the mark of the packet's data is bit
1 of the last flag (R356). -/
def flitsFor (src dst : Nat) (pairSeq : Nat) (marked : Bool) (total : Nat) (lseq : BitVec 16) : (beats : Nat) → Nat → List Byte → List Flit
  | 0, _, _ => []
  | n + 1, beat, bytes =>
    let flag : BitVec 8 := (if beat + 1 = total then 1 else 0) + if marked then 2 else 0
    let f : Flit := { lseq, kind := 0, srcMod := BitVec.ofNat 8 src, dstMod := BitVec.ofNat 8 dst, pairSeq := BitVec.ofNat 32 pairSeq,
                      beat := BitVec.ofNat 8 beat, last := flag, payload := bytes.take 240, crc := 0 }
    { f with crc := flitCrc f } :: flitsFor src dst pairSeq marked total (lseq + 1) n (beat + 1) (bytes.drop 240)

/-- Flits leave by a port, which keeps its last 64 unacknowledged ones, and goes down where none is acknowledged for 20 µs (R349). -/
def State.pushFlits (s : State) (port : Fin 16) (fs : List Flit) : State :=
  let idle := (s.ports[port]).unacked.isEmpty
  let s := s.modPort port fun p =>
    let all := p.unacked ++ fs
    { p with txSeq := p.txSeq + BitVec.ofNat 16 fs.length, unacked := all.drop (all.length - 64), lastAck := if idle then s.time else p.lastAck }
  if idle then s.schedule 32000 (.portDown port) else s

/-- A packet's flits leave by a port. -/
def State.sendFlits (s : State) (port : Fin 16) (m pairSeq : Nat) (marked : Bool) (bytes : List Byte) : State :=
  let n := max 1 ((bytes.length + 239) / 240)
  s.pushFlits port (flitsFor s.hub.moduleNo m pairSeq marked n (s.ports[port]).txSeq n 0 bytes)

/-- The bytes that a packet toward a module carries, and whether they are marked. -/
def PeerPacket.payload (p : PeerPacket) : List Byte × Bool :=
  match p.red with
  | some r => (r.tile, r.marked)
  | none => (p.ops.flatMap opPayload, p.ops.any opMarked)

/-- A packet toward a module leaves by its path, or again by another (R350): its flits go out, and its acknowledgement comes no sooner than
R351 allows. -/
def State.launchPacket (s : State) (m : Nat) (p : PeerPacket) (delay n : Nat) : State :=
  let x := p.payload
  (s.chosen.sendFlits p.port m p.pairSeq x.2 x.1).schedule (delay + peerTransit (s.linkRate p.port) p.via.length n + s.choice)
    (.endToEndAck m p.pairSeq)

/-- A packet toward a module enters its path and is kept until its end-to-end acknowledgement: `p` names its path, and what it
does. -/
def State.enterPath (s : State) (m : Nat) (p : PeerPacket) (delay n : Nat) : State :=
  match s.linkTo m with
  | none => s
  | some l =>
    let r := (s.pathFor m p.port p.via).getD (p.port, p.via)
    let p := { p with port := r.1, via := r.2, pairSeq := l.nextSeq }
    (s.modLink m fun l => { l with nextSeq := (l.nextSeq + 1) % 2 ^ 32, unacked := l.unacked ++ [p] }).launchPacket m p delay n

/-- A packet toward a module leaves, or waits while 4,096 are unacknowledged there (R300). -/
def State.sendPeer (s : State) (m : Nat) (p : PeerPacket) (delay n : Nat) : State :=
  if s.linkRoom m then s.enterPath m p delay n else s.modLink m fun l => { l with held := l.held ++ [(p, delay, n)] }

/-- A packet toward a module is no longer unacknowledged, its flits are kept no longer, and the first that waits for its place leaves. -/
def State.acked (s : State) (m seq : Nat) : State :=
  let mine (f : Flit) : Bool := f.kind = 0 && f.dstMod = BitVec.ofNat 8 m && f.pairSeq = BitVec.ofNat 32 seq
  let port (p : BiryarPort) : BiryarPort :=
    if p.unacked.any mine then { p with unacked := p.unacked.filter fun f => !mine f, lastAck := s.time } else p
  let s := { s with ports := s.ports.map port }.modLink m fun l => { l with unacked := l.unacked.filter (·.pairSeq ≠ seq) }
  match (s.linkTo m).bind (·.held.head?) with
  | some p => (s.modLink m fun l => { l with held := l.held.tail }).enterPath m p.1 p.2.1 p.2.2
  | none => s

end Sys2Proof.Machine
end

