-- ==== Sys2Proof/Machine/ScalarMem.lean ====
section
/-! DEFINITION. Scalar loads and stores, S majors 0x0B–0x15 (R83, R91–R96). -/

namespace Sys2Proof.Machine

/-- Where an effective address leads (R92). -/
inductive Target
  | localPlate (off : Nat)
  | mapped (l : Leaf) (loc : Option Loc)
  | unmapped
deriving DecidableEq, Repr

/-- The effective address of a scalar access (R91). -/
def effAddr (c : Core) (a : Reg) (imm : BitVec 14) : Word := c.readX a + imm.signExtend 64

/-- The classification of R92. -/
def State.target (s : State) (ea : Word) : Target :=
  if ea.toNat < plateSize then .localPlate ea.toNat
  else
    match s.translate s.cur ea.toNat with
    | some l => .mapped l (l.loc ea.toNat)
    | none => .unmapped

/-- A place that a scalar access may reach: PLATE, HBM, TIER2, and WSTORE for loads. -/
def scalarReach (load : Bool) : Option Loc → Bool
  | some ⟨.plate _, _⟩ | some ⟨.hbm, _⟩ | some ⟨.tier2, _⟩ => true
  | some ⟨.wstore _, _⟩ => load
  | _ => false

/-- The checks of R93, in their order. -/
def scalarFault (load : Bool) (size : Nat) (ea : Word) (s : State) : Option (Cause × Word) :=
  if ea.toNat % size ≠ 0 then some (.misaligned, ea)
  else if ea.toNat ≥ 2 ^ 48 then some (.accessFault, ea)
  else
    match s.target ea with
    | .localPlate off => if !s.cpu.trapMode && off ≥ trapWindow then some (.platePrivilege, ea) else none
    | .unmapped => some (.accessFault, ea)
    | .mapped l loc =>
      match loc with
      | some ⟨.plate g, off⟩ =>
        if off ≥ trapWindow then some (.platePrivilege, ea)
        else if !l.allows (if load then .read else .write) then some (.accessFault, ea)
        else if !s.mates s.cur g then some (.groupViolation, ea)
        else none
      | loc => if !scalarReach load loc || !l.allows (if load then .read else .write) then some (.accessFault, ea) else none

/-- The declared latency of a global access (R83). -/
def globalLatency : Space → Nat
  | .tier2 => 3201
  | _ => 640

/-- The packet of a global access leaves: a read, or a write of its bytes. -/
def State.postAccess (s : State) (g : GlobalAccess) : State :=
  let op : PortOp := if g.isLoad then .read g.loc.sp g.loc.addr g.size false else .bytes g.loc.sp (cellsFrom g.loc.addr g.data) false
  match s.packetFor s.cur g.loc.sp g.loc.addr g.size g.isLoad { src := s.cur, of_ := .scalar g.num, known := g.known, ops := [op] } with
  | some p => s.post p
  | none => s

/-- An access to global memory that the core in focus issues now. One to its own Plate crosses no fabric. -/
def State.newAccess (s : State) (isLoad : Bool) (d : Reg) (size : Nat) (signed : Bool) (ea : Word) (loc : Loc)
    (data : List Byte) : GlobalAccess :=
  let c := s.cpu
  { seq := c.seqNo, num := s.nextPacket, handler := c.trapMode, addr := ea, isLoad, rd := d, size, signed, loc, data, known := c.known, fenced := c.fenced,
    done := false, back := loc.sp = .plate s.cur, poisoned := false, heard := [] }

/-- A global access of the program with its landing (R84). Its packet performs it where it leads; one to the own Plate performs at an
S-cycle between issue and landing that is a choice. -/
def State.sendGlobal (s : State) (isLoad : Bool) (d : Reg) (size : Nat) (signed : Bool) (ea : Word) (loc : Loc)
    (data : List Byte) : State :=
  let c := s.cpu
  let lat := globalLatency loc.sp
  let g := s.newAccess isLoad d size signed ea loc data
  let k := { c with globals := c.globals ++ [g] }.landLater lat [.globalDue c.seqNo]
    (if isLoad then [.x d] else if g.back then [.plate loc.addr size] else [])
  if !g.back then (s.setCpu k).postAccess g
  else
    let n := s.choice % (lat + 1)
    let k := if n = 0 || n = lat then k else k.landLater n [.globalAt c.seqNo] []
    let s := { s.chosen with nextPacket := s.nextPacket + 1 }.setCpu k
    if n = 0 then s.performUpTo s.cur c.seqNo else s

/-- A global access lands: its slot is free, a load's touch of a guard granule is recorded, and its value is written or its poison is
raised (R84, R94, R99). DESIGN CHOICE (log entry 115): a handler's global load writes its register at its landing, also over a later write of
the handler. -/
def State.landGlobal (s : State) (c : CoreId) (seq : Nat) : State :=
  let s := s.performUpTo c seq
  match (s.core c).globals.find? (·.seq = seq) with
  | none => s
  | some g =>
    let s := s.modCore c fun k => { k with globals := k.globals.filter (·.seq ≠ seq) }
    if !g.isLoad then s
    else
      let s := s.touchRead g.loc.sp g.loc.addr g.size
      let v := extendTo g.signed g.size g.data
      let s := s.modCore c fun k => { k with heard := g.heard.foldl addHeard k.heard }
      if g.poisoned then s.pendTrap c (poisonTrap g.addr g.addr)
      else s.modCore c fun k => if g.handler then k.writeX g.rd v else k.landX g.rd v

/-- A load of a handler has read `r`, and lands at die cycle `t`: a touch of a guard granule is recorded and poison raised then, else
the value is written (R85, R94, R99). -/
def State.handlerLoads (s : State) (t : Nat) (d : Reg) (size : Nat) (signed : Bool) (ea : Word) (loc : Loc)
    (r : List Byte × Bool) : State :=
  s.modCpu fun c =>
    let c := match loc.sp with | .plate _ => c.handlerLands t (.touch loc.sp loc.addr size) | _ => c
    let c := if r.2 then c.handlerLands t (.poison ea) else c.writeX d (extendTo signed size r.1)
    { c with hReady := (.x d, t) :: c.hReady }

/-- A global access of a handler: it holds a handler access slot, and a load its register, until its latency has passed and it has
been performed (R85). One to the own Plate performs at once, behind the core's earlier accesses to the same line (R95). -/
def State.handlerGlobal (s : State) (isLoad : Bool) (d : Reg) (size : Nat) (signed : Bool) (ea : Word) (loc : Loc)
    (data : List Byte) : State :=
  let g := s.newAccess isLoad d size signed ea loc data
  let t := s.now s.cur + globalLatency loc.sp
  let s := s.modCpu fun c =>
    { c.handlerLands t (.globalDue g.seq) with
      globals := c.globals ++ [g], hSlots := c.hSlots ++ [notYet], hReady := if isLoad then (.x d, notYet) :: c.hReady else c.hReady }
  if g.back then { s with nextPacket := s.nextPacket + 1 }.performWhere s.cur fun x => sameLine x.loc loc
  else s.postAccess g

/-- A handler's global access has landed: its register is readable and its slot free from this die cycle on. -/
def State.handlerAccess (s : State) (seq : Nat) : State :=
  match s.cpu.globals.find? (·.seq = seq) with
  | none => s.modCpu fun c => { c with hLater := c.hLater.filter (·.2.2 ≠ .globalDue seq) }
  | some g =>
    let now := s.now s.cur
    (s.landGlobal s.cur seq).modCpu fun c =>
      { c with
        hLater := c.hLater.filter (·.2.2 ≠ .globalDue seq), hSlots := c.hSlots.erase notYet,
        hReady := if g.isLoad then (.x g.rd, now) :: c.hReady.erase (.x g.rd, notYet) else c.hReady }

/-- The effect of a load. -/
def State.load (s : State) (size : Nat) (signed : Bool) (d : Reg) (ea : Word) : State :=
  match s.target ea with
  | .localPlate off =>
    let loc : Loc := ⟨.plate s.cur, off⟩
    let s := s.ownPlateFirst off
    let r := s.loadLoc loc size
    let s := s.modCpu fun c =>
      { c.segReads [lineOf off] with
               bankReads := (if c.trapMode then dieKey (s.now s.cur) else c.sclk, lineOf off) :: c.bankReads }
    let heard := s.heardAt loc.sp off size
    if s.cpu.trapMode then
      (s.modCpu fun c => { c with heard := heard.foldl addHeard c.heard }).handlerLoads (s.now s.cur + 4) d size signed ea loc r
    else s.modCpu fun c =>
      c.landLater 4 ([if r.2 then .poison ea else .x d (extendTo signed size r.1), .touch loc.sp off size] ++
        if heard.isEmpty then [] else [.hears heard]) [.x d]
  | .mapped _ (some loc) =>
    let s := if loc.sp = .plate s.cur then s.modCpu fun c => c.segReads [lineOf loc.addr] else s
    if s.cpu.trapMode then s.handlerGlobal true d size signed ea loc [] else s.sendGlobal true d size signed ea loc []
  | _ => s

/-- The effect of a store. -/
def State.storeScalar (s : State) (size : Nat) (src : Reg) (ea : Word) : State :=
  let data := natBytes size (s.cpu.readX src).toNat
  match s.target ea with
  | .localPlate off =>
    let s := s.ownPlateFirst off
    let rels := s.cpu.fenced
    if s.cpu.trapMode then (s.modCpu fun c => c.writePlate (cellsFrom off data) []).setFlags (.plate s.cur) off size s.cur rels
    else s.modCpu fun c =>
      c.landLater 1 (.plate (cellsFrom off data) [] :: if rels.isEmpty then [] else [.carries off size rels]) [.plate off size]
  | .mapped _ (some loc) =>
    let s := s.modCpu fun c => { c with seg := { c.seg with clean := false } }
    if s.cpu.trapMode then s.handlerGlobal false 0 size false ea loc data else s.sendGlobal false 0 size false ea loc data
  | _ => s

/-- A scalar load. -/
def loadIssue (i : Instr) (size : Nat) (signed : Bool) (d a : Reg) (imm : BitVec 14) (s : State) : Out :=
  s.issue i (scalarFault true size (effAddr s.cpu a imm)) fun t => t.load size signed d (effAddr s.cpu a imm)

/-- A scalar store. -/
def storeIssue (i : Instr) (size : Nat) (src a : Reg) (imm : BitVec 14) (s : State) : Out :=
  s.issue i (scalarFault false size (effAddr s.cpu a imm)) fun t => t.storeScalar size src (effAddr s.cpu a imm)

def execLdb (d a : Reg) (imm : BitVec 14) (s : State) : Out := loadIssue (.ldb d a imm) 1 true d a imm s
def execLdbu (d a : Reg) (imm : BitVec 14) (s : State) : Out := loadIssue (.ldbu d a imm) 1 false d a imm s
def execLdh (d a : Reg) (imm : BitVec 14) (s : State) : Out := loadIssue (.ldh d a imm) 2 true d a imm s
def execLdhu (d a : Reg) (imm : BitVec 14) (s : State) : Out := loadIssue (.ldhu d a imm) 2 false d a imm s
def execLdw (d a : Reg) (imm : BitVec 14) (s : State) : Out := loadIssue (.ldw d a imm) 4 true d a imm s
def execLdwu (d a : Reg) (imm : BitVec 14) (s : State) : Out := loadIssue (.ldwu d a imm) 4 false d a imm s
def execLdd (d a : Reg) (imm : BitVec 14) (s : State) : Out := loadIssue (.ldd d a imm) 8 false d a imm s
def execStb (x a : Reg) (imm : BitVec 14) (s : State) : Out := storeIssue (.stb x a imm) 1 x a imm s
def execSth (x a : Reg) (imm : BitVec 14) (s : State) : Out := storeIssue (.sth x a imm) 2 x a imm s
def execStw (x a : Reg) (imm : BitVec 14) (s : State) : Out := storeIssue (.stw x a imm) 4 x a imm s
def execStd (x a : Reg) (imm : BitVec 14) (s : State) : Out := storeIssue (.std x a imm) 8 x a imm s

end Sys2Proof.Machine
end

