-- ==== Sys2Proof/Machine/Reduce.lean ====
section
/-! DEFINITION. V major 0x03: reductions, scans and dot products (R133, R139). The mask selects the inputs. -/

namespace Sys2Proof.Machine

/-! ### Groups of inputs -/

/-- An input of a reduction: its first and second source elements, none where it is off. -/
abbrev Input := Option (Elem × Elem)

/-- The inputs of one row from position p. -/
def inputRow (v : VWord) (m : BitVec 4096) : Nat → List Elem → List Elem → List Input
  | p, a :: as, c :: cs => (if maskOn v.pm m p then some (a, c) else none) :: inputRow v m (p + 1) as cs
  | _, _, _ => []

/-- The inputs of every row. -/
def inputRows (v : VWord) (m : BitVec 4096) (e : Nat) : Nat → Tile → Tile → List (List Input)
  | p, a :: as, c :: cs => inputRow v m p a c :: inputRows v m e (p + e) as cs
  | _, _, _ => []

/-- Rows to columns, `n` columns. -/
def columns {α : Type} : (n : Nat) → List (List α) → List (List α)
  | 0, _ => []
  | n + 1, rs => rs.filterMap List.head? :: columns n (rs.map List.tail)

/-- A group's mark. -/
def groupBad (g : List Input) : Bool := (g.filterMap id).any fun p => p.1.bad || p.2.bad

/-- A reduction of one group: from the context, the number of the result and the inputs that are on. -/
abbrev GroupOp := Ctx → Nat → List (Elem × Elem) → Nat × VFlags

/-- The results of all groups from number p. -/
def reduceGroups (g : GroupOp) (x : Ctx) : Nat → List (List Input) → List Res1
  | _, [] => []
  | p, i :: is =>
    let r := g x p (i.filterMap id)
    (⟨r.1, groupBad i⟩, r.2) :: reduceGroups g x (p + 1) is

/-- A sum in W(F) of exact terms (R139, R166): float terms rounded once to FP32, integers wrapped or clamped to INT32. -/
def sumGroup (fi : Int → Int → Int) (ff : Num → Num → Num) : GroupOp := fun x p ts =>
  if x.fmt.isInt then Fmt.int32.putInt x.sat (ts.foldl (fun a t => a + fi (x.int t.1) (x.int t.2)) 0)
  else x.putIn .fp32 p (sumNums (x.mode = .rdn) (ts.map fun t => ff (x.val t.1) (x.val t.2)))

/-- The code of a format's lowest and highest value (−∞, +∞ for floats). -/
def extremeCode (f : Fmt) (high : Bool) : Nat :=
  match f.float with
  | some l => l.signed (!high) (l.inf.getD l.maxCode)
  | none => let b := intBounds f.unsigned f.bits; ((if high then b.2 else b.1) % 2 ^ f.bits).toNat

/-- The canonical NaN code of a format. -/
def nanCode (f : Fmt) : Nat := (f.float.bind (·.nan)).getD 0

/-- An element as an exact number, unflushed. -/
def Ctx.raw (x : Ctx) (a : Elem) : Num := x.fmt.decode a.bits

/-- The extreme of a group over exact bits: a NaN gives the canonical NaN, NV where it signals. -/
def extremeGroup (high : Bool) : GroupOp := fun x _ ts =>
  let ns := ts.map fun t => x.raw t.1
  if ns.any Num.isNaN then (nanCode x.fmt, flagIf (ns.any (· = .nan true)) flagNV)
  else
    let better (a b : Elem) : Bool :=
      let o := (x.raw a).cmpSigned (x.raw b)
      if high then o = .gt else o = .lt
    match ts with
    | [] => (extremeCode x.fmt (!high), 0)
    | t :: ts => ((ts.foldl (fun b t => if better t.1 b then t.1 else b) t.1).bits, 0)

/-- VRAMAX: the magnitude that does not fit the format is written as its maximum, with ST. -/
def magnitudeGroup : GroupOp := fun x _ ts =>
  match x.fmt.float with
  | some l =>
    let ns := ts.map fun t => x.raw t.1
    if ns.any Num.isNaN then (nanCode x.fmt, flagIf (ns.any (· = .nan true)) flagNV)
    else (ts.foldl (fun b t => max b (t.1.bits % l.sign)) 0, 0)
  | none =>
    let m := ts.foldl (fun b t => max b (x.int t.1).natAbs) 0
    let top := (intBounds x.fmt.unsigned x.fmt.bits).2.toNat
    if top < m then (top, flagST) else (m, 0)

/-! ### Dispatch of the reductions -/

/-- A row or column reduction. -/
def reduction (sp : VSpec) (two byColumn : Bool) (g : GroupOp) (v : VWord) (x : Env) : Dispatch :=
  let p := sp.plan two v x.q
  let f := p.fmt
  let out := if sp.wide then widened f else f
  let s1 := x.c.sourceTile x.q f (.op v.s1) p.rows p.e
  let s2 := if two then x.c.sourceTile x.q f v.s2 p.rows p.e else constTile p.rows p.e Elem.zero
  let ins := inputRows v (x.c.maskOf v.pm) p.e 0 s1 s2
  let rs := reduceGroups g (x.ctx f v.mod) 0 (if byColumn then columns p.e ins else ins)
  let per := 512 / out.size
  let t := if byColumn then chunks (cdiv rs.length per) per rs else [rs]
  p.run x.q (x.results v.d p.dst ((allElems t).toBytes out.bits) (allFlags t))

/-- One destination row of as many results as there are tile rows. -/
def rowResults (size : Nat → Nat) (rows _e s : Nat) : Nat × Nat := (1, rows * size s)

/-- Destination rows of 512 bytes, the last one shorter, for as many results as there are columns. -/
def columnResults (size : Nat → Nat) (_rows e s : Nat) : Nat × Nat :=
  (cdiv e (512 / size s), min e (512 / size s) * size s)

/-- The bytes that the last destination row of a column reduction lacks. -/
def columnShort (size : Nat → Nat) (e s : Nat) : Nat :=
  let m := 512 / size s
  (cdiv e m * min e m - e) * size s

def four (_ : Nat) : Nat := 4
def same (s : Nat) : Nat := s

def lat8 (b : Nat) : Nat := 8 + b
def lat10 (b : Nat) : Nat := 10 + b

def specRow : VSpec := { cls := classN, lat := lat8, occ := occOne, merges := false, dShape := rowResults same }
def specRowWide : VSpec := { specRow with wide := true, dShape := rowResults four }
def specColumn : VSpec := { specRow with dShape := columnResults same, dShort := columnShort same }
def specColumnWide : VSpec := { specRow with wide := true, dShape := columnResults four, dShort := columnShort four }
def specDot : VSpec := { specRowWide with lat := lat10 }
def specScan : VSpec := { specRow with lat := lat10, dShape := fun rows e s => (rows, e * s) }

/-- One prefix of a scan: the terms so far and the last result. -/
structure ScanState where
  sum   : Int
  terms : List Num
  last  : Nat
  bad   : Bool

/-- The prefixes of a row from position p. -/
def scanRow (x : Ctx) : Nat → ScanState → List Input → List Res1
  | _, _, [] => []
  | p, s, none :: is => (⟨s.last, s.bad⟩, 0) :: scanRow x (p + 1) s is
  | p, s, some (a, _) :: is =>
    let bad := s.bad || a.bad
    if x.fmt.isInt then
      let sum := s.sum + x.int a
      let r := x.fmt.putInt x.sat sum
      (⟨r.1, bad⟩, r.2) :: scanRow x (p + 1) { s with sum, last := r.1, bad } is
    else
      let terms := s.terms ++ [x.val a]
      let r := x.put p (sumNums (x.mode = .rdn) terms)
      (⟨r.1, bad⟩, r.2) :: scanRow x (p + 1) { s with terms, last := r.1, bad } is

/-- The scan of every row. -/
def scanRows (x : Ctx) (e : Nat) : Nat → List (List Input) → List (List Res1)
  | _, [] => []
  | p, r :: rs => scanRow x p ⟨0, [], 0, false⟩ r :: scanRows x e (p + e) rs

def dispatchVrsum (v : VWord) (x : Env) : Dispatch := reduction specRowWide false false (sumGroup (fun a _ => a) (fun a _ => a)) v x
def execVrsum (v : VWord) (s : State) : Out := s.issueV (.vrsum v) v

def dispatchVrmax (v : VWord) (x : Env) : Dispatch := reduction specRow false false (extremeGroup true) v x
def execVrmax (v : VWord) (s : State) : Out := s.issueV (.vrmax v) v

def dispatchVrmin (v : VWord) (x : Env) : Dispatch := reduction specRow false false (extremeGroup false) v x
def execVrmin (v : VWord) (s : State) : Out := s.issueV (.vrmin v) v

def dispatchVramax (v : VWord) (x : Env) : Dispatch := reduction specRow false false magnitudeGroup v x
def execVramax (v : VWord) (s : State) : Out := s.issueV (.vramax v) v

def dispatchVcsum (v : VWord) (x : Env) : Dispatch := reduction specColumnWide false true (sumGroup (fun a _ => a) (fun a _ => a)) v x
def execVcsum (v : VWord) (s : State) : Out := s.issueV (.vcsum v) v

def dispatchVcmax (v : VWord) (x : Env) : Dispatch := reduction specColumn false true (extremeGroup true) v x
def execVcmax (v : VWord) (s : State) : Out := s.issueV (.vcmax v) v

def dispatchVscan (v : VWord) (x : Env) : Dispatch :=
  let p := specScan.plan false v x.q
  let f := p.fmt
  let s1 := x.c.sourceTile x.q f (.op v.s1) p.rows p.e
  let t := scanRows (x.ctx f v.mod) p.e 0 (inputRows v (x.c.maskOf v.pm) p.e 0 s1 s1)
  p.run x.q (x.results v.d p.dst ((allElems t).toBytes f.bits) (allFlags t))
def execVscan (v : VWord) (s : State) : Out := s.issueV (.vscan v) v

def dispatchVdot (v : VWord) (x : Env) : Dispatch := reduction specDot true false (sumGroup (· * ·) Num.mul) v x
def execVdot (v : VWord) (s : State) : Out := s.issueV (.vdot v) v

end Sys2Proof.Machine
end

