-- ==== Sys2Proof/Machine/Select.lean ====
section
/-! DEFINITION. V major 0x04, selection and ordering (R140–R143), and major 0x05, broadcast, transpose, iota, gather and scatter
(R144). -/

namespace Sys2Proof.Machine

/-! ### The total order (R140) -/

/-- Comparison of two elements, a higher rank first: floats with the NaNs on top, or below −∞ under `.NL`. -/
def rankCmp (nl : Bool) (f : Fmt) (a b : Nat) : Ordering :=
  if f.isInt then compare (intValue f.unsigned f.bits b) (intValue f.unsigned f.bits a)
  else
    let m := f.decode a
    let n := f.decode b
    match m.isNaN, n.isNaN with
    | true, true => .eq
    | true, false => if nl then .gt else .lt
    | false, true => if nl then .lt else .gt
    | false, false => n.cmpSigned m

/-- A candidate: its value, its index, each with its mark. -/
structure Candidate where
  val : Elem
  idx : Elem
deriving DecidableEq, Repr

/-- One candidate ranks strictly before another; the lower index first among equals. -/
def Candidate.before (nl : Bool) (f : Fmt) (a b : Candidate) : Bool :=
  match rankCmp nl f a.val.bits b.val.bits with
  | .lt => true
  | .gt => false
  | .eq => a.idx.bits < b.idx.bits

/-- A candidate inserted behind everything it does not rank before. -/
def insertRanked (lt : Candidate → Candidate → Bool) (x : Candidate) : List Candidate → List Candidate
  | [] => [x]
  | y :: ys => if lt x y then x :: y :: ys else y :: insertRanked lt x ys

/-- Candidates in rank order; complete ties keep their row-major order. -/
def ranked (lt : Candidate → Candidate → Bool) (cs : List Candidate) : List Candidate :=
  cs.foldl (fun acc x => insertRanked lt x acc) []

/-- The padding entry: the lowest value of the order and index 0xFFFF_FFFF. -/
def padCandidate (nl : Bool) (f : Fmt) : Candidate :=
  { val := ⟨if nl && !f.isInt then nanCode f else extremeCode f false, false⟩, idx := ⟨0xFFFFFFFF, false⟩ }

/-- The k highest candidates. -/
def topCandidates (nl : Bool) (f : Fmt) (k : Nat) (cs : List Candidate) : List Candidate :=
  let r := (ranked (Candidate.before nl f) cs).take k
  r ++ List.replicate (k - r.length) (padCandidate nl f)

/-! ### VTOPK, VSORTR, VMRGK (R141) -/

/-- k of VTOPK and VMRGK. -/
def selectCount (v : VWord) : Nat := bitsOf v.xfn 0 7 + 1

/-- The index view. -/
def indexView (v : VWord) : Reg := Fin.ofNat 32 (bitsOf v.xfn 8 5)

def specTopk (v : VWord) : VSpec :=
  { cls := classN, lat := fun b => 24 + 4 * b, occ := fun b => 4 * b, index := true, merges := false,
    dShape := fun rows _ s => (rows, selectCount v * s), aux := some (indexView v, fun rows _ => (rows, 4 * selectCount v)) }

def specSortr (v : VWord) : VSpec :=
  { cls := classN, lat := fun b => 32 + 4 * b, occ := fun b => 4 * b, index := true, merges := false,
    aux := some (indexView v, fun rows e => (rows, 4 * e)), limit := fun _ e => 128 < e }

def specMrgk (v : VWord) : VSpec :=
  { cls := classN, lat := fun b => 16 + 2 * b, occ := occTwo, index := true, merges := false,
    dShape := fun _ _ s => (1, selectCount v * s), aux := some (indexView v, fun _ _ => (1, 4 * selectCount v)) }

/-- The index tile: INT32 elements of a view, or a register's value and the positions after it. -/
def Env.indexTile (x : Env) (v : VWord) (rows e : Nat) : Tile :=
  match v.s2 with
  | .op (.reg n) =>
    (List.range rows).map fun i => (List.range e).map fun j => ⟨((x.q.reg n).toNat + i * e + j) % 2 ^ 32, false⟩
  | s => x.c.sourceTile x.q .int32 s rows e

/-- The candidates of a row. -/
def candidates (is : List Input) : List Candidate := (is.filterMap id).map fun p => ⟨p.1, p.2⟩

/-- A selection instruction over groups of candidates, with k results each. DEDUCED (log entry 34): the indices are written
after D. -/
def selection (sp : VSpec) (whole : Bool) (count : Nat → Nat) (v : VWord) (x : Env) : Dispatch :=
  let p := sp.plan true v x.q
  let f := p.fmt
  let nl := bitOf v.xfn 15
  let s1 := x.c.sourceTile x.q f (.op v.s1) p.rows p.e
  let rows := (inputRows v (x.c.maskOf v.pm) p.e 0 s1 (x.indexTile v p.rows p.e)).map candidates
  let groups := if whole then [rows.flatten] else rows
  let rs := groups.map (topCandidates nl f (count p.e))
  let idx := match p.dst.getLast? with
    | some u => if u.pos = 3 then [writeUse (x.q.view u.vw) u (Tile.toBytes 32 (rs.map (·.map (·.idx))))] else []
    | none => []
  p.run x.q (x.results v.d p.dst (Tile.toBytes f.bits (rs.map (·.map (·.val)))) 0 ++ idx)

def dispatchVtopk (v : VWord) (x : Env) : Dispatch := selection (specTopk v) false (fun _ => selectCount v) v x
def execVtopk (v : VWord) (s : State) : Out := s.issueV (.vtopk v) v

def dispatchVsortr (v : VWord) (x : Env) : Dispatch := selection (specSortr v) false (fun e => e) v x
def execVsortr (v : VWord) (s : State) : Out := s.issueV (.vsortr v) v

def dispatchVmrgk (v : VWord) (x : Env) : Dispatch := selection (specMrgk v) true (fun _ => selectCount v) v x
def execVmrgk (v : VWord) (s : State) : Out := s.issueV (.vmrgk v) v

/-! ### VCOMPR, VEXPND (R143) -/

def specCompress : VSpec := { cls := classX, lat := lat8, occ := occOne, merges := false }

/-- Elements placed at the positions that are on, in order; zero at the others. -/
def expandOnto : List Bool → List Elem → List Elem
  | [], _ => []
  | true :: os, a :: as => a :: expandOnto os as
  | true :: os, [] => Elem.zero :: expandOnto os []
  | false :: os, as => Elem.zero :: expandOnto os as

/-- A row-major list as a tile. -/
def asTile (rows e : Nat) (l : List Elem) : Tile := chunks rows e l

/-- Compress or expand. -/
def moveSelected (g : List Bool → List Elem → List Elem) (v : VWord) (x : Env) : Dispatch :=
  let p := specCompress.plan false v x.q
  let s1 := (x.c.sourceTile x.q p.fmt (.op v.s1) p.rows p.e).flatten
  let on := (List.range s1.length).map fun k => maskOn v.pm (x.c.maskOf v.pm) k
  p.run x.q (x.results v.d p.dst ((asTile p.rows p.e (g on s1)).toBytes p.fmt.bits) 0)

/-- The selected elements first, then zeros. -/
def compressOnto (on : List Bool) (as : List Elem) : List Elem :=
  let l := ((on.zip as).filter (·.1)).map (·.2)
  l ++ List.replicate (as.length - l.length) Elem.zero

def dispatchVcompr (v : VWord) (x : Env) : Dispatch := moveSelected compressOnto v x
def execVcompr (v : VWord) (s : State) : Out := s.issueV (.vcompr v) v

def dispatchVexpnd (v : VWord) (x : Env) : Dispatch := moveSelected expandOnto v x
def execVexpnd (v : VWord) (s : State) : Out := s.issueV (.vexpnd v) v

/-! ### Major 0x05 (R144) -/

/-- The element number of VBCAST. -/
def bcastIndex (v : VWord) : Nat := bitsOf v.xfn 0 9

/-- VBCAST. DEDUCED (log entry 65): a view S1 spans its row 0, the e elements of it, whichever element is taken. -/
def specBcast (v : VWord) : VSpec :=
  { cls := classX, lat := latFast, occ := occOne, s1Shape := fun _ e s => (1, e * s), limit := fun _ e => e ≤ bcastIndex v }

/-- VBCAST: one element of S1 row 0, or the register's value, everywhere. -/
def dispatchVbcast (v : VWord) (x : Env) : Dispatch :=
  let p := (specBcast v).plan false v x.q
  let a := (((x.c.sourceTile x.q p.fmt (.op v.s1) 1 p.e).headD [])[bcastIndex v]?).getD Elem.zero
  elementwise (specBcast v) false (fun _ _ _ _ _ => (a, 0)) v x
def execVbcast (v : VWord) (s : State) : Out := s.issueV (.vbcast v) v

def specTrans : VSpec :=
  { cls := classX, lat := fun b => 8 + 2 * b, occ := occTwo, dShape := fun rows e s => (e, rows * s), limit := fun _ e => 32 < e }

/-- VTRANS: the predicate selects by source position. -/
def dispatchVtrans (v : VWord) (x : Env) : Dispatch :=
  let p := specTrans.plan false v x.q
  let s1 := x.c.sourceTile x.q p.fmt (.op v.s1) p.rows p.e
  let keeps := v.pm ≠ 0 && !v.bit21
  let old := x.oldTile v p.fmt p.e p.rows keeps
  let back := columns p.rows old
  let r := mapTile (predicated v (x.c.maskOf v.pm) fun _ a _ _ => (a, 0)) p.e 0 s1 s1 back
  p.run x.q (x.results v.d p.dst (Tile.toBytes p.fmt.bits (columns p.e (allElems r))) 0)
def execVtrans (v : VWord) (s : State) : Out := s.issueV (.vtrans v) v

def specIota : VSpec := { cls := classI, lat := latFast, occ := occOne }

/-- VIOTA: base + step × position. -/
def opIota : ElemOp := fun x p a c d =>
  mark2 a c (intOp (fun a c _ => a + c * p) x a c d)

def dispatchViota (v : VWord) (x : Env) : Dispatch := elementwise specIota true opIota v x
def execViota (v : VWord) (s : State) : Out := s.issueV (.viota v) v

def specGather : VSpec := { cls := classX, lat := fun b => 10 + 2 * b, occ := occTwo, index := true }

/-- VGATHR: the element at each position; none gives zero and sets NV. -/
def dispatchVgathr (v : VWord) (x : Env) : Dispatch :=
  let p := specGather.plan true v x.q
  let s1 := x.c.sourceTile x.q p.fmt (.op v.s1) p.rows p.e
  let flat := s1.flatten
  let idx := x.indexTile v p.rows p.e
  let d := x.oldTile v p.fmt p.rows p.e (v.pm ≠ 0 && !v.bit21)
  let r := mapTile (predicated v (x.c.maskOf v.pm) fun _ _ c _ =>
    match flat[c.bits]? with
    | some a => (⟨a.bits, a.bad || c.bad⟩, 0)
    | none => (⟨0, c.bad⟩, flagNV)) p.e 0 s1 idx d
  p.run x.q (x.results v.d p.dst ((allElems r).toBytes p.fmt.bits) (allFlags r))
def execVgathr (v : VWord) (s : State) : Out := s.issueV (.vgathr v) v

def specScatter : VSpec := { specGather with readsD := true }

/-- VSCATR: the elements that are on, in ascending position, to the places S2 names; a place outside the tile sets NV. -/
def dispatchVscatr (v : VWord) (x : Env) : Dispatch :=
  let p := specScatter.plan true v x.q
  let s1 := (x.c.sourceTile x.q p.fmt (.op v.s1) p.rows p.e).flatten
  let idx := (x.indexTile v p.rows p.e).flatten
  let old := (x.oldTile v p.fmt p.rows p.e true).flatten
  let on := ((s1.zip idx).zipIdx).filter fun r => maskOn v.pm (x.c.maskOf v.pm) r.2
  let r := on.foldl (fun (acc : List Elem × VFlags) s =>
    if s.1.2.bits < old.length then (acc.1.set s.1.2.bits ⟨s.1.1.bits, s.1.1.bad || s.1.2.bad⟩, acc.2)
    else (acc.1, acc.2 ||| flagNV)) (old, (0 : VFlags))
  p.run x.q (x.results v.d p.dst ((asTile p.rows p.e r.1).toBytes p.fmt.bits) r.2)
def execVscatr (v : VWord) (s : State) : Out := s.issueV (.vscatr v) v

end Sys2Proof.Machine
end

