-- ==== Sys2Proof/Machine/Convert.lean ====
section
/-! DEFINITION. V major 0x06: conversion, requantisation, block quantisation, packing, clamping and rounding in place
(R167–R182). -/

namespace Sys2Proof.Machine

/-! ### Formats and shape (R167–R169) -/

/-- What a conversion's row of R169 says: accepted G and F (the range format of VSAT), latency and occupancy, and how the
destination format comes about. -/
structure CSpec where
  gs    : Nat → Bool
  fs    : Nat → Bool
  lat   : Nat → Nat
  occ   : Nat → Nat
  /-- VSAT: FMT names the range and D holds G. -/
  inPlaceRange : Bool := false
  /-- VRND: FMT is 0 and D holds G. -/
  inPlace : Bool := false
  /-- VRQNT has a scale operand. -/
  scaled : Bool := false
  /-- VMXQ, VMXDQ: the scale view belongs to D or to S1. -/
  qOfD  : Bool := false
  qOfS  : Bool := false

/-- The geometry of a conversion. -/
structure CPlan where
  base  : VPlan
  g     : Fmt
  range : Fmt
deriving DecidableEq, Repr

/-- The formats of a conversion: G, F and the range format. -/
def CSpec.formats (sp : CSpec) (v : VWord) (q : QEntry) : Option (Fmt × Fmt × Fmt) :=
  let g := match v.s1 with
    | .view n _ _ _ => viewFmt (q.view n)
    | _ => bitsOf v.xfn 0 5
  let d := (q.operandFmt v.d).getD 0
  let fmt := v.fmt.toNat
  if sp.inPlaceRange || sp.inPlace then
    if (sp.inPlaceRange && fmt = 0) || (sp.inPlace && fmt ≠ 0) || !(d = 0 || d = g) then none
    else
      let r := if sp.inPlaceRange then fmt else g
      if sp.gs g && sp.fs r then
        match fmtOf g, fmtOf r with
        | some g, some r => some (g, g, r)
        | _, _ => none
      else none
  else
    let f := if fmt ≠ 0 then fmt else d
    if sp.gs g && sp.fs f && !(g = 14 && !(8 ≤ f && f ≤ 13)) then
      match fmtOf g, fmtOf f with
      | some g, some f => some (g, f, f)
      | _, _ => none
    else none

/-- Bytes of a row of `e` elements; none where they do not fill whole bytes. -/
def rowBytes (f : Fmt) (e : Nat) : Option Nat :=
  if f = .t5 then (if e % 5 = 0 then some (e / 5) else none)
  else if e * f.bits % 8 = 0 then some (e * f.bits / 8) else none

/-- QV of XFN. -/
def scaleView (v : VWord) : Reg := Fin.ofNat 32 (bitsOf v.xfn 8 5)

/-- ROWSC of XFN. -/
def perRow (v : VWord) : Bool := bitOf v.xfn 5

/-- The scale view's use: the rows that an operand's ROW and RSTEP select, from byte 0; row 0 on for a ring operand. -/
def scaleUse (v : VWord) (o : Operand) (rows bytes : Nat) : ViewUse :=
  match o with
  | .view _ row st _ => { pos := 3, vw := scaleView v, row := row.val, step := stepOf st, off := 0, rows, bytes }
  | _ => { pos := 3, vw := scaleView v, row := 0, step := 1, off := 0, rows, bytes }

/-- The geometry of a conversion instruction. -/
def CSpec.plan (sp : CSpec) (v : VWord) (q : QEntry) : CPlan :=
  let b := q.blocks
  let base : VPlan := { lat := sp.lat b, occ := sp.occ b, fmt := .int8, rows := q.rows, e := 0, reads := [], dst := [],
                        fault := none }
  match sp.formats v q with
  | none => ⟨{ base with fault := some q.formatFault }, .int8, .int8⟩
  | some (g, f, r) =>
    let base := { base with fmt := f }
    let s2 := if sp.scaled && src2Present v.s2 then [src2Operand v.s2] else []
    if !(s2.map q.operandFmt).all (fixedOk 8) then ⟨{ base with fault := some q.formatFault }, g, r⟩
    else
      let e := g.elems q.rb
      let whole := g.bits = 4 || g = .t5 || q.rb % g.size = 0
      let mx := g.isMx || f.isMx
      match rowBytes f e with
      | none => ⟨{ base with fault := some q.shapeFault }, g, r⟩
      | some db =>
        if !whole || (mx && e % 32 ≠ 0) || 512 < db || (v.pm ≠ 0 && 4096 < q.rows * e) then
          ⟨{ base with fault := some q.shapeFault }, g, r⟩
        else
          let d := useOf 0 v.d q.rows db
          let keeps := v.pm ≠ 0 && !v.bit21
          let qb (x : Fmt) := e / 32 * x.scaleBytes
          let scales := s2.flatMap fun o => (if perRow v then useOf 2 o 1 (4 * q.rows) else useOf 2 o q.rows (4 * e)).toList
          let reads := (useOf 1 v.s1 q.rows q.rb).toList ++ scales ++
            (if sp.qOfS then [scaleUse v v.s1 q.rows (qb g)] else []) ++ (if keeps then d.toList else [])
          let dst := d.toList ++ (if sp.qOfD then [scaleUse v v.d q.rows (qb f)] else [])
          ⟨{ base with e, reads, dst, fault := usesFault q.view (reads ++ dst) }, g, r⟩

/-! ### The elementwise skeleton -/

/-- A conversion of one element: context of F, source format, element position, source and scale elements. -/
abbrev ConvOp := Ctx → Fmt → Nat → Elem → Elem → Nat × VFlags

/-- The source tile of a conversion, e elements per row. -/
def Env.convSource (x : Env) (v : VWord) (p : CPlan) : Tile :=
  let bs := x.c.operandBytes x.q v.s1 p.base.rows x.q.rb
  if p.g = .t5 then bs else bs.map (elemsOf p.g.bits)

/-- The rule of R131 and R171 for a conversion over source and scale tiles. -/
def converted (p : CPlan) (v : VWord) (x : Env) (src scales : Tile) (op : ConvOp) : Dispatch :=
  let b := p.base
  let d := x.oldTile v b.fmt b.rows b.e (v.pm ≠ 0 && !v.bit21)
  let cx := x.ctx b.fmt v.mod
  let r := mapTile (predicated v (x.c.maskOf v.pm) fun k a c _ => mark2 a c (op cx p.g k a c)) b.e 0 src scales d
  b.run x.q (x.results v.d b.dst ((allElems r).toBytes b.fmt.bits) (allFlags r))

/-- A conversion without a scale. -/
def conversion (sp : CSpec) (op : CPlan → ConvOp) (v : VWord) (x : Env) : Dispatch :=
  let p := sp.plan v x.q
  let src := x.convSource v p
  converted p v x src src fun cx g k a _ => op p cx g k a a

/-! ### Values (R172, R173, R179, R180) -/

/-- A source element as an exact number, subnormals flushed in exposed mode (R164). -/
def Ctx.from_ (x : Ctx) (g : Fmt) (a : Elem) : Num := g.decodeIn x.flush a.bits

/-- to_int of R172: one rounding to an integer, always saturating. -/
def Ctx.toInt (x : Ctx) (f : Fmt) (p : Nat) : Exact → Nat × VFlags
  | .nan => (0, flagNV)
  | .inf s =>
    let b := intBounds f.unsigned f.bits
    (((if s then b.1 else b.2) % 2 ^ f.bits).toNat, flagST)
  | .ratio s n d e =>
    let r := scaleRatio n d e 0
    let y := roundRatio s r.1 r.2 x.mode (x.key.use x.mode p)
    let v : Int := if s then -(y.1 : Int) else y.1
    let c := f.putInt true v
    (c.1, c.2 ||| flagIf y.2.1 flagNX)

/-- An exact value into F (R172, R173). -/
def Ctx.narrow (x : Ctx) (p : Nat) (r : Exact × VFlags) : Nat × VFlags :=
  if x.fmt.isInt then
    let y := x.toInt x.fmt p r.1
    (y.1, r.2 ||| y.2)
  else x.put p r

/-- cvt of R172; NV for a signalling FP32, BF16 or FP16 source. -/
def opCvt : ConvOp := fun x g p a _ =>
  if x.fmt.isInt && g.isInt then x.fmt.putInt x.sat (intValue g.unsigned g.bits a.bits)
  else
    let v := x.from_ g a
    x.narrow p (v.exact, flagIf (v = .nan true && g.flushes) flagNV)

/-- rqnt of R173: the quotient before its rounding. -/
def requantQuotient (a s : Num) : Exact × VFlags :=
  match a, s with
  | .inf m, .fin t n _ => if n = 0 then (.inf (m != t), flagOF) else (.inf (m != t), 0)
  | a, s => divNums a s

/-- VRQNT; a narrow-format NaN source does not signal. -/
def opRqnt : ConvOp := fun x g p a c =>
  x.narrow p (requantQuotient (x.from_ g a) (fmtFP32In x.flush c.bits))
where
  fmtFP32In (flush : Bool) (b : Nat) : Num := Fmt.fp32.decodeIn flush b

/-- A bound of the range format R, rounded toward zero into G (R179). -/
def satBound (g r : Fmt) (neg : Bool) : Num :=
  let x : Num := match r.float with
    | some l => l.decode (l.signed neg l.maxCode)
    | none => let b := intBounds r.unsigned r.bits; Num.ofInt (if neg then b.1 else b.2)
  match g.float with
  | some l => l.decode (l.round .rtz false 0 x.exact).1
  | none =>
    match x with
    | .fin s m e =>
      let p := scaleRatio m 1 e 0
      let v : Int := if s then -((p.1 / p.2 : Nat) : Int) else (p.1 / p.2 : Nat)
      let b := intBounds g.unsigned g.bits
      Num.ofInt (max b.1 (min b.2 v))
    | y => y

/-- VSAT on one element: no rounding. -/
def opSat (p : CPlan) : ConvOp := fun x g k a _ =>
  let v := x.from_ g a
  if v.isNaN then x.put k (.nan, flagIf (v = .nan true) flagNV)
  else
    let lo := satBound g p.range true
    let hi := satBound g p.range false
    let r : Num × VFlags := if hi.cmp v = .lt then (hi, flagST) else if v.cmp lo = .lt then (lo, flagST) else (v, 0)
    if g.isInt then ((r.1.at_ 0 % 2 ^ g.bits).toNat, r.2) else x.put k (r.1.exact, r.2)

/-- VRND on one element: an integer value in G, a zero keeping the sign. -/
def opRnd : ConvOp := fun x g k a _ =>
  match x.from_ g a with
  | .fin s m e =>
    let p := scaleRatio m 1 e 0
    let y := roundRatio s p.1 p.2 x.mode (x.key.use x.mode k)
    let r := x.put k (.ratio s y.1 1 0, 0)
    (r.1, r.2 ||| flagIf y.2.1 flagNX)
  | v => x.put k (v.exact, flagIf (v = .nan true) flagNV)

/-! ### Dispatch and issue -/

def setR (n : Nat) : Bool := (1 ≤ n && n ≤ 6) || (8 ≤ n && n ≤ 13)
def setCvtG (n : Nat) : Bool := setR n || n = 14
def setMx (n : Nat) : Bool := 15 ≤ n && n ≤ 18
def lat6 (b : Nat) : Nat := 6 + b

def specCvt : CSpec := { gs := setCvtG, fs := setR, lat := lat6, occ := occOne }
def dispatchVcvt (v : VWord) (x : Env) : Dispatch := conversion specCvt (fun _ => opCvt) v x
def execVcvt (v : VWord) (s : State) : Out := s.issueV (.vcvt v) v

def specRqnt : CSpec := { gs := classN, fs := setR, lat := fun b => 16 + 2 * b, occ := occTwo, scaled := true }

/-- The scale tile of VRQNT (R173): FP32 elements, one for each element or one for each row. -/
def Env.scaleTile (x : Env) (v : VWord) (p : CPlan) : Tile :=
  let rows := p.base.rows
  let e := p.base.e
  match v.s2 with
  | .op (.reg _) => x.c.sourceTile x.q .fp32 v.s2 rows e
  | .lit _ => x.c.sourceTile x.q .fp32 v.s2 rows e
  | s =>
    if perRow v then ((x.c.sourceTile x.q .fp32 s 1 rows).headD []).map fun c => List.replicate e c
    else x.c.sourceTile x.q .fp32 s rows e

def dispatchVrqnt (v : VWord) (x : Env) : Dispatch :=
  let p := specRqnt.plan v x.q
  converted p v x (x.convSource v p) (x.scaleTile v p) opRqnt
def execVrqnt (v : VWord) (s : State) : Out := s.issueV (.vrqnt v) v

def specMxq : CSpec := { gs := classF, fs := setMx, lat := fun b => 12 + 2 * b, occ := occTwo, qOfD := true }

/-- The random words of a block's elements. -/
def blockWords (x : Ctx) (p n : Nat) : List Nat := (List.range n).map fun k => x.key.use x.mode (p + k)

/-- A row's blocks quantised, from element position p: scale bytes, element codes, flags. -/
def quantRow (x : Ctx) (g : Fmt) : Nat → List (List Elem) → List Elem × List Elem × VFlags
  | _, [] => ([], [], 0)
  | p, b :: bs =>
    let bad := b.any (·.bad)
    let q := quantize x.fmt x.mode (blockWords x p 32) (b.map fun a => (x.from_ g a).exact)
    let r := quantRow x g (p + 32) bs
    (q.scale.map (fun s => ⟨s, bad⟩) ++ r.1, q.elems.map (fun s => ⟨s, bad⟩) ++ r.2.1, q.flags ||| r.2.2)

/-- Every row quantised. -/
def quantRows (x : Ctx) (g : Fmt) (e : Nat) : Nat → Tile → List (List Elem × List Elem × VFlags)
  | _, [] => []
  | p, r :: rs => quantRow x g p (chunks (e / 32) 32 r) :: quantRows x g e (p + e) rs

/-- VMXQ (R174): element codes to D, then the scale bytes to the scale view. -/
def dispatchVmxq (v : VWord) (x : Env) : Dispatch :=
  let p := specMxq.plan v x.q
  let b := p.base
  let rs := quantRows (x.ctx b.fmt v.mod) p.g b.e 0 (x.convSource v p)
  let fl := rs.foldl (fun a r => a ||| r.2.2) (0 : VFlags)
  let scales := match b.dst.getLast? with
    | some u => if u.pos = 3 then [writeUse (x.q.view u.vw) u (rs.map (·.1))] else []
    | none => []
  b.run x.q (x.results v.d b.dst (Tile.toBytes b.fmt.bits (rs.map (·.2.1))) fl ++ scales)
def execVmxq (v : VWord) (s : State) : Out := s.issueV (.vmxq v) v

def specMxdq : CSpec := { gs := setMx, fs := classF, lat := fun b => 8 + b, occ := occOne, qOfS := true }

/-- The scale information of every element: its scale byte and extra value as one element (scale + 256 × XV). -/
def mxScales (f : Fmt) (e : Nat) (row : List Elem) : List Elem :=
  (chunks (e / 32) f.scaleBytes row).flatMap fun s => List.replicate 32 (joinBytes s)

/-- VMXDQ (R175). -/
def opMxdq : ConvOp := fun x g p a c =>
  x.put p ((mxValue g a.bits (c.bits % 256) (c.bits / 256)).exact, flagIf (c.bits % 256 = 255) flagNV)

def dispatchVmxdq (v : VWord) (x : Env) : Dispatch :=
  let p := specMxdq.plan v x.q
  let u := scaleUse v v.s1 p.base.rows (p.base.e / 32 * p.g.scaleBytes)
  let sc := (x.c.useBytes (x.q.view u.vw) u).map (mxScales p.g p.base.e)
  converted p v x (x.convSource v p) sc opMxdq
def execVmxdq (v : VWord) (s : State) : Out := s.issueV (.vmxdq v) v

def specUnpk3 : CSpec :=
  { gs := (· = 7), fs := fun n => n = 1 || n = 3 || n = 4 || classF n, lat := fun b => 6 + 2 * b, occ := occTwo }

/-- A trit in a format. -/
def tritCode (f : Fmt) (t : Int) : Nat :=
  match f.float with
  | some l => (l.round .rne false 0 (Num.ofInt t).exact).1
  | none => (t % 2 ^ f.bits).toNat

/-- The five elements of a T5 byte; an illegal code gives zeros and TERN. -/
def unpackT5 (f : Fmt) (b : Elem) : List Res1 :=
  if b.bits < 243 then (t5Trits b.bits).map fun t => (⟨tritCode f t, b.bad⟩, 0)
  else List.replicate 5 (⟨0, b.bad⟩, flagTERN)

/-- The offset of the first illegal byte, in row-major order: in the Plate, or in the ring entry (R176). -/
def firstIllegal (offs : List Nat) (t : Tile) : Option Nat :=
  ((offs.zip t).flatMap fun r => (r.2.zipIdx.filter fun b => 243 ≤ b.1.bits).map fun b => r.1 + b.2).head?

/-- VUNPK3. -/
def dispatchVunpk3 (v : VWord) (x : Env) : Dispatch :=
  let p := specUnpk3.plan v x.q
  let b := p.base
  let bs := x.convSource v p
  let offs := match useOf 1 v.s1 b.rows x.q.rb with
    | some u => u.offsets (x.q.view u.vw)
    | none => (List.range b.rows).map (512 * ·)
  let ill := if bitOf v.xfn 15 then firstIllegal offs bs else none
  match b.fault, ill with
  | none, some o => b.faulted x.q (.ternaryIllegal, BitVec.ofNat 64 o)
  | _, _ =>
    let r := bs.map (·.flatMap (unpackT5 b.fmt))
    b.run x.q (x.results v.d b.dst ((allElems r).toBytes b.fmt.bits) (allFlags r))
def execVunpk3 (v : VWord) (s : State) : Out := s.issueV (.vunpk3 v) v

def specPack3 : CSpec := { gs := fun n => n = 1 || n = 3 || n = 4, fs := (· = 7), lat := lat8, occ := occOne }

/-- Five elements packed into one byte by their signs; a magnitude above 1 sets ST (R177). -/
def packT5 (g : Fmt) (es : List Elem) : Res1 :=
  let vs := es.map fun a => intValue g.unsigned g.bits a.bits
  let dig (v : Int) : Nat := if v = 0 then 0 else if 0 < v then 1 else 2
  (⟨vs.foldl (fun a v => 3 * a + dig v) 0, es.any (·.bad)⟩, flagIf (vs.any fun v => 1 < v.natAbs) flagST)

/-- VPACK3. -/
def dispatchVpack3 (v : VWord) (x : Env) : Dispatch :=
  let p := specPack3.plan v x.q
  let b := p.base
  let r := (x.convSource v p).map fun row => (chunks (b.e / 5) 5 row).map (packT5 p.g)
  b.run x.q (x.results v.d b.dst (allElems r) (allFlags r))
def execVpack3 (v : VWord) (s : State) : Out := s.issueV (.vpack3 v) v

def specUnpk4 : CSpec := { gs := fun n => n = 5 || n = 6 || n = 13, fs := fun n => n = 1 || n = 2, lat := lat6, occ := occOne }

/-- VUNPK4: sign-extended from INT4, zero-extended from UINT4 and E2M1. -/
def opUnpk4 : ConvOp := fun _ g _ a _ =>
  (if g = .int4 then (intValue false 4 a.bits % 256).toNat else a.bits % 16, 0)

def dispatchVunpk4 (v : VWord) (x : Env) : Dispatch := conversion specUnpk4 (fun _ => opUnpk4) v x
def execVunpk4 (v : VWord) (s : State) : Out := s.issueV (.vunpk4 v) v

def specPack4 : CSpec := { gs := fun n => n = 1 || n = 2, fs := fun n => n = 5 || n = 6 || n = 13, lat := lat6, occ := occOne }

/-- VPACK4: the low four bits, under SAT clamped first for the integer formats. -/
def opPack4 : ConvOp := fun x g _ a _ =>
  if x.sat && x.fmt.isInt then x.fmt.putInt true (intValue g.unsigned 8 a.bits) else (a.bits % 16, 0)

def dispatchVpack4 (v : VWord) (x : Env) : Dispatch := conversion specPack4 (fun _ => opPack4) v x
def execVpack4 (v : VWord) (s : State) : Out := s.issueV (.vpack4 v) v

def specSat : CSpec := { gs := classN, fs := setR, lat := lat6, occ := occOne, inPlaceRange := true }
def dispatchVsat (v : VWord) (x : Env) : Dispatch := conversion specSat opSat v x
def execVsat (v : VWord) (s : State) : Out := s.issueV (.vsat v) v

def specRnd : CSpec := { gs := classF, fs := classF, lat := lat6, occ := occOne, inPlace := true }
def dispatchVrnd (v : VWord) (x : Env) : Dispatch := conversion specRnd (fun _ => opRnd) v x
def execVrnd (v : VWord) (s : State) : Out := s.issueV (.vrnd v) v

end Sys2Proof.Machine
end

