-- ==== Sys2Proof/Machine/Matrix.lean ====
section
/-! DEFINITION. The matrix engine (R183–R199): tile steps, drains, accumulator loads, weight slots. -/

namespace Sys2Proof.Machine

/-! ### Formats (R66, R183, R189) -/

/-- FT fields (R31). -/
def ftField (q : QEntry) (lo n : Nat) : Nat := bitsOf q.cap.ft lo n

/-- MOD in force: the instruction's, or the entry's. -/
def mMod (m : MWord) (q : QEntry) : BitVec 4 := if m.ft then BitVec.ofNat 4 (ftField q 20 4) else m.mod

/-- SFMT of the entry in force, 0 without one. -/
def mSfmt (m : MWord) (q : QEntry) : Nat := if m.ft then ftField q 24 5 else 0

/-- A format field, else a default. -/
def orElseFmt (f d : Nat) : Nat := if f = 0 then d else f

/-- MREP and KSTEPS. -/
def mRep (m : MWord) : Nat := m.mrepM1.val + 1
def mSteps (m : MWord) : Nat := m.kstepM1.val + 1

/-- The integer group of R183. -/
def groupInt (n : Nat) : Bool := n = 1 || n = 2 || n = 5 || n = 6

/-- The float group of R183. -/
def groupFloat (n : Nat) : Bool := (9 ≤ n && n ≤ 13) || (15 ≤ n && n ≤ 18)

/-- A, B and whether the accumulator is INT32; none where R183 is broken. -/
def mFormats (m : MWord) (q : QEntry) : Option (Fmt × Fmt × Bool) :=
  let af := orElseFmt (if m.ft then ftField q 0 5 else m.afmt.toNat) (viewFmt (q.view m.aview))
  let bf := orElseFmt (if m.ft then ftField q 5 5 else m.bfmt.toNat) af
  let cf := if m.ft then ftField q 10 5 else m.cfmt.toNat
  match fmtOf af, fmtOf bf with
  | some a, some b =>
    if groupInt af && groupInt bf && (cf = 0 || cf = 4) then some (a, b, true)
    else if groupFloat af && groupFloat bf && (cf = 0 || cf = 8) then some (a, b, false)
    else none
  | _, _ => none

/-! ### Weight slots (R185, R190, R191) -/

/-- K elements of a slot: dense, or logical K of a sparse one. -/
def slotK (f : Fmt) (sparse : Bool) : Nat := (if sparse then 2 else 1) * 512 / f.bits

/-- Metadata bytes per column. -/
def slotMeta (f : Fmt) (sparse : Bool) : Nat := if sparse then 512 / f.bits / 4 else 0

/-- R: image bytes per column (R191). -/
def slotRow (f : Fmt) (sparse : Bool) : Nat :=
  64 + slotMeta f sparse + if f.isMx then slotK f sparse / 32 * f.scaleBytes else 0

/-- The value of a plain or block element with its scale information (scale + 256 × XV). -/
def mVal (f : Fmt) (bits scale : Nat) : Num := if f.isMx then mxValue f bits (scale % 256) (scale / 256) else f.decode bits

/-- Bytes as elements without marks. -/
def plainElems (bs : List Byte) : List Elem := bs.map fun b => ⟨b.toNat, false⟩

/-- A term of B: the K index within the slot that its A element has, and the value. -/
abbrev BTerm := Nat × Num

/-- The terms of column `n` of a slot: every K index with +0 where the slot is invalid; the stored values with their positions
where it is sparse. -/
def WeightSlot.column (w : WeightSlot) (f : Fmt) (sparse : Bool) (n : Nat) : List BTerm :=
  let total := slotK f sparse
  if !w.valid then (List.range total).map fun k => (k, Num.zero)
  else
    let bs := Memory.readBytes w.image (128 * n) (slotRow f sparse)
    let vs := elemsOf f.bits (plainElems (bs.take 64))
    let md := (bs.drop 64).take (slotMeta f sparse)
    let sc := (chunks (total / 32) f.scaleBytes (plainElems (bs.drop (64 + slotMeta f sparse)))).map fun c => (joinBytes c).bits
    let scales := sc.toArray
    let pos := md.toArray
    vs.zipIdx.map fun v =>
      let k := if sparse then v.2 / 2 * 4 + (pos.getD (v.2 / 4) 0).toNat / 4 ^ (v.2 % 4) % 4 else v.2
      (k, mVal f v.1.bits (scales.getD (k / 32) 0))

/-- The columns of B over some slots, as terms with K indices from 0 upward. -/
def bColumn (ws : List WeightSlot) (f : Fmt) (sparse : Bool) (n : Nat) : List BTerm :=
  ws.zipIdx.flatMap fun w => (w.1.column f sparse n).map fun t => (t.1 + w.2 * slotK f sparse, t.2)

/-! ### Tile steps (R184, R186, R189, R190) -/

/-- Which of the three tile steps. -/
inductive TileKind | mma | mmas | mmat
deriving DecidableEq, Repr

/-- kE (R183). -/
def kElems (k : TileKind) (a b : Fmt) : Nat := (if k = .mmas then 2 else 1) * (512 / max a.bits b.bits)

/-- The slots that a tile step reads, from WSLOT upward. -/
def slotsRead (k : TileKind) (m : MWord) (a b : Fmt) : List (Fin 64) :=
  let n := (mSteps m * kElems k a b + slotK b (k = .mmas) - 1) / slotK b (k = .mmas)
  (List.range n).map fun j => Fin.ofNat 64 (m.wslot.val + j)

/-- The view use that holds A: rows AROW + 32m + i, or for MMAT rows AROW + ka (R184). -/
def aUse (k : TileKind) (m : MWord) (a b : Fmt) : ViewUse :=
  let n := mSteps m * kElems k a b
  if k = .mmat then
    { pos := 1, vw := m.aview, row := m.arow.toNat + m.akb.val * 512 / a.bits, step := 1, off := 0, rows := n,
      bytes := 32 * mRep m * a.bits / 8 }
  else
    { pos := 1, vw := m.aview, row := m.arow.toNat, step := 1, off := 64 * m.akb.val, rows := 32 * mRep m,
      bytes := n * a.bits / 8 }

/-- The view use that holds A's scales (R184). -/
def aScaleUse (k : TileKind) (m : MWord) (a b : Fmt) : List ViewUse :=
  if a.isMx then
    let k0 := m.akb.val * 512 / a.bits
    let n := mSteps m * kElems k a b
    let lo := k0 / 32
    let hi := (k0 + n + 31) / 32
    [{ pos := 3, vw := m.sview, row := m.arow.toNat, step := 1, off := lo * a.scaleBytes, rows := 32 * mRep m,
       bytes := (hi - lo) * a.scaleBytes }]
  else []

/-- The rows of A of a tile step, each with its elements from ka's first index upward. -/
def aRows (k : TileKind) (m : MWord) (a b : Fmt) (x : Env) : List (Array Num) :=
  let u := aUse k m a b
  let t := (x.c.useBytes (x.q.view u.vw) u).map (elemsOf a.bits)
  if k = .mmat then
    let t := t.map List.toArray
    (List.range (32 * mRep m)).map fun i => (t.map fun r => mVal a (r.getD i Elem.zero).bits 0).toArray
  else
    match aScaleUse k m a b with
    | [] => t.map fun r => (r.map fun e => mVal a e.bits 0).toArray
    | s :: _ =>
      let off := m.akb.val * 512 / a.bits % 32
      let sc := (x.c.useBytes (x.q.view s.vw) s).map fun r =>
        ((chunks (r.length / a.scaleBytes) a.scaleBytes r).map fun c => (joinBytes c).bits).toArray
      (t.zip sc).map fun r => (r.1.zipIdx.map fun e => mVal a e.1.bits (r.2.getD ((off + e.2) / 32) 0)).toArray

/-- An accumulator element as a number. -/
def accNum (isInt : Bool) (v : BitVec 32) : Num := if isInt then Num.ofInt v.toInt else fmtFP32.decode v.toNat

/-- The flags that a tile step sets: OF, NV and ST. -/
def tileFlags (f : VFlags) : VFlags := f &&& (flagOF ||| flagNV ||| flagST)

/-- The one rounding of a K step (R186). -/
def roundStep (isInt sat : Bool) (r : Exact × VFlags) : Nat × VFlags :=
  if isInt then
    match r.1 with
    | .ratio neg n _ _ => Fmt.int32.putInt sat (if neg then -(n : Int) else n)
    | _ => (0, 0)
  else
    let y := fmtFP32.round .rne sat 0 r.1
    (y.1, tileFlags (r.2 ||| y.2))

/-- One element over all steps: the terms of each step are summed exactly with the element so far, and rounded once. -/
def tileElem (isInt sat : Bool) (row : Array Num) : List (List BTerm) → Nat × VFlags → Nat × VFlags
  | [], c => c
  | ts :: rest, c =>
    let ps := ts.map fun t => (row.getD t.1 Num.zero).mul t.2
    let r := roundStep isInt sat (sumNums false (accNum isInt (BitVec.ofNat 32 c.1) :: ps))
    tileElem isInt sat row rest (r.1, c.2 ||| r.2)

/-- The terms of a column, step by step from step t on. -/
def stepTerms (kE : Nat) : (steps : Nat) → Nat → List BTerm → List (List BTerm)
  | 0, _, _ => []
  | n + 1, t, ts =>
    ts.takeWhile (fun b => b.1 / kE = t) :: stepTerms kE n (t + 1) (ts.dropWhile fun b => b.1 / kE = t)

/-- One accumulator after a tile step from the value `c0`. -/
def tileAccum (isInt sat : Bool) (rows : List (Array Num)) (cols : List (List (List BTerm))) (c0 : Accum) : Accum × VFlags :=
  let old := c0.bits.toArray
  let rs := rows.zipIdx.flatMap fun r => cols.zipIdx.map fun c =>
    tileElem isInt sat r.1 c.1 ((old.getD (32 * r.2 + c.2) 0).toNat, 0)
  let a := (rs.map fun r => BitVec.ofNat 32 r.1).toArray
  ({ bits := Vector.ofFn fun (i : Fin 1024) => a.getD i.val 0, isInt, marked := c0.marked },
   rs.foldl (fun f r => f ||| r.2) 0)

/-- The format faults of a tile step (R184, R189). -/
def tileFormats (k : TileKind) (m : MWord) (x : Env) : Option (Fmt × Fmt × Bool) :=
  match mFormats m x.q with
  | none => none
  | some (a, b, i) =>
    let sf := mSfmt m x.q
    if (sf ≠ 0 && sf ≠ 14) || (k = .mmat && a.isMx) || m.asc != a.isMx then none
    else
      let bad (w : Fin 64) : Bool :=
        let s := x.c.wslots[w]
        s.valid && (s.fmt.toNat ≠ b.code || s.sparse != (k = .mmas))
      if (slotsRead k m a b).any bad then none else some (a, b, i)

/-- The accumulators that an instruction names. -/
def accRes (m : MWord) : List Res := (List.range (mRep m)).map fun j => .acc (Fin.ofNat 4 (m.acc.val + j))

/-- The weight slots that WBLD and WBINV name. -/
def slotRes (m : MWord) : List Res := (List.range (mSteps m)).map fun j => .wslot (Fin.ofNat 64 (m.wslot.val + j))

/-- A tile step at dispatch. -/
def tileStep (k : TileKind) (m : MWord) (x : Env) : Dispatch :=
  let n := mSteps m * mRep m
  match tileFormats k m x with
  | none => { lat := n + 10, occ := n, fault := some x.q.formatFault }
  | some (a, b, isInt) =>
    let us := aUse k m a b :: aScaleUse k m a b
    match usesFault x.q.view us with
    | some f => { lat := n + 10, occ := n, fault := some f }
    | none =>
      let sat := satOf (mMod m x.q)
      let rows := aRows k m a b x
      let ws := (slotsRead k m a b).map fun (w : Fin 64) => x.c.wslots[w]
      let cols := (List.range 32).map fun c => stepTerms (kElems k a b) (mSteps m) 0 (bColumn ws b (k = .mmas) c)
      let rs := (List.range (mRep m)).map fun j =>
        let acc := Fin.ofNat 4 (m.acc.val + j)
        let c0 := if m.za then Accum.zero else x.c.chainAcc[acc]
        (acc, tileAccum isInt sat ((rows.drop (32 * j)).take 32) cols c0)
      let fl := rs.foldl (fun f r => f ||| r.2.2) (0 : VFlags)
      { lat := n + 10, occ := n, reads := us, writes := accRes m,
        effs := rs.map (fun r => .acc r.1 x.q.seq r.2.1) ++ if fl = 0 then [] else [.vstat fl] }

def dispatchMma (m : MWord) (x : Env) : Dispatch := tileStep .mma m x
def execMma (m : MWord) (s : State) : Out := s.issueM (.mma m)

def dispatchMmas (m : MWord) (x : Env) : Dispatch := tileStep .mmas m x
def execMmas (m : MWord) (s : State) : Out := s.issueM (.mmas m)

def dispatchMmat (m : MWord) (x : Env) : Dispatch := tileStep .mmat m x
def execMmat (m : MWord) (s : State) : Out := s.issueM (.mmat m)

/-! ### Drains (R195, R196) -/

/-- The rows of the accumulators that a drain reads, each with its tag and mark: as landed by its dispatch. -/
def drainRows (m : MWord) (x : Env) : List (Bool × List Elem) :=
  (List.range (mRep m)).flatMap fun j =>
    let a := x.c.acc[Fin.ofNat 4 (m.acc.val + j)]
    (chunks 32 32 (a.bits.toList.map fun b => (⟨b.toNat, a.marked⟩ : Elem))).map fun r => (a.isInt, r)

/-- The destination of a drain: `bytes` of each row from DROW upward. -/
def drainUse (m : MWord) (bytes : Nat) : ViewUse :=
  { pos := 0, vw := m.dview, row := m.drow.toNat, step := 1, off := 0, rows := 32 * mRep m, bytes }

/-- The rounding of a drain: engine 2, subnormals honoured. -/
def drainCtx (m : MWord) (x : Env) (f : Fmt) : Ctx :=
  let md := mMod m x.q
  { fmt := f, mode := roundMode md x.q.rnd, sat := satOf md, flush := false, key := x.sto.key 2 }

/-- The destination format of a drain. -/
def mDrainFmt (m : MWord) (q : QEntry) : Nat :=
  orElseFmt (if m.ft then ftField q 15 5 else m.dfmt.toNat) (viewFmt (q.view m.dview))

/-- The rows of a drain, rounded from element position p. -/
def drainRound (cx : Ctx) (scales : List Elem) : Nat → List (Bool × List Elem) → List (List Res1)
  | _, [] => []
  | p, r :: rs =>
    let g : Fmt := if r.1 then .int32 else .fp32
    mapRow (fun k a s _ => mark2 a s (opRqnt cx g k a s)) p r.2 scales scales :: drainRound cx scales (p + 32) rs

/-- MDRAIN (R195). -/
def dispatchMdrain (m : MWord) (x : Env) : Dispatch :=
  let q := x.q
  let base : Dispatch := { lat := 28, occ := 2 * mRep m }
  let sf := mSfmt m q
  let qv := m.scale = 0
  let qf := viewFmt (q.view m.qview)
  match if setR (mDrainFmt m q) then fmtOf (mDrainFmt m q) else none with
  | none => { base with fault := some q.formatFault }
  | some f =>
    let d := drainUse m (4 * f.bits)
    let base : Dispatch := { base with writes := usesRanges q [d] }
    if (sf ≠ 0 && sf ≠ 8) || (qv && qf ≠ 0 && qf ≠ 8) then { base with fault := some q.formatFault }
    else
      let us := if qv then [{ pos := 3, vw := m.qview, row := 0, step := 1, off := 0, rows := 1, bytes := 128 }] else []
      match usesFault q.view (d :: us) with
      | some e => { base with fault := some e }
      | none =>
        let scales := match us with
          | u :: _ => ((x.c.useBytes (q.view u.vw) u).map (elemsOf 32)).headD []
          | [] => List.replicate 32 ⟨m.scale.toNat, false⟩
        let rs := drainRound (drainCtx m x f) scales 0 (drainRows m x)
        let fl := allFlags rs
        { base with reads := us, effs := writeUse (q.view d.vw) d ((allElems rs).toBytes f.bits) :: if fl = 0 then [] else [.vstat fl] }
def execMdrain (m : MWord) (s : State) : Out := s.issueM (.mdrain m)

/-- The rows of MDRAINMX as blocks, from element position p: scale bytes, element codes, flags. -/
def drainBlocks (cx : Ctx) : Nat → List (Bool × List Elem) → List (List Elem × List Elem × VFlags)
  | _, [] => []
  | p, r :: rs => quantRow cx (if r.1 then .int32 else .fp32) p [r.2] :: drainBlocks cx (p + 32) rs

/-- The destination format of MDRAINMX: DFMT or the entry's, with no view to stand in for 0 (R196). -/
def mDrainMxFmt (m : MWord) (q : QEntry) : Nat := if m.ft then ftField q 15 5 else m.dfmt.toNat

/-- MDRAINMX (R196): elements, then the scale bytes. DESIGN CHOICE (log entry 67): the SAT bit of the format-table entry, which
R196 wants zero without naming a fault, is ignored. -/
def dispatchMdrainmx (m : MWord) (x : Env) : Dispatch :=
  let q := x.q
  let base : Dispatch := { lat := 36, occ := 4 * mRep m }
  let sf := mSfmt m q
  match if setMx (mDrainMxFmt m q) then fmtOf (mDrainMxFmt m q) else none with
  | none => { base with fault := some q.formatFault }
  | some f =>
    let d := drainUse m (4 * f.bits)
    let s := { drainUse m f.scaleBytes with pos := 3, vw := m.qview }
    let base : Dispatch := { base with writes := usesRanges q [d, s] }
    if sf ≠ 0 && sf ≠ 14 then { base with fault := some q.formatFault }
    else
      match usesFault q.view [d, s] with
      | some e => { base with fault := some e }
      | none =>
        let rs := drainBlocks (drainCtx m x f) 0 (drainRows m x)
        let fl := rs.foldl (fun a r => a ||| r.2.2) (0 : VFlags)
        { base with effs := [writeUse (q.view d.vw) d (Tile.toBytes f.bits (rs.map (·.2.1))), writeUse (q.view s.vw) s (rs.map (·.1))]
            ++ if fl = 0 then [] else [.vstat fl] }
def execMdrainmx (m : MWord) (s : State) : Out := s.issueM (.mdrainmx m)

/-! ### Accumulator loads (R197) -/

/-- An accumulator of 32 rows of 32 elements. -/
def accumOf (isInt : Bool) (rows : Tile) : Accum :=
  let es := rows.flatten
  let a := es.toArray
  { bits := Vector.ofFn fun (i : Fin 1024) => BitVec.ofNat 32 (a.getD i.val Elem.zero).bits, isInt, marked := es.any (·.bad) }

/-- MLDAC. -/
def dispatchMldac (m : MWord) (x : Env) : Dispatch :=
  let q := x.q
  let base : Dispatch := { lat := 20, occ := 2 * mRep m }
  let f := orElseFmt m.cfmt.toNat (viewFmt (q.view m.dview))
  if f ≠ 4 && f ≠ 8 then { base with fault := some q.formatFault }
  else
    let u := drainUse m 128
    match usesFault q.view [u] with
    | some e => { base with fault := some e }
    | none =>
      let t := (x.c.useBytes (q.view u.vw) u).map (elemsOf 32)
      { base with
        reads := [u], writes := accRes m,
        effs := (List.range (mRep m)).map fun j =>
          .acc (Fin.ofNat 4 (m.acc.val + j)) q.seq (accumOf (f = 4) ((t.drop (32 * j)).take 32)) }
def execMldac (m : MWord) (s : State) : Out := s.issueM (.mldac m)

/-- MCLR. -/
def dispatchMclr (m : MWord) (x : Env) : Dispatch :=
  { lat := 2, occ := 1, writes := accRes m, effs := (List.range (mRep m)).map fun j => .acc (Fin.ofNat 4 (m.acc.val + j)) x.q.seq Accum.zero }
def execMclr (m : MWord) (s : State) : Out := s.issueM (.mclr m)

/-! ### Weight slots (R192–R194) -/

/-- A slot with column images of R bytes each (R191). -/
def slotOf (f : Fmt) (sparse : Bool) (cols : Tile) : WeightSlot :=
  let r := rowCells ((List.range 32).map (128 * ·)) cols
  let bad := cols.zipIdx.flatMap fun c => (c.1.zipIdx.filter fun b => b.1.bad).map fun b => 128 * c.2 + b.2
  { valid := true, fmt := BitVec.ofNat 5 f.code, sparse, image := r.1.filter fun p => p.2 ≠ 0, marks := bad }

/-- The format of a slot image: one of R183. -/
def slotFmt (n : Nat) : Option Fmt := if groupInt n || groupFloat n then fmtOf n else none

/-- WBLD. -/
def dispatchWbld (m : MWord) (x : Env) : Dispatch :=
  let q := x.q
  let n := mSteps m
  let base : Dispatch := { lat := 7 + n, occ := n }
  match slotFmt (orElseFmt m.bfmt.toNat (viewFmt (q.view m.aview))) with
  | none => { base with fault := some q.formatFault }
  | some f =>
    let r := slotRow f false
    let u : ViewUse := { pos := 1, vw := m.aview, row := m.arow.toNat, step := 1, off := 0, rows := 32, bytes := n * r }
    match usesFault q.view [u] with
    | some e => { base with fault := some e }
    | none =>
      let t := x.c.useBytes (q.view u.vw) u
      { base with
        reads := [u], writes := slotRes m,
        effs := (List.range n).map fun j =>
          .wslot (Fin.ofNat 64 (m.wslot.val + j)) (slotOf f false (t.map fun row => (row.drop (j * r)).take r)) }
def execWbld (m : MWord) (s : State) : Out := s.issueM (.wbld m)

/-- WBINV. -/
def dispatchWbinv (m : MWord) (_ : Env) : Dispatch :=
  { lat := 2, occ := 1, writes := slotRes m, effs := (List.range (mSteps m)).map fun j => .invalidate (Fin.ofNat 64 (m.wslot.val + j)) }
def execWbinv (m : MWord) (s : State) : Out := s.issueM (.wbinv m)

end Sys2Proof.Machine
end

