-- ==== Sys2Proof/Machine/Perm.lean ====
section
/-! DEFINITION. V major 0x07: permutation registers and the Burin (R200–R213). -/

namespace Sys2Proof.Machine

/-! ### Permutations (R200, R201) -/

/-- The positions from `s` along the cycle that holds it, beginning with `cur`; `fuel` bounds the length. -/
def orbitFrom (p : List Nat) (s : Nat) : (fuel : Nat) → Nat → List Nat
  | 0, _ => []
  | n + 1, cur =>
    let nx := (p[cur]?).getD s
    if nx = s then [cur] else cur :: orbitFrom p s n nx

/-- The cycle that holds `s`, beginning with it. -/
def orbitOf (p : List Nat) (s : Nat) : List Nat := orbitFrom p s p.length s

/-- The cycles in ascending order of their smallest positions. -/
def cyclesOf (p : List Nat) : List (List Nat) :=
  ((List.range p.length).map (orbitOf p)).filter fun o => match o with | s :: _ => o.all (s ≤ ·) | [] => false

/-- The cycle summary (R200): the order saturates at 2^32 − 1. -/
def summaryOf (p : List Nat) : CycleSummary :=
  let cs := (cyclesOf p).map List.length
  { cycles := cs.length, fixed := (cs.filter (· = 1)).length, longest := cs.foldl max 0,
    order := min (cs.foldl Nat.lcm 1) (2 ^ 32 - 1) }

/-- A permutation register with its four parts (R200). -/
def makePerm (idx : List Nat) : PermReg :=
  { n := idx.length, idx, settings := Config.benesSettings idx, summary := summaryOf idx }

/-- Position `i` of a permutation. -/
def PermReg.at_ (p : PermReg) (i : Nat) : Nat := (p.idx[i]?).getD 0

/-- The permutation register that an operand names. -/
def permOf (o : Operand) : Fin 16 :=
  match o with
  | .special n => n
  | _ => 0

def Env.perm (x : Env) (o : Operand) : PermReg := x.c.perms[permOf o]

/-- The first offending entry of an index vector (R205). -/
def offendingFrom (n : Nat) : (before : List Int) → List Int → Option Nat
  | _, [] => none
  | bs, e :: es => if e < 0 || (n : Int) ≤ e || bs.contains e then some bs.length else offendingFrom n (bs ++ [e]) es

/-! ### Results of the permutation instructions -/

/-- A dispatch of an instruction that writes a P register: with the latency and the occupancies of R204. -/
def permDispatch (lat burin : Nat) (reads : List ViewUse) (bad : Bool) (x : Env) (d : Fin 16) (r : Option (Cause × Word))
    (p : PermReg) : Dispatch :=
  { lat, occ := 1, burin, reads,
    effs := match r with
      | some _ => []
      | none => [if bad then .poison (Config.poisonAddr x.q.seq) else .perm d p],
    fault := r }

/-- ⌈n / 4⌉. -/
def quarter (n : Nat) : Nat := cdiv n 4

/-- The element format of PLD, PST and PCYCV: UINT8, INT16 or INT32 (R205). -/
def indexFmt (v : VWord) (q : QEntry) (o : Operand) : Option Fmt :=
  match (resolveFmt v.fmt.toNat (q.operandFmt o).toList).bind fmtOf with
  | some .uint8 => some .uint8
  | some .int16 => some .int16
  | some .int32 => some .int32
  | _ => none

/-- N of XFN. -/
def permCount (v : VWord) : Nat := bitsOf v.xfn 0 9

/-- An FMT that the table does not allow is an illegal format (R202). -/
def needFmt0 (v : VWord) (q : QEntry) : Option (Cause × Word) := if v.fmt = 0 then none else some q.formatFault

/-! ### PLD, PST (R205, R206) -/

/-- PLD (R205): marked data raises poison, whatever its values (R356). -/
def dispatchPld (v : VWord) (x : Env) : Dispatch :=
  let n := permCount v
  let d := permOf v.d
  let go := permDispatch (40 + quarter n) (quarter n)
  match indexFmt v x.q v.s1 with
  | none => go [] false x d (some x.q.formatFault) PermReg.identity256
  | some f =>
    let us := (useOf 1 v.s1 1 (n * f.size)).toList
    match usesFault x.q.view us with
    | some r => go [] false x d (some r) PermReg.identity256
    | none =>
      let es := elemsOf f.bits ((x.c.operandBytes x.q v.s1 1 (n * f.size)).flatten)
      if es.any (·.bad) then go us true x d none PermReg.identity256
      else
        match offendingFrom n [] (es.map fun a => intValue f.unsigned f.bits a.bits) with
        | some k => go us false x d (some (.permInvalid, BitVec.ofNat 64 k)) PermReg.identity256
        | none => go us false x d none (makePerm (es.map (·.bits)))
def execPld (v : VWord) (s : State) : Out := s.issueV (.pld v) v

/-- The values of a view row written by PST and PCYCV: one row of elements of a format. -/
def storeRow (lat : Nat) (v : VWord) (x : Env) (vals : List Nat) : Dispatch :=
  match indexFmt v x.q v.d with
  | none => { lat, occ := 1, fault := some x.q.formatFault }
  | some f =>
    match useOf 0 v.d 1 (vals.length * f.size) with
    | none => { lat, occ := 1, fault := some x.q.formatFault }
    | some u =>
      match usesFault x.q.view [u] with
      | some r => { lat, occ := 1, fault := some r, writes := usesRanges x.q [u] }
      | none =>
        { lat, occ := 1, writes := usesRanges x.q [u],
          effs := [writeUse (x.q.view u.vw) u (Tile.toBytes f.bits [vals.map fun k => ⟨k % 2 ^ f.bits, false⟩])] }

def dispatchPst (v : VWord) (x : Env) : Dispatch := storeRow (8 + cdiv (x.perm v.s1).n 64) v x (x.perm v.s1).idx
def execPst (v : VWord) (s : State) : Out := s.issueV (.pst v) v

/-! ### PCOMP, PINV, PPOW, PXCH (R208) -/

/-- A permutation computed from Pa. -/
def fromPerm (lat burin : Nat) (v : VWord) (x : Env) (r : Option (Cause × Word)) (idx : List Nat) : Dispatch :=
  permDispatch lat burin [] false x (permOf v.d) ((needFmt0 v x.q).or r) (makePerm idx)

/-- The inverse of an index vector. -/
def inverseOf (p : List Nat) : List Nat := (List.range p.length).map fun i => p.findIdx (· = i)

def dispatchPcomp (v : VWord) (x : Env) : Dispatch :=
  let a := x.perm v.s1
  let b := x.perm (src2Operand v.s2)
  fromPerm (30 + quarter a.n) (quarter a.n) v x
    (if a.n = b.n then none else some (.permInvalid, BitVec.ofNat 64 b.n)) (a.idx.map b.at_)
def execPcomp (v : VWord) (s : State) : Out := s.issueV (.pcomp v) v

def dispatchPinv (v : VWord) (x : Env) : Dispatch :=
  let a := x.perm v.s1
  fromPerm (30 + quarter a.n) (quarter a.n) v x none (inverseOf a.idx)
def execPinv (v : VWord) (s : State) : Out := s.issueV (.pinv v) v

/-- S2 of PPOW and PXCH: a register's value, or LIT32, signed for PPOW. -/
def permArg (v : VWord) (x : Env) : Word :=
  match v.s2 with
  | .lit l => l.signExtend 64
  | .op (.reg n) => x.q.reg n
  | .op _ => 0

/-- The k-th power (R208). -/
def powerOf (p : List Nat) (k : Int) : List Nat :=
  (List.range p.length).map fun i =>
    let o := orbitOf p i
    let t := k.natAbs % o.length
    (o[if 0 ≤ k then t else (o.length - t) % o.length]?).getD i

def dispatchPpow (v : VWord) (x : Env) : Dispatch :=
  let a := x.perm v.s1
  fromPerm (60 + quarter a.n) (2 * quarter a.n) v x none (powerOf a.idx (permArg v x).toInt)
def execPpow (v : VWord) (s : State) : Out := s.issueV (.ppow v) v

def dispatchPxch (v : VWord) (x : Env) : Dispatch :=
  let a := x.perm v.s1
  let w := permArg v x
  let i := bitsOf w 0 8
  let j := bitsOf w 8 8
  fromPerm (30 + quarter a.n) (quarter a.n) v x
    (if i < a.n && j < a.n then none else some (.permInvalid, BitVec.ofNat 64 (bitsOf w 0 16)))
    ((a.idx.set i (a.at_ j)).set j (a.at_ i))
def execPxch (v : VWord) (s : State) : Out := s.issueV (.pxch v) v

/-! ### PRAND, PIDN (R207) -/

/-- The Fisher–Yates draw: steps `s`, `s + 1`, … -/
def shuffleSteps (seed n : Nat) : (k : Nat) → Nat → List Nat → List Nat
  | 0, _, a => a
  | k + 1, s, a =>
    let i := n - 1 - s
    let w := philox seed s 0 0 0x40000000
    let u := (w[1]?).getD 0 * 2 ^ 32 + (w[0]?).getD 0
    let j := u * (i + 1) / 2 ^ 64
    shuffleSteps seed n k (s + 1) ((a.set i ((a[j]?).getD 0)).set j ((a[i]?).getD 0))

/-- A random permutation from a seed. -/
def randomPerm (seed n : Nat) : List Nat := shuffleSteps seed n (n - 1) 0 (List.range n)

def dispatchPrand (v : VWord) (x : Env) : Dispatch :=
  let n := permCount v
  let seed := match v.s1 with | .reg r => (x.q.reg r).toNat | _ => 0
  fromPerm (48 + cdiv n 2) (cdiv n 2) v x none (randomPerm seed n)
def execPrand (v : VWord) (s : State) : Out := s.issueV (.prand v) v

def dispatchPidn (v : VWord) (x : Env) : Dispatch := fromPerm 6 0 v x none (List.range (permCount v))
def execPidn (v : VWord) (s : State) : Out := s.issueV (.pidn v) v

/-! ### PCYC, PCYCV (R209) -/

def dispatchPcyc (v : VWord) (x : Env) : Dispatch :=
  let y := (x.perm v.s1).summary
  match needFmt0 v x.q, v.d with
  | some r, _ => { lat := 24, occ := 1, fault := some r }
  | none, .reg n =>
    { lat := 24, occ := 1,
      effs := [y.cycles, y.fixed, y.longest, y.order].zipIdx.map fun p => .x (regPlus n p.2) (BitVec.ofNat 64 p.1) }
  | none, _ => { lat := 24, occ := 1 }
def execPcyc (v : VWord) (s : State) : Out := s.issueV (.pcyc v) v

/-- The number of the cycle that holds each position. -/
def cycleNumbers (p : List Nat) : List Nat :=
  let cs := cyclesOf p
  (List.range p.length).map fun i => cs.findIdx (·.contains i)

def dispatchPcycv (v : VWord) (x : Env) : Dispatch :=
  storeRow (24 + cdiv (x.perm v.s1).n 16) v x (cycleNumbers (x.perm v.s1).idx)
def execPcycv (v : VWord) (s : State) : Out := s.issueV (.pcycv v) v

/-! ### VPERM (R210) -/

/-- The geometry of VPERM: S1 supplies a window of N rows. -/
def specPerm (n : Nat) : VSpec :=
  { cls := classX, lat := lat6, occ := occOne, s1Shape := fun _ e s => (n, e * s) }

/-- The plan of VPERM with its own faults. -/
def permPlan (v : VWord) (q : QEntry) (n : Nat) : VPlan :=
  let p := (specPerm n).plan false v q
  let ring := match v.s1 with | .ring _ => true | _ => false
  match p.fault with
  | some (.viewBounds, b) => if ring && 32 < n then { p with fault := some q.shapeFault } else { p with fault := some (.viewBounds, b) }
  | some f => { p with fault := some f }
  | none =>
    if ring && 32 < n then { p with fault := some q.shapeFault }
    else if n < p.rows then { p with fault := some (.permInvalid, BitVec.ofNat 64 p.rows) }
    else p

def dispatchVperm (v : VWord) (x : Env) : Dispatch :=
  let a := x.perm (src2Operand v.s2)
  let p := permPlan v x.q a.n
  let f := p.fmt
  let win := x.c.sourceTile x.q f (.op v.s1) a.n p.e
  let s1 := (List.range p.rows).map fun i => (win[a.at_ i]?).getD []
  let d := x.oldTile v f p.rows p.e (v.pm ≠ 0 && !v.bit21)
  let r := mapTile (predicated v (x.c.maskOf v.pm) fun _ a _ _ => (a, 0)) p.e 0 s1 s1 d
  p.run x.q (x.results v.d p.dst ((allElems r).toBytes f.bits) 0)
def execVperm (v : VWord) (s : State) : Out := s.issueV (.vperm v) v

/-! ### A permutation applied in flight (R211) -/

/-- XFN 15:12 of a transfer with PEN. -/
def flightPerm (v : VWord) : Option (Fin 16) := if v.bit21 then some (Fin.ofNat 16 (bitsOf v.xfn 12 4)) else none

/-- The window row of each of T rows of a load or copy; the window of a store. Without a permutation, the row itself. -/
def Core.flightMap (c : Core) (v : VWord) (t : Nat) : List Nat :=
  match flightPerm v with
  | some k => (c.perms[k]).idx
  | none => List.range t

/-- More rows than the permutation has (R211). -/
def Core.flightFault (c : Core) (v : VWord) (t : Nat) : Option (Cause × Word) :=
  match flightPerm v with
  | some k => if (c.perms[k]).n < t then some (.permInvalid, BitVec.ofNat 64 t) else none
  | none => none

end Sys2Proof.Machine
end

