-- ==== Sys2Proof/Machine/Transfer.lean ====
section
/-! DEFINITION. The load and store engines (R217–R228): where the bytes of a tile lie, declared latencies, loads, stores, and
the other instructions of the load engine. -/

namespace Sys2Proof.Machine

/-! ### Where the bytes of a tile lie (R218, R229, R256) -/

/-- What accesses memory: a load, a store, or a copy. -/
inductive Mover | load | store | copyFrom | copyTo
deriving DecidableEq, Repr

def Mover.right : Mover → Right
  | .load | .copyFrom => .read
  | .store | .copyTo => .write

/-- Consecutive bytes of a tile row at one place. -/
structure Seg where
  row : Nat
  x   : Nat
  n   : Nat
  va  : Nat
  loc : Loc
deriving DecidableEq, Repr

/-- What stands at an address for a mover of core `c`, or its fault (R92, R218, R256, R261, R377). -/
def State.reach (s : State) (c : CoreId) (m : Mover) (va : Nat) : Except (Cause × Word) Loc :=
  let a : Word := BitVec.ofNat 64 va
  if va < plateSize then
    if trapWindow ≤ va then .error (.platePrivilege, a) else .ok ⟨.plate c, va⟩
  else
    match s.translate c va with
    | none => .error (.accessFault, a)
    | some l =>
      match l.loc va with
      | none => .error (.accessFault, a)
      | some p =>
        match p.sp with
        | .plate g =>
          if trapWindow ≤ p.addr then .error (.platePrivilege, a)
          else if !l.allows m.right then .error (.accessFault, a)
          else if !s.mates c g then .error (.groupViolation, a)
          else .ok p
        | .hbm | .tier2 => if l.allows m.right then .ok p else .error (.accessFault, a)
        | .wstore d => if m = .load && l.allows .read && d = dieOf c then .ok p else .error (.accessFault, a)
        | .peer _ | .host =>
          if (m = .copyFrom || m = .copyTo) && l.allows m.right then .ok p else .error (.accessFault, a)

/-- A row's bytes cut at 64 KiB boundaries and placed. -/
def State.rowSegs (s : State) (c : CoreId) (m : Mover) (row : Nat) :
    (fuel : Nat) → Nat → Nat → Nat → List (Except (Cause × Word) Seg)
  | 0, _, _, _ => []
  | f + 1, x, va, n =>
    if n = 0 then []
    else
      let va := va % 2 ^ 48
      let k := min n (65536 - va % 65536)
      let here := match s.reach c m va with
        | .ok loc => .ok ⟨row, x, k, va, loc⟩
        | .error e => .error e
      here :: s.rowSegs c m row f (x + k) (va + k) (n - k)

/-- The fault at the lowest address. -/
def lowestFault (es : List (Cause × Word)) : Option (Cause × Word) :=
  es.foldl (fun a e => match a with | none => some e | some b => if e.2.toNat < b.2.toNat then some e else a) none

/-- Errors and values apart. -/
def errorsOf {α : Type} (l : List (Except (Cause × Word) α)) : List (Cause × Word) :=
  l.filterMap fun e => match e with | .error r => some r | .ok _ => none

def valuesOf {α : Type} (l : List (Except (Cause × Word) α)) : List α :=
  l.filterMap fun e => match e with | .error _ => none | .ok v => some v

/-- The placed bytes of each of some rows. -/
def State.tileSegs (s : State) (c : CoreId) (m : Mover) (b : StreamBinding) (idx : Nat → Option Int) (rows : Nat) :
    List (List (Except (Cause × Word) Seg)) :=
  (List.range rows).map fun r =>
    match b.rowRun (idx r) r with
    | some run => s.rowSegs c m r 3 0 run.addr run.n
    | none => []

/-- The classes of R218. -/
inductive TClass | own | wstore | hbm | near (g : CoreId) | far (g : CoreId) | tier2
deriving DecidableEq, Repr

def classOf (c : CoreId) (l : Loc) : TClass :=
  match l.sp with
  | .plate g => if g = c then .own else if dieOf g = dieOf c then .near g else .far g
  | .wstore _ => .wstore
  | .tier2 => .tier2
  | _ => .hbm

/-- The class of a tile, and the access fault of a mixed one. -/
def tileClass (c : CoreId) (segs : List Seg) : Except (Cause × Word) TClass :=
  match segs with
  | [] => .ok .own
  | g :: gs =>
    let k := classOf c g.loc
    match ((gs.filter fun h => classOf c h.loc ≠ k).map (·.va)).min? with
    | some a => .error (.accessFault, BitVec.ofNat 64 a)
    | none => .ok k

/-- L and occupancy for B bytes (R218, R264). -/
def classTiming (k : TClass) (wsched : Bool) (b : Nat) : Nat × Nat :=
  match k with
  | .own => (8 + cdiv b 512, cdiv b 512)
  | .wstore => ((if wsched then 96 else 128) + cdiv b 512, cdiv b 512)
  | .hbm => (1280 + cdiv b 256, cdiv b 256)
  | .near _ => (160 + cdiv b 256, cdiv b 256)
  | .far _ => (480 + cdiv b 256, cdiv b 256)
  | .tier2 => (3200 + cdiv b 64, cdiv b 64)

/-- A tile placed whole: its segments by row and its class, or its fault (R217, R218). -/
def State.placeTile (s : State) (c : CoreId) (m : Mover) (b : StreamBinding) (idx : Nat → Option Int) (rows : Nat) :
    Except (Cause × Word) (List (List Seg) × TClass) :=
  match b.boundsFault idx rows with
  | some a => .error (.accessFault, BitVec.ofNat 64 a)
  | none =>
    let t := s.tileSegs c m b idx rows
    match lowestFault (errorsOf t.flatten) with
    | some e => .error e
    | none =>
      let segs := t.map valuesOf
      match tileClass c segs.flatten with
      | .error e => .error e
      | .ok k => .ok (segs, k)

/-! ### Captured streams -/

/-- The binding that an instruction captured for a handle. -/
def QEntry.stream (q : QEntry) (o : Operand) : Option StreamBinding :=
  match o with
  | .reg n => (q.cap.streams.find? (·.handle = n)).map (·.bind)
  | _ => none

/-- The shape-limit fault of a transfer (R377). -/
def streamShape (b : StreamBinding) : Cause × Word :=
  (.shapeLimit, BitVec.ofNat 64 (srTrows b.record + srTrb b.record * 65536))

/-- MODE.WSCHED at issue. -/
def QEntry.wsched (q : QEntry) : Bool := bitOf q.cap.mode 2

/-- B. -/
def tileSize (b : StreamBinding) : Nat := srTrows b.record * srTrb b.record

/-- Segments cut at 2,048-byte boundaries (R341). -/
def Seg.pieces (g : Seg) : List Seg :=
  (packetPieces (g.n / 2048 + 2) g.loc.addr g.n).map fun p =>
    let k := p.1 - g.loc.addr
    { g with x := g.x + k, n := p.2, va := g.va + k, loc := { g.loc with addr := p.1 } }

/-- Read requests of the core in focus for some pieces. -/
def State.postReads (s : State) (of_ : Carrier) (last : Bool) (gs : List Seg) : State :=
  gs.foldl (fun s g =>
    match s.packetFor s.cur g.loc.sp g.loc.addr g.n true
        { src := s.cur, of_, known := [], ops := [.read g.loc.sp g.loc.addr g.n last] } with
    | some p => s.post p
    | none => s) s

/-- Bytes of the own Plate among segments. -/
def ownRanges (c : CoreId) (segs : List Seg) : List (Nat × Nat) :=
  segs.filterMap fun g => if g.loc.sp = .plate c then some (g.loc.addr, g.n) else none

/-! ### Loads (R219, R221) -/

/-- A run of bytes at a place cut at granules: n bytes from offset `to_` on. -/
def granuleRuns (pois : Nat) : (fuel : Nat) → Nat → Nat → Loc → Nat → List LoadRun
  | 0, _, _, _, _ => []
  | f + 1, to_, va, loc, n =>
    if n = 0 then []
    else
      let k := min n (64 - loc.addr % 64)
      { to_, n := k, src := some loc, va, pois, data := [], bad := false, again := false } ::
        granuleRuns pois f (to_ + k) (va + k) { loc with addr := loc.addr + k } (n - k)

/-- Pad bytes of a row. -/
def padRun (r : StreamRecord) (to_ : Nat) : LoadRun :=
  { to_, n := srTrb r, src := none, va := 0, pois := 0, data := (List.range (srTrb r)).map fun x => BitVec.ofNat 8 (srPad r x),
    bad := false, again := false }

/-- The bytes of one row, bytes `lo` to `hi − 1` of it, landing from offset `to_` on: padding first, then what is read. -/
def rowLoad (r : StreamRecord) (segs : List Seg) (lo hi to_ : Nat) : List LoadRun :=
  let pad := if (segs.map (·.n)).foldl (· + ·) 0 < srTrb r then
      let p := padRun r to_
      [{ p with n := hi - lo, data := (p.data.drop lo).take (hi - lo) }]
    else []
  pad ++ segs.flatMap fun g =>
    let a := max lo g.x
    let b := min hi (g.x + g.n)
    if a < b then granuleRuns (srPois r) (b - a) (to_ + a - lo) (g.va + a - g.x) { g.loc with addr := g.loc.addr + a - g.x } (b - a)
    else []

/-- A run read from memory now, by its poison policy (R219): `last` is the second read under REPLAY_THEN_ZERO. -/
def State.sampleRun (s : State) (die : DieId) (last : Bool) (r : LoadRun) : State × LoadRun :=
  match r.src with
  | none => (s, r)
  | some l =>
    let x := s.loadLoc l r.n
    if !x.2 then (s, { r with src := none, data := x.1, again := false })
    else
      let zeros := List.replicate r.n (0#8)
      match r.pois with
      | 0 => (s, { r with src := none, data := x.1, bad := true, again := false })
      | 1 => (s.lifeAdd die (lifeOther 0) 1, { r with src := none, data := zeros, again := false })
      | _ =>
        if last then (s.lifeAdd die (lifeOther 1) 1, { r with src := none, data := zeros, again := false })
        else (s, { r with again := true })

/-- Every run read. -/
def State.sampleRuns (s : State) (die : DieId) (last : Bool) : List LoadRun → State × List LoadRun
  | [] => (s, [])
  | r :: rs =>
    let a := s.sampleRun die last r
    let b := a.1.sampleRuns die last rs
    (b.1, a.2 :: b.2)

/-- The runs of an effect. -/
def Eff.runs : Eff → List LoadRun
  | .fills rs => rs
  | .slots _ _ _ _ rs => rs
  | _ => []

def Eff.withRuns (e : Eff) (rs : List LoadRun) : Eff :=
  match e with
  | .fills _ => .fills rs
  | .slots a n f sp _ => .slots a n f sp rs
  | e => e

/-- The touches of one access that reads some runs (R259): one for each Plate that it reads in. -/
def State.touchRuns (s : State) (rs : List LoadRun) : State :=
  let at_ (c : CoreId) : List Nat := rs.flatMap fun r => match r.src with
    | some l => if l.sp = .plate c then List.range' l.addr r.n else []
    | none => []
  let cs := (rs.filterMap fun r => match r.src with
    | some l => match l.sp with | .plate c => some c | _ => none
    | none => none).eraseDups
  cs.foldl (fun s c => s.modCore c fun k => k.readTouch (at_ c)) s

/-- The bytes of every load among some effects read. -/
def State.readEffs (s : State) (die : DieId) (last : Bool) : List Eff → State × List Eff
  | [] => (s, [])
  | e :: es =>
    let a := s.sampleRuns die last e.runs
    let b := a.1.readEffs die last es
    (b.1, e.withRuns a.2 :: b.2)

/-- Runs in the own Plate. -/
def ownRuns (c : CoreId) (rs : List LoadRun) : List (Nat × Nat) :=
  rs.filterMap fun r => match r.src with
    | some l => if l.sp = .plate c then some (l.addr, r.n) else none
    | none => none

/-- Cells and marked lines of runs that have been read; a run with a mark marks the lines its bytes lie in. -/
def runCells (rs : List LoadRun) : List (Nat × Byte) × List Nat :=
  (rs.flatMap fun r => cellsFrom r.to_ r.data,
   (rs.filter (·.bad)).flatMap fun r => granules r.to_ r.n)

/-- Image bytes of weight slot `w` among the offsets of load runs. -/
def slotKey (w : Nat) : Nat := plateSize + 4096 * w

/-- Slot `w` of a load. -/
def slotFromRuns (w : Nat) (fmt : BitVec 5) (sparse : Bool) (rs : List LoadRun) : WeightSlot :=
  let mine := rs.filter fun r => slotKey w ≤ r.to_ && r.to_ < slotKey w + 4096
  { valid := true, fmt, sparse,
    image := Memory.writeCells [] (mine.flatMap fun r => cellsFrom (r.to_ - slotKey w) r.data),
    marks := (mine.filter (·.bad)).flatMap fun r => List.range' (r.to_ - slotKey w) r.n }

/-- Fault-only dispatch of a transfer; its destinations in the Plate stay held until it would have landed (R123). -/
def faultAt (lat occ : Nat) (f : Cause × Word) (writes : List Res) : Dispatch := { lat, occ, fault := some f, writes }

/-- The own Plate bytes of a tile in memory, as far as its rows have a place. -/
def State.ownTile (s : State) (b : StreamBinding) (idx : Nat → Option Int) (rows : Nat) : List Res :=
  (ownRanges s.cur (valuesOf (s.tileSegs s.cur .store b idx rows).flatten)).map fun g => .plate g.1 g.2

/-- The view rows that a load fills. -/
def loadUse (v : VWord) (b : StreamBinding) : List ViewUse := (useOf 0 v.d (srTrows b.record) (srTrb b.record)).toList

/-- The latency and occupancy a transfer has when it faults: those of its tile where it lies in one class, else of HBM. Log entry
16. -/
def faultTiming (k : Except (Cause × Word) (List (List Seg) × TClass)) (q : QEntry) (b : StreamBinding) : Nat × Nat :=
  match k with
  | .ok (_, k) => classTiming k q.wsched (tileSize b)
  | .error _ => classTiming .hbm q.wsched (tileSize b)

/-- The rows that a transfer of T rows moves and the window they come from or go to: for each destination row its window row
(R211). -/
def Core.windowRows (c : Core) (v : VWord) (t : Nat) : Nat := (c.flightMap v t).length

/-- A load into the destination view, with the indices of its rows and its extra latency (R221). -/
def loadTile (v : VWord) (x : Env) (s : State) (b : StreamBinding) (idx : Nat → Option Int) (badRow : Nat → Bool)
    (extra : Nat) (ix : List LoadRun) : Dispatch :=
  let r := b.record
  let t := srTrows r
  let map := x.c.flightMap v t
  let us := loadUse v b
  let p := s.placeTile s.cur .load b idx map.length
  let ft := faultTiming p x.q b
  let fail (f : Cause × Word) : Dispatch := faultAt (extra + ft.1) ft.2 f (usesRanges x.q us)
  match ((x.c.flightFault v t).or (usesFault x.q.view us)) with
  | some f => fail f
  | none =>
    match p, us with
    | .error f, _ => fail f
    | .ok _, [] => fail x.q.formatFault
    | .ok (segs, k), u :: _ =>
      let w := classTiming k x.q.wsched (tileSize b)
      let sg := segs.toArray
      let runs := ((u.offsets (x.q.view u.vw)).zip map).flatMap fun (o : Nat × Nat) =>
        (rowLoad r (sg.getD o.2 []) 0 (srTrb r) o.1).map fun l =>
          if badRow o.2 then { l with bad := true } else l
      { lat := extra + w.1, occ := w.2,
        ranges := ownRuns s.cur ix ++ (if k = .own then ownRanges s.cur segs.flatten else []), touched := ix,
        writes := usesRanges x.q us,
        effs := [.fills runs], atOnce := k = .own }

/-- Plain rows. -/
def noIndex : Nat → Option Int := fun _ => none

def dispatchTld (v : VWord) (x : Env) (s : State) : Dispatch :=
  match x.q.stream v.s1 with
  | some b => loadTile v x s b noIndex (fun _ => false) 0 []
  | none => {lat := 1, occ := 1 }
def execTld (v : VWord) (s : State) : Out := s.issueV (.tld v) v

/-! ### Index tiles (R221, R223) -/

/-- Bytes of an index element. -/
def indexSize (r : StreamRecord) : Nat := ((fmtOf (srIfmt r)).map Fmt.size).getD 0

/-- The index stream of an indexed transfer, its tile placed; or its fault. -/
def State.indexTile (s : State) (q : QEntry) (b : StreamBinding) :
    Except (Cause × Word) (StreamBinding × List (List Seg) × TClass) :=
  let r := b.record
  match (q.cap.streams.find? (·.handle = srIdxh r)).map (·.bind) with
  | none => .error (streamShape b)
  | some ib =>
    if !srIdxv r || tileSize ib ≠ srTrows r * indexSize r then .error (streamShape ib)
    else
      match s.placeTile s.cur .load ib noIndex (srTrows ib.record) with
      | .error e => .error e
      | .ok (segs, k) => .ok (ib, segs, k)

/-- The runs of an index tile, byte x of row r at offset 4,096 r + x. -/
def indexRuns (ib : StreamBinding) (segs : List (List Seg)) : List LoadRun :=
  segs.zipIdx.flatMap fun g => rowLoad ib.record g.1 0 (srTrb ib.record) (4096 * g.2)

/-- The indices that an index tile's bytes give, with their marks. DESIGN CHOICE (log entry 77): a marked index byte marks the row that a
TLDI loads through it, and a TSTI ignores the mark. -/
def indexValues (b ib : StreamBinding) (rs : List LoadRun) : List (Int × Bool) :=
  let m := Memory.writeCells [] (rs.flatMap fun l => cellsFrom l.to_ l.data)
  let bad := rs.flatMap fun l => if l.bad then List.range' l.to_ l.n else []
  let at_ (k : Nat) : Elem := ⟨(Memory.read m k).toNat, bad.contains k⟩
  let bytes := (List.range (srTrows ib.record)).flatMap fun r => (List.range (srTrb ib.record)).map fun x => at_ (4096 * r + x)
  ((chunks (srTrows b.record) (indexSize b.record) bytes).map joinBytes).map fun e =>
    (intValue (srIfmt b.record = 2) (8 * indexSize b.record) e.bits, e.bad)

/-- An index tile has been fetched whole. -/
def IndexFetch.held (f : IndexFetch) : Bool := f.num ≠ 0 && f.out.isEmpty && f.runs.all fun r => r.src.isNone

/-- The indices of an indexed transfer with what is read of the own Plate for them, none where they are not at hand yet; or its
fault. An index tile in the own Plate is read at dispatch, one elsewhere has been fetched (R221, R223). -/
def State.indexRows (s : State) (q : QEntry) (b : StreamBinding) :
    Except (Cause × Word) (Option (List (Int × Bool) × List LoadRun)) :=
  match s.indexTile q b with
  | .error e => .error e
  | .ok (ib, segs, k) =>
    match s.cpu.ahead.find? fun f => f.seq = q.seq && f.held with
    | some f => .ok (some (indexValues b ib f.runs, if k = .own then indexRuns ib segs else []))
    | none =>
      if k ≠ .own then .ok none
      else
        let rs := (s.sampleRuns (dieOf s.cur) false (indexRuns ib segs)).2
        .ok (if rs.any (·.again) then none else some (indexValues b ib rs, indexRuns ib segs))

/-- The added latency of the index tile: 8 + ⌈I / 512⌉. -/
def indexExtra (b : StreamBinding) : Nat := 8 + cdiv (srTrows b.record * indexSize b.record) 512

def dispatchTldi (v : VWord) (x : Env) (s : State) : Dispatch :=
  match x.q.stream v.s1 with
  | some b =>
    match s.indexRows x.q b with
    | .error f => let w := classTiming .hbm x.q.wsched (tileSize b); faultAt (indexExtra b + w.1) w.2 f (usesRanges x.q (loadUse v b))
    | .ok none => loadTile v x s b noIndex (fun _ => false) (indexExtra b) []
    | .ok (some (is, ix)) =>
      let a := is.toArray
      loadTile v x s b (fun k => some (a.getD k (0, false)).1) (fun k => (a.getD k (0, false)).2) (indexExtra b) ix
  | none => { lat := 1, occ := 1 }

/-! ### TLDW (R222) -/

/-- First slot and count of XFN. -/
def tldwFirst (v : VWord) : Nat := bitsOf v.xfn 0 6
def tldwCount (v : VWord) : Nat := bitsOf v.xfn 6 6 + 1

def dispatchTldw (v : VWord) (x : Env) (s : State) : Dispatch :=
  match x.q.stream v.s1 with
  | none => { lat := 1, occ := 1 }
  | some b =>
    let r := b.record
    let n := tldwCount v
    let map := x.c.flightMap v (srTrows r)
    let p := s.placeTile s.cur .load b noIndex map.length
    let ft := faultTiming p x.q b
    let slots : List Res := (List.range n).map fun j => .wslot (Fin.ofNat 64 (tldwFirst v + j))
    let fail (f : Cause × Word) : Dispatch := faultAt ft.1 ft.2 f slots
    match slotFmt (srFmt r) with
    | none => fail x.q.formatFault
    | some f =>
      let size := slotRow f (srSparse r)
      if srTrows r ≠ 32 || srTrb r ≠ n * size then fail (streamShape b)
      else
        match x.c.flightFault v 32, p with
        | some e, _ => fail e
        | none, .error e => fail e
        | none, .ok (segs, k) =>
          let w := classTiming k x.q.wsched (tileSize b)
          let sg := segs.toArray
          let runs := ((map.take 32).zipIdx).flatMap fun c =>
            (List.range n).flatMap fun j =>
              rowLoad r (sg.getD c.1 []) (j * size) ((j + 1) * size) (slotKey (tldwFirst v + j) + 128 * c.2)
          { lat := w.1, occ := w.2, ranges := if k = .own then ownRanges s.cur segs.flatten else [],
            writes := slots,
            effs := [.slots (Fin.ofNat 64 (tldwFirst v)) n (BitVec.ofNat 5 f.code) (srSparse r) runs], atOnce := k = .own }
def execTldw (v : VWord) (s : State) : Out := s.issueV (.tldw v) v

/-! ### Stores (R219, R227) -/

/-- Bytes of one row with their marks written at a segment; under ZERO on the destination marked bytes are zeros. -/
def segCells (pois : Nat) (g : Seg) (row : List Elem) (keep : Nat → Bool) : List (Nat × Elem) :=
  (((row.drop g.x).take g.n).zipIdx.filter fun b => keep (g.x + b.2)).map fun b =>
    (g.loc.addr + b.2, if b.1.bad && pois = 1 then Elem.zero else b.1)

/-- Cells as plain stores: those without marks, then those with. -/
def storeOps (sp : Space) (cells : List (Nat × Elem)) : List PortOp :=
  let put (bad : Bool) : List PortOp :=
    let cs := (cells.filter fun p => p.2.bad = bad).map fun p => (p.1, BitVec.ofNat 8 p.2.bits)
    if cs.isEmpty then [] else [.bytes sp cs bad]
  put false ++ put true

/-- A store of a tile of bytes: to each window row the tile row that the permutation gives it, the bytes that `keep` selects. -/
def storeTile (v : VWord) (x : Env) (s : State) (b : StreamBinding) (idx : Nat → Option Int) (keep : Nat → Nat → Bool)
    (extra : Nat) (ix : List LoadRun) : Dispatch :=
  let r := b.record
  let t := srTrows r
  let map := x.c.flightMap v t
  let us := (useOf 1 v.s1 t (srTrb r)).toList
  let p := s.placeTile s.cur .store b idx map.length
  let ft := faultTiming p x.q b
  let fail (f : Cause × Word) : Dispatch := faultAt (extra + ft.1) ft.2 f (s.ownTile b idx map.length)
  match ((x.c.flightFault v t).or (usesFault x.q.view us)) with
  | some f => fail f
  | none =>
    match p, us with
    | .error f, _ => fail f
    | .ok _, [] => fail x.q.formatFault
    | .ok (segs, k), u :: _ =>
      let w := classTiming k x.q.wsched (tileSize b)
      let tile := (x.c.useBytes (x.q.view u.vw) u).toArray
      let writes := (segs.zip map).flatMap fun g =>
        if g.2 < t then (g.1.flatMap Seg.pieces).map fun h => (h, segCells (srPois r) h (tile.getD g.2 []) (keep g.2)) else []
      let base : Dispatch := { lat := extra + w.1, occ := w.2, reads := us, ranges := ownRuns s.cur ix, touched := ix }
      if k = .own then
        let cs := writes.flatMap (·.2)
        { base with
          writes := (ownRanges s.cur segs.flatten).map fun g => .plate g.1 g.2,
          mapped := segs.flatten.any fun g => plateSize ≤ g.va,
          effs := [.plate (cs.map fun p => (p.1, BitVec.ofNat 8 p.2.bits))
                    ((cs.filter (·.2.bad)).map (fun p => lineOf p.1)).eraseDups] }
      else
        { base with
          store := (writes.filter fun w => !w.2.isEmpty).map fun w =>
            { sp := w.1.loc.sp, addr := w.1.loc.addr, n := w.1.n, ops := storeOps w.1.loc.sp w.2 } }

def dispatchTst (v : VWord) (x : Env) (s : State) : Dispatch :=
  match x.q.stream v.d with
  | some b => storeTile v x s b noIndex (fun _ _ => true) 0 []
  | none => { lat := 1, occ := 1 }
def execTst (v : VWord) (s : State) : Out := s.issueV (.tst v) v

def dispatchTsti (v : VWord) (x : Env) (s : State) : Dispatch :=
  match x.q.stream v.d with
  | some b =>
    match s.indexRows x.q b with
    | .error f => let w := classTiming .hbm x.q.wsched (tileSize b); faultAt (indexExtra b + w.1) w.2 f []
    | .ok none => storeTile v x s b noIndex (fun _ _ => true) (indexExtra b) []
    | .ok (some (is, ix)) =>
      let a := is.toArray
      storeTile v x s b (fun k => some (a.getD k (0, false)).1) (fun _ _ => true) (indexExtra b) ix
  | none => { lat := 1, occ := 1 }
def execTsti (v : VWord) (s : State) : Out := s.issueV (.tsti v) v

/-- TSTM writes the elements whose bit is set. -/
def dispatchTstm (v : VWord) (x : Env) (s : State) : Dispatch :=
  match x.q.stream v.d with
  | none => { lat := 1, occ := 1 }
  | some b =>
    let r := b.record
    let p := s.placeTile s.cur .store b noIndex (srTrows r)
    let ft := faultTiming p x.q b
    let own := s.ownTile b noIndex (srTrows r)
    match (fmtOf (srFmt r)).filter fun f => f.bits % 8 = 0 && f ≠ .t5 with
    | none => faultAt ft.1 ft.2 x.q.formatFault own
    | some f =>
      let e := srTrb r / f.size
      if 4096 < srTrows r * e then faultAt ft.1 ft.2 (streamShape b) own
      else
        let k : Fin 8 := match v.s2 with | .op (.special n) => Fin.ofNat 8 n.val | _ => 0
        storeTile v x s b noIndex (fun i y => maskOn k (x.c.maskOf k) (i * e + y / f.size)) 0 []
def execTstm (v : VWord) (s : State) : Out := s.issueV (.tstm v) v

/-! ### TPREF, SBIND, SADV, WREF (R224–R226) -/

/-- LIT32. -/
def litOf (v : VWord) : Nat := match v.s2 with | .lit l => l.toNat | .op _ => 0

/-- TPREF: the pages of the tile k steps on. -/
def dispatchTpref (v : VWord) (x : Env) : Dispatch :=
  match x.q.stream v.s1 with
  | none => { lat := 1, occ := 1 }
  | some b =>
    let b := b.advance (litOf v)
    let pages := (List.range (srTrows b.record)).flatMap fun r =>
      match b.rowRun none r with
      | some run => (granulesOf run.addr run.n).map (65536 * ·)
      | none => []
    { lat := 1, occ := 1, ahead := pages.eraseDups.filter (plateSize ≤ ·) }
where
  /-- The 64 KiB pages of a byte range. -/
  granulesOf (a n : Nat) : List Nat := List.range' (a / 65536) ((a + n - 1) / 65536 - a / 65536 + 1)
def execTpref (v : VWord) (s : State) : Out := s.issueV (.tpref v) v

/-- The view row that SBIND reads. -/
def sbindUse (v : VWord) : Option ViewUse := useOf 1 v.s1 1 64

/-- SBIND at issue: the record's bytes; none where the view does not span them, which its dispatch reports (R234). -/
def Core.sbindBytes (c : Core) (v : VWord) : Option (Nat × List Elem) :=
  match sbindUse v with
  | none => none
  | some u =>
    let vw := c.vw[u.vw]
    match usesFault (fun (n : Reg) => c.vw[n]) [u] with
    | some _ => none
    | none => (u.offsets vw).head?.map fun o => (o, readMarked c.plate c.marks o 64)

/-- An invalid or marked record is an access fault at issue (R225, R356). -/
def sbindFault (v : VWord) (s : State) : Option (Cause × Word) :=
  match s.cpu.sbindBytes v with
  | none => none
  | some (o, bs) =>
    if bs.any (·.bad) || !streamValid (BitVec.ofNat 512 (joinBytes bs).bits) then some (.accessFault, BitVec.ofNat 64 o) else none

def dispatchSbind (v : VWord) (x : Env) : Dispatch :=
  let us := (sbindUse v).toList
  { lat := 1, occ := 1, fault := usesFault x.q.view us,
    effs := x.c.touchEffs (us.flatMap fun u => useOffsets (x.q.view u.vw) u) }

/-- SBIND binds its handle for every instruction issued afterwards; what it reads is read at issue (R359). -/
def execSbind (v : VWord) (s : State) : Out :=
  s.issue (.sbind v) (sbindFault v) fun s =>
    match s.cpu.sbindBytes v, v.d with
    | some (o, bs), .reg n =>
      s.modCpu fun c =>
        let c := { c.segReads (granules o 64) with bankReads := (granules o 64).map (fun l => (c.sclk, l)) ++ c.bankReads }
        { c with streams := c.streams.set n (some (bindRecord (BitVec.ofNat 512 (joinBytes bs).bits))) }.enqueue (.sbind v)
    | _, _ => s.modCpu fun c => c.enqueue (.sbind v)

def dispatchSadv (_ : VWord) (_ : Env) : Dispatch := { lat := 1, occ := 1 }
def execSadv (v : VWord) (s : State) : Out := s.issueV (.sadv v) v

def dispatchWref (v : VWord) (_ : Env) : Dispatch := { lat := 32, occ := 1, refresh := some (Fin.ofNat 32 (litOf v)) }
def execWref (v : VWord) (s : State) : Out := s.issueV (.wref v) v

end Sys2Proof.Machine
end

