-- ==== Sys2Proof/Machine/Translate.lean ====
section
/-! DEFINITION. Translation lookaside buffers, page walks and page faults (R93, R107, R268–R270). -/

namespace Sys2Proof.Machine

/-- Whether a core has a translation at hand for an address: a local offset, an address above the map, an entry of its TLB or one
that the waiting access has obtained, or a page that the module OS has declared unmapped for that access. -/
def State.present (s : State) (c : CoreId) (va : Nat) : Bool :=
  va < plateSize || 2 ^ 48 ≤ va || (findTlb (s.core c).entries (s.core c).ctx va).isSome ||
    (s.core c).unmapped.contains (va / 65536)

/-- The first address without a translation at hand. -/
def State.missing (s : State) (c : CoreId) (vas : List Nat) : Option Nat := vas.find? fun va => !s.present c va

/-- A core TLB with an entry more; it holds 64. -/
def Core.tlbAdd (c : Core) (e : TlbEntry) : Core := { c with tlb := (e :: c.tlb.filter (· ≠ e)).take 64 }

/-- A die TLB with an entry more; it holds 4,096. -/
def Die.tlbAdd (d : Die) (e : TlbEntry) : Die := { d with tlb := (e :: d.tlb.filter (· ≠ e)).take 4096 }

/-- A leaf as a TLB entry. -/
def entryOf (ctx : Fin 9) (l : Leaf) : TlbEntry := { ctx, va := l.va, size := l.size, pte := l.pte }

/-- The walk of a die that an asker waits for. -/
def State.walkOf (s : State) (c : CoreId) (who : Asker) : Option Walk :=
  (s.die (dieOf c)).walks.find? fun w => w.askers.contains (c, who)

/-- A walk of a page that starts now. -/
def State.newWalk (s : State) (c : CoreId) (who : Asker) (ctx : Fin 9) (page : Nat) : Walk :=
  { ctx, va := page, askers := [(c, who)], levels := walkLevels, base := s.rootOf ctx, done := false, leaf := none }

/-- A core, one of its copies, or a TPREF asks for the translation of a page: the die TLB answers 12 die cycles later, or a walk of the
page does, which it shares with the others of the die that wait for the same page (R269). -/
def State.askWalk (s : State) (c : CoreId) (who : Asker) (ctx : Fin 9) (va : Nat) : State :=
  let d := dieOf c
  let page := va / 65536 * 65536
  match findTlb (s.die d).tlb ctx va with
  | some _ => s.schedule 12 (.tlbMissResolved c who)
  | none =>
    let same (w : Walk) : Bool := w.ctx = ctx && w.va = page && !w.done
    if (s.die d).walks.any same then
      (s.modDie d fun k => { k with walks := k.walks.map fun w => if same w then { w with askers := w.askers ++ [(c, who)] } else w }).schedule
        1 (.tlbMissResolved c who)
    else
      (s.chosen.modDie d fun k => { k with walks := k.walks ++ [s.newWalk c who ctx page] }).schedule (1 + s.choice) (.tlbMissResolved c who)

/-- A core misses its TLB: it freezes until the translation arrives. -/
def State.tlbMiss (s : State) (c : CoreId) (va : Nat) (r : Right) : State :=
  (s.modCore c fun k => { k with freeze := some (.translation va r) }).askWalk c .core (s.core c).ctx va

/-- An asker leaves its walk; a walk that nobody waits for is forgotten. -/
def State.leaveWalk (s : State) (c : CoreId) (who : Asker) : State :=
  s.modDie (dieOf c) fun k =>
    { k with walks := (k.walks.map fun w => { w with askers := w.askers.erase (c, who) }).filter fun w => !w.askers.isEmpty }

/-- A walk reads one level of the tables (R269). The group window has no tables (R274). -/
def State.walkStep (s : State) (w : Walk) : Walk :=
  let ends (l : Option Leaf) : Walk := { w with levels := [], done := true, leaf := l.map (entryOf w.ctx) }
  if w.va < plateSize then ends none
  else
    match s.groupWindow w.ctx w.va, w.levels with
    | some l, _ => ends (some l)
    | none, [] => ends none
    | none, l :: rest =>
      match walkLevel s.hbm.mem w.va l w.base with
      | some (.inl leaf) => ends (if s.targetThere leaf then some leaf else none)
      | some (.inr b) => { w with levels := rest, base := b }
      | none => ends none

/-- The translation that an asker waits for is still to come: neither the die TLB nor a walk that has ended gives it. -/
def State.walking (s : State) (c : CoreId) (who : Asker) (ctx : Fin 9) (va : Nat) : Bool :=
  (findTlb (s.die (dieOf c)).tlb ctx va).isNone && match s.walkOf c who with | some w => !w.done | none => true

/-- A walk goes on for an asker: of those that wait for it the first has it read a level where it is among the die's first 16, and each
looks again when it may have ended. An asker whose entry has left the die TLB meanwhile asks anew. The time that a level takes is
not stated. -/
def State.walkOn (s : State) (c : CoreId) (who : Asker) (ctx : Fin 9) (va : Nat) : State :=
  match s.walkOf c who with
  | none => s.askWalk c who ctx va
  | some w =>
    let d := dieOf c
    let first := (((s.die d).walks.filter fun x => !x.done).take 16).contains w
    if !(first && w.askers.head? = some (c, who)) then s.schedule 1 (.tlbMissResolved c who)
    else
      let x := s.walkStep w
      let s := s.modDie d fun k => { k with walks := k.walks.map fun y => if y = w then x else y }
      if x.done then s.schedule 0 (.tlbMissResolved c who) else s.chosen.schedule (1 + s.choice) (.tlbMissResolved c who)

/-- The leaf that a die's TLB or the walk that has ended gives for an access (R269); none is a page fault. -/
def State.leafFor (s : State) (c : CoreId) (who : Asker) (ctx : Fin 9) (va : Nat) (r : Right) : Option Leaf :=
  let walked := ((s.walkOf c who).bind (·.leaf)).map fun e => ({ va := e.va, size := e.size, pte := e.pte } : Leaf)
  (findTlb (s.die (dieOf c)).tlb ctx va).or (walked.filter (·.allows r))

/-- A translation enters the TLBs of a core and its die. -/
def State.tlbFill (s : State) (c : CoreId) (ctx : Fin 9) (l : Leaf) : State :=
  let e := entryOf ctx l
  (s.modDie (dieOf c) fun k => k.tlbAdd e).modCore c fun k => k.tlbAdd e

/-- The translation of a frozen core arrives: from the die TLB or from its walk. A walk that finds no valid leaf, or one that
forbids the access, passes to the module OS as a page fault; unless the outside world reports otherwise first, the module OS finds
the access unmapped. Log entry 22. -/
def State.translated (s : State) (c : CoreId) (va : Nat) (r : Right) : State :=
  let ctx := (s.core c).ctx
  let l := s.leafFor c .core ctx va r
  let s := s.leaveWalk c .core
  match l with
  | some l =>
    (s.tlbFill c ctx l).modCore c fun k => { k with freeze := none, held := entryOf k.ctx l :: k.held }
  | none => s.chosen.schedule (1 + s.choice) (.pageFaultResolved c none .unmapped)

/-- The page-table entries that the module OS writes to install a mapping. -/
def State.installPtes (s : State) (ptes : List (Nat × BitVec 64)) : State :=
  ptes.foldl (fun s p => s.writeSpace .hbm (cellsFrom p.1 (natBytes 8 p.2.toNat)) false) s

/-! ### What an instruction translates -/

/-- The 64 KiB pages of a byte range. -/
def pagesOf (a n : Nat) : List Nat :=
  if n = 0 then [] else (List.range' (a / 65536) ((a + n - 1) / 65536 - a / 65536 + 1)).map (65536 * ·)

/-- The pages that the accessed bytes of a tile touch. -/
def StreamBinding.pages (b : StreamBinding) (idx : Nat → Option Int) (rows : Nat) : List Nat :=
  ((List.range rows).flatMap fun r =>
    match b.rowRun (idx r) r with
    | some run => pagesOf run.addr run.n
    | none => []).eraseDups

/-- The first page of a load's or store's tile, or of its index tile, that has no translation at hand (R218, R269). -/
def State.transferMiss (s : State) (q : QEntry) : Option (Nat × Right) :=
  let rows (v : VWord) (b : StreamBinding) : Nat := s.cpu.windowRows v (srTrows b.record)
  let for_ (r : Right) (m : Option Nat) : Option (Nat × Right) := m.map (·, r)
  let plain (v : VWord) (o : Operand) (r : Right) : Option (Nat × Right) :=
    match q.stream o with
    | some b => for_ r (s.missing s.cur (b.pages noIndex (rows v b)))
    | none => none
  let indexed (o : Operand) (r : Right) : Option (Nat × Right) :=
    match q.stream o with
    | none => none
    | some b =>
      let ib := (q.cap.streams.find? (·.handle = srIdxh b.record)).map (·.bind)
      let first := match ib with
        | some i =>
          if s.cpu.ahead.any fun f => f.seq = q.seq && f.num ≠ 0 then none
          else for_ .read (s.missing s.cur (i.pages noIndex (srTrows i.record)))
        | none => none
      first.or <|
        match s.indexRows q b with
        | .ok (some (is, _)) =>
          let a := is.toArray
          for_ r <| s.missing s.cur (b.pages (fun k => some (a.getD k (0, false)).1) (srTrows b.record))
        | _ => none
  match q.instr with
  | .tld v | .tldw v => plain v v.s1 .read
  | .tst v | .tstm v => plain v v.d .write
  | .tldi v => indexed v.s1 .read
  | .tsti v => indexed v.d .write
  | _ => none

/-! ### Index tiles on their way (R219, R223) -/

/-- The stream that an indexed transfer names. -/
def QEntry.indexed (q : QEntry) : Option StreamBinding :=
  match q.instr with
  | .tldi v => q.stream v.s1
  | .tsti v => q.stream v.d
  | _ => none

/-- The indices of a transfer are not at hand. -/
def State.indexAbsent (s : State) (q : QEntry) : Bool :=
  match q.indexed with
  | none => false
  | some b => match s.indexRows q b with | .ok none => true | _ => false

/-- The fetch of a transfer's index tile, in the place of an earlier entry. -/
def Core.putFetch (c : Core) (f : IndexFetch) : Core :=
  { c with ahead := if c.ahead.any (·.seq = f.seq) then c.ahead.map fun g => if g.seq = f.seq then f else g else c.ahead ++ [f] }

/-- An index tile that lies outside the own Plate is asked for. -/
def State.askIndex (s : State) (q : QEntry) : State :=
  match q.indexed with
  | none => s
  | some b =>
    match s.indexTile q b with
    | .error _ => s
    | .ok (ib, segs, _) =>
      let num := s.nextPacket
      let legs := segs.flatten.flatMap Seg.pieces
      let s := { s with nextPacket := num + 1 }.postReads (.index num) false legs
      s.modCpu fun c =>
        c.putFetch { seq := q.seq, num, count := srTrows b.record, out := List.range' (num + 1) legs.length, runs := indexRuns ib segs }

/-- The unit may fetch the index tile of a transfer now: it is bound for a place outside the own Plate, and its pages have translations
at hand. -/
def State.mayFetch (s : State) (q : QEntry) (b : StreamBinding) : Bool :=
  match (q.cap.streams.find? (·.handle = srIdxh b.record)).map (·.bind) with
  | none => false
  | some ib =>
    (s.missing s.cur (ib.pages noIndex (srTrows ib.record))).isNone &&
    match s.indexTile q b with | .ok (_, _, k) => k ≠ .own | .error _ => false

/-- The run-ahead unit of LD fetches the index tiles of issued TLDIs in issue order, while it holds at most 64 indices (R223). -/
def State.runAhead (s : State) : List IndexFetch → State
  | [] => s
  | f :: fs =>
    if f.num ≠ 0 then s.runAhead fs
    else
      let held := ((s.cpu.ahead.filter (·.num ≠ 0)).map (·.count)).foldl (· + ·) 0
      match (s.cpu.queues[engIx .ld]).find? (·.seq = f.seq) with
      | none => s.runAhead fs
      | some q =>
        match q.indexed with
        | none => s
        | some b => if held + f.count ≤ 64 && s.mayFetch q b then (s.askIndex q).runAhead fs else s

/-- A TLDI has issued: its index tile is listed for the run-ahead unit. -/
def State.foresee (s : State) : State :=
  match (s.cpu.queues[engIx .ld]).getLast? with
  | none => s
  | some q =>
    match q.indexed with
    | none => s
    | some b =>
      let s := s.modCpu fun c => c.putFetch { seq := q.seq, num := 0, count := srTrows b.record, out := [], runs := [] }
      s.runAhead s.cpu.ahead

/-- TLDI (R221, R223). -/
def execTldi (v : VWord) (s : State) : Out :=
  s.issue (.tldi v) (fun s => (literalFault (.tldi v) v s).or (unboundFault (.tldi v) s)) fun s =>
    (s.modCpu fun c => c.enqueue (.tldi v)).foresee

/-- The head of LD or ST whose indices are not at hand freezes the core: until they arrive, or, for marked index bytes of the own Plate
under REPLAY_THEN_ZERO, until they have been read once more (R219, R223). -/
def State.awaitIndex (s : State) (q : QEntry) : State :=
  let own : Bool := match q.indexed with
    | some b => match s.indexTile q b with | .ok (_, _, k) => k = .own | .error _ => false
    | none => false
  if own then (s.chosen.modCpu fun c => { c with freeze := some .replay }).schedule (1 + s.choice) (.replayRereadDone s.cur)
  else
    let s := if s.cpu.ahead.any fun f => f.seq = q.seq && f.num ≠ 0 then s else s.askIndex q
    s.modCpu fun c => { c with freeze := some .late }

/-- The index tile of a transfer in the own Plate read a second time. -/
def State.rereadIndex (s : State) (q : QEntry) : State :=
  match q.indexed with
  | none => s
  | some b =>
    match s.indexTile q b with
    | .error _ => s
    | .ok (ib, segs, _) =>
      let r := s.sampleRuns (dieOf s.cur) true (indexRuns ib segs)
      { r.1 with nextPacket := s.nextPacket + 1 }.modCpu fun c =>
        c.putFetch { seq := q.seq, num := s.nextPacket, count := srTrows b.record, out := [], runs := r.2 }

end Sys2Proof.Machine
end

