-- ==== Sys2Proof/Machine/Graph.lean ====
section
/-! DEFINITION. Memory as a tenant's context maps it, the completion log, and activations on their way to the Easel
(R267, R305, R306, R320, R368). -/

namespace Sys2Proof.Machine

/-- A byte range cut at 64 KiB boundaries. -/
def pagePieces : (fuel : Nat) → Nat → Nat → List (Nat × Nat)
  | 0, _, _ => []
  | f + 1, va, n =>
    let k := min n (65536 - va % 65536)
    if n = 0 then [] else (va, k) :: pagePieces f (va + k) (n - k)

/-- The pieces of a byte range. -/
def rangePieces (va n : Nat) : List (Nat × Nat) := pagePieces (n / 65536 + 2) va n

/-- Where a tenant's context puts an address, with a right: never in a trap window (R268). -/
def State.placeOf (s : State) (t : TenantId) (va : Nat) (r : Right) : Option Loc :=
  match s.walk (Fin.ofNat 9 t.val) va with
  | some l => if l.allows r then (l.loc va).filter fun p => match p.sp with | .plate _ => p.addr < trapWindow | _ => true
    else none
  | none => none

/-- Where an access that moves data for a tenant, of a COPY node or of another module, goes (R256): to HBM, TIER2, the host or a module, or to the
Plate of a core of the tenant's placements. -/
def State.movePlace (s : State) (t : TenantId) (va : Nat) (r : Right) : Option Loc :=
  (s.placeOf t va r).filter fun l =>
    match l.sp with
    | .plate g => s.inTenantGroup t.val g
    | .wstore _ => false
    | _ => true

/-- Bytes read through a tenant's context, and whether any of them is marked; none where a page is unmapped. -/
def State.readPieces (s : State) (t : TenantId) : List (Nat × Nat) → Option (List Byte × Bool)
  | [] => some ([], false)
  | (va, n) :: ps =>
    match s.placeOf t va .read, s.readPieces t ps with
    | some l, some r => let q := s.loadLoc l n; some (q.1 ++ r.1, q.2 || r.2)
    | _, _ => none

def State.readVa (s : State) (t : TenantId) (va n : Nat) : Option (List Byte × Bool) := s.readPieces t (rangePieces va n)

/-- Bytes written through a tenant's context; a page that is not mapped for writing, or lies behind a failed root port (R266), takes nothing. -/
def State.writeVa (s : State) (t : TenantId) (va : Nat) (bs : List Byte) : State :=
  (rangePieces va bs.length).foldl (fun s p =>
    match (s.placeOf t p.1 .write).filter fun l => !s.tier2Down l.sp l.addr with
    | some l => s.writeSpace l.sp (cellsFrom l.addr ((bs.drop (p.1 - va)).take p.2)) false
    | none => s) s

/-- A field of a byte string. -/
def bytesAt (bs : List Byte) (off n : Nat) : Nat := bytesNat ((bs.drop off).take n)

/-- `n` bytes of a kernel's record (R312). -/
def Kernel.field (k : Kernel) (off n : Nat) : Nat := bytesAt k.record off n

/-! ### The completion log (R320) -/

/-- What one entry says. -/
structure LogEntry where
  kid     : Nat
  node    : Nat
  status  : Nat
  code    : Nat
  rank    : Nat
  iters   : Nat
  badaddr : Nat
  xpc     : Nat
  preads  : Nat
  guard   : Nat
  dcycles : Nat
deriving DecidableEq, Repr

/-- An entry of STATUS 2, 4 or 5: the fields of a kernel are zero. -/
def LogEntry.plain (node status code : Nat) : LogEntry :=
  { kid := 0, node, status, code, rank := 0xFF, iters := 0, badaddr := 0, xpc := 0, preads := 0, guard := 0, dcycles := 0 }

/-- The 64 bytes of an entry. -/
def LogEntry.bytes (e : LogEntry) : List Byte :=
  natBytes 4 e.kid ++ natBytes 4 e.node ++ natBytes 1 e.status ++ natBytes 1 e.code ++ natBytes 1 e.rank ++ natBytes 5 0
    ++ natBytes 8 e.iters ++ natBytes 8 e.badaddr ++ natBytes 8 e.xpc ++ natBytes 8 e.preads ++ natBytes 8 e.guard
    ++ natBytes 8 e.dcycles

/-- An entry appended to a tenant's log ring. -/
def State.logEntry (s : State) (t : TenantId) (e : LogEntry) : State :=
  let k := s.tenantOf t
  let n := k.loglen.toNat
  if n = 0 then s
  else
    let s := s.writeVa t (k.logbase.toNat + 64 * (k.loghead.toNat % n)) e.bytes
    s.modTenant t fun k => { k with loghead := BitVec.ofNat 16 ((k.loghead.toNat + 1) % n) }

/-! ### Activations (R305, R309) -/

/-- The 64 bytes of a node (R305, R306). -/
def State.nodeBytes (s : State) (t : TenantId) (gbase node : Nat) : Option (List Byte) :=
  (s.readVa t (gbase + 64 * node) 64).map (·.1)

/-- TYPE of a node. -/
def nodeType (bs : List Byte) : Nat := bytesAt bs 0 1 % 16

/-- The priority of an activation: its record's for a KERN node, 3 for every other type (R309). -/
def State.nodePrio (s : State) (t : TenantId) (gbase node : Nat) : Nat :=
  match s.nodeBytes t gbase node with
  | some bs =>
    if nodeType bs = 1 then
      match s.readVa t (bytesAt bs 16 8 + 135) 1 with
      | some r => bytesNat r.1 % 4
      | none => 3
    else 3
  | none => 3

/-- No successor (R306). -/
def noNode : Nat := 0xFFFFFFFF

/-- An activation of a node: with the graph in force, and the time from which it may be taken. -/
def State.activation (s : State) (t : TenantId) (node gbase gcount : Nat) (staged : Option Nat) (delay : Nat)
    (known : List (CoreId × Nat)) : Activation :=
  { tenant := t, node, gbase, gcount, order := s.nextOrder, prio := s.nodePrio t gbase node, staged, readyAt := s.time + delay, known }

/-- An activation arriving at the Easel (R305), discarded where the module accepts none (R354, R376; log entry 98): a node number out of range is logged; with 4,096 pending the activation is
dropped and logged, and the node's error successor is activated in its place. DESIGN CHOICE (log entry 79): that one waits beside the
4,096 for the first place that falls free. -/
def State.accept (s : State) (t : TenantId) (node gbase gcount : Nat) (staged : Option Nat) (delay : Nat)
    (known : List (CoreId × Nat)) : State :=
  if !s.hub.accepting then { s with hub := { s.hub with osLog := s.hub.osLog ++ [(376, node)] } }
  else if node ≥ gcount then s.logEntry t (LogEntry.plain node 5 2)
  else
    let s1 := { s with nextOrder := s.nextOrder + 1 }
    if (s.tenantOf t).pending.length < 4096 then
      let a := s.activation t node gbase gcount staged delay known
      s1.modTenant t fun k => { k with pending := k.pending ++ [a] }
    else
      let s := s.logEntry t (LogEntry.plain node 5 1)
      match (s.nodeBytes t gbase node).map fun bs => bytesAt bs 12 4 with
      | none => s
      | some e =>
        if e = noNode then s
        else if e ≥ gcount then s.logEntry t (LogEntry.plain e 5 2)
        else
          let a := s.activation t e gbase gcount none delay known
          { s with nextOrder := s.nextOrder + 1 }.modTenant t fun k => { k with late := k.late ++ [a] }

/-- An activation leaves the pending ones (R309), and one that waits for a place takes it. -/
def State.takeActivation (s : State) (a : Activation) : State :=
  s.modTenant a.tenant fun t =>
    let rest := t.pending.filter (·.order ≠ a.order)
    let n := 4096 - rest.length
    { t with pending := rest ++ t.late.take n, late := t.late.drop n }

end Sys2Proof.Machine
end

