-- ==== Sys2Proof/Machine/System.lean ====
section
/-! DEFINITION. S major 0x18 SYS and SEGE: stopping, switching, traps, fences, proof segments, events, guards and TLB
invalidation (R114–R119, R125–R127, R249–R254). -/

namespace Sys2Proof.Machine

/-! ### NOP, HALT, TRAP, RTT -/

def execNop (s : State) : Out := s.issue .nop noFault id

/-- HALT issues: the sequencer issues nothing more and the chain stays at the HALT until it completes (R114). -/
def execHalt (s : State) : Out :=
  match issueCheck .halt s.cpu with
  | some (k, b) => .next (s.preciseTrap k b)
  | none =>
    .next ((s.beginIssue .halt).modCpu fun c =>
      { c with draining := some .halt, issued := true, seqNo := c.seqNo + 1, skipBreak := false })

/-- TRAP n: taken directly after its S-cycle (R121, R125). -/
def execTrap (n : BitVec 10) (s : State) : Out :=
  match issueCheck (.trap n) s.cpu with
  | some (k, b) => .next (s.preciseTrap k b)
  | none =>
    .next ((s.beginIssue (.trap n)).endTrapped (.trap n)
      { cause := .trapInstr, badaddr := n.setWidth 64, eng := none, addr := s.cpu.chain.c0, slot := true, precise := false })

/-- No handler access, home operation or handler divide is outstanding (R85, R127, R247). -/
def State.handlerDone (s : State) : Bool :=
  let now := s.now s.cur
  s.cpu.hSlots.all (· ≤ now) && s.cpu.hDivFree ≤ now && s.cpu.hReady.all (·.2 ≤ now) && s.cpu.hLater.isEmpty

/-- The resume of R127: the deferred loop-back event, the chain of XPC0–XPC2, and TSTATUS cleared. The first instruction issues
in the next die cycle. The lengths at XPC0 and XPC1 are those of the interrupted program's code. -/
def State.resume (s : State) : State :=
  let al (w : Word) : Word := BitVec.ofNat 64 (w.toNat / 4 * 4)
  let out := s.modCpu fun c => { c with tstatus := 0 }
  let n0 := out.lengthAt s.cur (al s.cpu.xpc0)
  let n1 := out.lengthAt s.cur (al s.cpu.xpc1)
  { s.modCpu fun k => k.returnTrap n0 n1 with curDone := true }

/-- RTT: resumes once handler accesses have landed (R127). -/
def execRtt (s : State) : Out :=
  match issueCheck .rtt s.cpu with
  | some (k, b) => .next (s.preciseTrap k b)
  | none => if s.handlerDone then .next s.resume else .next (s.modCpu fun c => { c with rttWait := true })

/-- RTT_RESUME: the handler's accesses have landed (R127). -/
def execRttResume (s : State) : Out :=
  if s.cpu.rttWait && s.handlerDone then .next (s.modCpu fun c => { c with rttWait := false }).resume else .next s

/-! ### Barriers (R260) -/

/-- The guard-granule report of a barrier, where a touch is recorded outside trap mode. -/
def Core.guardReport (c : Core) : Option PendingTrap :=
  if bitOf c.guardst 28 && !c.trapMode then
    some { cause := .guardReport, badaddr := BitVec.ofNat 64 (bitsOf c.guardst 6 22), eng := none, addr := c.chain.c0,
           slot := true, precise := false }
  else none

/-- The close of a barrier's issue: its guard report is taken after its S-cycle. -/
def State.endBarrier (s : State) (i : Instr) : State :=
  match s.cpu.guardReport with
  | some t => s.endTrapped i t
  | none => s.endIssue i

/-- The close of a FENCE that waits for acknowledgements: its guard report stays pending until they have arrived (R249, R260). -/
def State.endFence (s : State) (i : Instr) : State :=
  let slot := s.cpu.inSlot
  let s := (s.chosen.modCpu fun c => { c with freeze := some .fence, barrierSlot := slot }).schedule s.choice (.fenceAck s.cur)
  match s.cpu.guardReport with
  | some t => (s.pendTrap s.cur { t with slot }).endIssue i
  | none => s.endIssue i

/-- FENCE (R249): a release performs the earlier accesses, at DIE scope or wider under a freeze until the acknowledgements
arrive; an acquire takes the releases that its reads have returned. -/
def execFence (kind : FenceKind) (sc : Scope) (s : State) : Out :=
  let i := Instr.fence kind sc
  match issueCheck i s.cpu with
  | some (k, b) => .next (s.preciseTrap k b)
  | none =>
    let s := s.beginIssue i
    let s := if kind = .rel then s else s.fenceAcquire s.cur sc
    if kind = .acq then .next (s.endBarrier i)
    else
      let s := (s.performAll s.cur).fenceRelease s.cur sc
      if scopeCode sc < 3 then .next (s.endBarrier i) else .next (s.endFence i)

/-- FENCE_ACK: the covered accesses are performed and the core resumes; a touch recorded meanwhile is reported (R249, R260). -/
def execFenceAck (s : State) : Out :=
  match s.event with
  | .fenceAck c =>
    let s := s.performAll c
    if (s.core c).freeze = some .fence then
      let s := s.modCore c fun k => { k with freeze := none }
      match (if (s.core c).traps.any (·.cause = .guardReport) then none else (s.core c).guardReport) with
      | some t => .next (s.pendTrap c { t with slot := (s.core c).barrierSlot })
      | none => .next s
    else .next s
  | _ => .next s

/-! ### QDRAIN, MODESET, TMARK -/

/-- QDRAIN stops issue until the selected queues are empty (R250). -/
def execQdrain (m : BitVec 5) (s : State) : Out :=
  s.issue (.qdrain m) noFault fun s => s.modCpu fun c => { c with draining := some (.qdrain m) }

/-- The kernel on the core in focus is built against the "any" contract (R40, R312). -/
def State.anyContract (s : State) : Bool :=
  match s.kernelOf s.cur with
  | some k => (k.record.drop 96).take 3 = [0x61#8, 0x6E#8, 0x79#8]
  | none => false

/-- MODESET stops issue until S-cycle d (R115); EXP in an "any" kernel is an illegal instruction. -/
def execModeset (v : BitVec 3) (s : State) : Out :=
  s.issue (.modeset v)
    (fun s => if bitOf v 0 && s.anyContract then some (.illegalInstruction, s.cpu.chain.c0) else none)
    fun s => s.modCpu fun c => { c with draining := some (.modeset v) }

/-- TMARK closes the engine command window and opens the next (R116). -/
def Core.mark (c : Core) : Core :=
  { c with window := Window.fresh (c.window.number + 1), oldWindows := c.oldWindows ++ [c.window],
           seg := { c.seg with marked := true } }

def execTmark (s : State) : Out := s.issue .tmark noFault fun s => s.modCpu Core.mark

/-! ### Proof segments (R117–R119, R359) -/

/-- The checkpoint that SEGB takes, after its issue. DEDUCED (log entry 110): with the list of the rule it holds the engine command window,
so that the MX and LD commands of a segment that runs again count and are retained once. -/
def Core.checkpoint (c : Core) : Checkpoint :=
  { x := c.x, masks := c.masks, perms := c.perms, vw := c.vw, shp := c.shp, mode := c.mode, ft := c.ft, ftlvl := c.ftlvl,
    lc := c.lc, lb := c.lb, le := c.le, fc := c.fc, order := c.order, tokens := c.tokens, acc := c.acc, accSeq := c.accSeq,
    chainAcc := c.chainAcc, ring := c.ring, ringPush := c.ringPush, vstat := c.vstat, chain := c.chain, sclk := c.sclk + 1, window := c.window }

/-- The core restored to a checkpoint: what the segment left in queues and in flight is discarded, and its S-cycles repeat. -/
def Core.restore (c : Core) (k : Checkpoint) : Core :=
  { c with
    x := k.x, masks := k.masks, perms := k.perms, vw := k.vw, shp := k.shp, mode := k.mode, ft := k.ft, ftlvl := k.ftlvl,
    lc := k.lc, lb := k.lb, le := k.le, fc := k.fc, order := k.order, tokens := k.tokens, acc := k.acc, accSeq := k.accSeq,
    chainAcc := k.chainAcc, ring := k.ring, ringPush := k.ringPush, vstat := k.vstat, chain := k.chain, sclk := k.sclk,
    window := k.window,
    queues := Vector.replicate 5 [], landings := [], globals := [], engFree := Vector.replicate 5 0, burinFree := 0,
    divFree := 0, bankReads := [], sOpen := false, issued := false }

/-- Nothing of the core is in flight (R359). -/
def Core.quiet (c : Core) : Bool :=
  c.queues.toList.all List.isEmpty && c.landings.isEmpty && c.globals.isEmpty && c.homeOps.isEmpty && c.copies.isEmpty

/-- SEGB opens a proof segment with its own parcel, and takes the checkpoint (R117, R359). -/
def execSegb (s : State) : Out :=
  match issueCheck .segb s.cpu with
  | some (k, b) => .next (s.preciseTrap k b)
  | none =>
    let quiet := s.cpu.quiet
    let s := s.beginIssue .segb
    let s := s.modCpu fun c =>
      { c with seg := { open_ := true, start := c.sclk, crc := crcBytes 0xFFFFFFFF#32 (natBytes 4 (firstParcel .segb)),
                        count := 0, sig := 0, begin_ := c.chain.c0, marked := false, clean := quiet, reads := [],
                        rerun := false, check := none } }
    let s := s.endIssue .segb
    .next (s.modCpu fun c => { c with seg := { c.seg with check := some c.checkpoint } })

/-- A window may be replayed (R358). -/
def Window.replayable (w : Window) : Bool := w.count ≤ 64 && !w.spoiled

/-- The signature of the bytes fed so far (R118). -/
def Core.signature (c : Core) : BitVec 32 := ~~~c.seg.crc

/-- The proof mismatch of a SEGE (R119). -/
def mismatchTrap (addr : Word) : PendingTrap :=
  { cause := .proofMismatch, badaddr := addr, eng := none, addr, slot := false, precise := false }

/-- The segment of the proof table of a core's kernel that begins at a SEGB address (R82). -/
def State.provenSegment (s : State) (c : CoreId) (segb : Nat) : Option Nat :=
  match s.kernelOf c with
  | none => none
  | some k =>
    if k.field 192 8 = 0 then none
    else
      (List.range (k.field 200 4)).findSome? fun j =>
        match s.readVa k.tenant (k.field 192 8 + 16 * j) 8 with
        | some bs => let at_ := k.field 0 8 + bytesNat bs.1 % 2 ^ 48; if at_ = segb then some at_ else none
        | none => none

/-- SEGE closes the segment and checks it (R119): a failing check of a segment that may run again restores the checkpoint once
(R359), any other raises the proof mismatch after SEGE. DESIGN CHOICE (log entry 73): a guard report of the same SEGE comes before its
proof mismatch. DESIGN CHOICE (log entry 119): a SEGE whose segment runs again reports no touch of a guard granule; the next barrier does. -/
def execSege (a : Reg) (sig : BitVec 32) (s : State) : Out :=
  let i := Instr.sege a sig
  match issueCheck i s.cpu with
  | some (k, b) => .next (s.preciseTrap k b)
  | none =>
    let s := s.beginIssue i
    let c := s.cpu
    let n := c.sclk - c.seg.start + 1
    let pass := c.seg.open_ && (c.readX a).toNat = n && n ≤ 65535 && c.signature = sig
    let again := !pass && c.seg.open_ && !c.seg.marked && c.seg.clean && c.window.replayable && !c.seg.rerun
    match (if again then c.seg.check else none) with
    | some k =>
      .next { s.setCpu { c.restore k with
                seg := { c.seg with rerun := true, reads := [], crc := crcBytes 0xFFFFFFFF#32 (natBytes 4 (firstParcel .segb)) } }
              with curDone := true }
    | none =>
      let s := s.modCpu fun c =>
        { c with seg := { c.seg with
            open_ := false, sig := if c.seg.open_ then c.signature else c.seg.sig,
            count := if c.seg.open_ then BitVec.ofNat 17 (segCountOf n) else c.seg.count } }
      let named := if c.seg.open_ then s.provenSegment s.cur c.seg.begin_.toNat else none
      let s := if pass && !c.seg.rerun then s else s.proofFault s.cur (!pass) c.chain.c0.toNat named
      let s := if !pass && c.seg.rerun then s.countEscalation s.cur c.chain.c0.toNat else s
      if pass then .next (s.endBarrier i)
      else
        match s.cpu.guardReport with
        | some t => .next ((s.pendTrap s.cur (mismatchTrap c.chain.c0)).endTrapped i t)
        | none => .next (s.endTrapped i (mismatchTrap c.chain.c0))
where
  /-- SEGCNT as it stops: bits 15:0 and the overflow bit. -/
  segCountOf (n : Nat) : Nat := n % 65536 + (if n > 65535 then 65536 else 0)

/-! ### Guard marks (R252) -/

/-- The checks of GSET and GCLR, in their order. -/
def guardFault (a b : Reg) (s : State) : Option (Cause × Word) :=
  let x := s.cpu.readX a
  let n := (s.cpu.readX b).toNat
  if x.toNat % 256 ≠ 0 then some (.misaligned, x)
  else if x.toNat + 256 * n > plateSize || n ≥ 2 ^ 14 then some (.accessFault, x)
  else if n ≠ 0 && x.toNat + 256 * n > trapWindow && !s.cpu.trapMode then some (.platePrivilege, x)
  else none

/-- The granules of GSET and GCLR. -/
def guardRange (c : Core) (a b : Reg) : List Nat := List.range' ((c.readX a).toNat / 256) (c.readX b).toNat

def execGset (a b : Reg) (s : State) : Out :=
  s.issue (.gset a b) (guardFault a b) fun s =>
    s.modCpu fun c => { c with guards := (guardRange c a b).foldl NatSet.insert c.guards }

def execGclr (a b : Reg) (s : State) : Out :=
  s.issue (.gclr a b) (guardFault a b) fun s =>
    s.modCpu fun c => { c with guards := c.guards.filter fun g => !(guardRange c a b).contains g }

/-! ### Completion events (R251) -/

/-- What a popped record acquires (R230, R302, R336): what a root record's packets have released, and the writes of a copy, which a later
release of the core covers. -/
def State.acquireRecord (s : State) (r : EvRecord) : State :=
  let s := s.modCpu fun k => { k with known := mergeKnown k.known r.known }
  match r.copy with
  | some id => s.consumeCopy s.cur id
  | none => s

/-- EVPOP removes the oldest record and acquires what it reports; on an empty EVQ it waits. -/
def execEvpop (d : Reg) (s : State) : Out :=
  match issueCheck (.evpop d) s.cpu with
  | some (k, b) => .next (s.preciseTrap k b)
  | none =>
    match s.cpu.evq with
    | [] => .next s
    | r :: rest =>
      let s := s.beginIssue (.evpop d)
      let s := s.modCpu fun c => { c with evq := rest }
      let s := s.resultXs 2 [(d, r.lo), (regPlus d 1, r.hi)]
      .next ((s.acquireRecord r).endIssue (.evpop d))

def execEvpeek (d : Reg) (s : State) : Out :=
  s.issue (.evpeek d) noFault fun s =>
    let r := s.cpu.evq.headD ⟨BitVec.allOnes 64, 0, none, []⟩
    s.resultXs 2 [(d, r.lo), (regPlus d 1, r.hi)]

/-- EVQ_RECORD_ARRIVAL: a record stands in the EVQ of a frozen core, and its EVPOP goes on (R251). -/
def execEvqRecordArrival (s : State) : Out :=
  match s.event with
  | .evqRecordArrival c =>
    if (s.core c).freeze = some .wait && !(s.core c).evq.isEmpty then .next (s.modCore c fun k => { k with freeze := none })
    else .next s
  | _ => .next s

/-! ### TLBINV (R253, R271) -/

/-- TLBINV: the shootdown is a multicast to every core, and the handler waits until every TLB has acknowledged. DESIGN CHOICE (log entry 118):
an XA that is misaligned and out of range raises misaligned. -/
def execTlbinv (a b : Reg) (s : State) : Out :=
  s.issue (.tlbinv a b)
    (fun s =>
      let x := s.cpu.readX a
      if x.toNat % 65536 ≠ 0 then some (.misaligned, x)
      else if x.toNat ≥ 2 ^ 48 then some (.accessFault, x) else none)
    fun s =>
      let x := (s.cpu.readX a).toNat
      let n := (s.cpu.readX b).toNat
      let s := s.performAll s.cur
      let s := s.modCpu fun c => { c with freeze := some (.tlbinv 0) }
      s.sendCast { Multicast.empty s.cur (List.finRange 128) with inval := some (s.cpu.tenant, x, 65536 * n) }

/-- An entry overlaps an invalidated range of a context. -/
def TlbEntry.hit (t : TenantId) (va n : Nat) (e : TlbEntry) : Bool :=
  e.ctx.val = t.val && (n = 0 || (va < e.va + e.size && e.va < va + n))

/-- Accesses of a core that were sent before packet `mark` are still to be performed: of the sequencer, of tiles and index tiles, and of
copies. Where the core runs, `live`, a store of its store engine to its own Plate through a mapping counts until it lands. -/
def Core.accessBefore (c : Core) (live : Bool) (mark : Nat) : Bool :=
  (c.globals.any fun g => g.num < mark && !(g.back && g.done)) ||
  (c.landings.any fun l => l.effs.any fun e => match e with | .waits m n => m < mark && (0 < n || (live && l.eng = some .st)) | _ => false) ||
  (c.ahead.any fun f => f.out.any (· < mark)) || c.copies.any fun k => k.out.any (· < mark)

/-- Some core of a tenant still has such an access. -/
def State.accessesBefore (s : State) (t : TenantId) (mark : Nat) : Bool :=
  (List.finRange 128).any fun c => (s.core c).tenant = t && (s.core c).accessBefore (!(s.core c).trapMode) mark

/-- The accesses of a tenant's cores to their own Plates through a mapping, whose time between issue and landing is a choice, have
performed (R84, R271). -/
def State.performOwn (s : State) (t : TenantId) : State :=
  ((List.finRange 128).filter fun c => (s.core c).tenant = t && (s.core c).globals.any fun g => g.back && !g.done).foldl (fun s c =>
    s.performWhere c fun g => g.back) s

/-- TLBINV_COMPLETE: every TLB has acknowledged, and every access of the tenant sent by then, through an invalidated entry or not, has
been performed; results of a core that stands in a handler wait for its return (log entry 94). -/
def execTlbinvComplete (s : State) : Out :=
  match s.event with
  | .tlbinvComplete c =>
    match (s.core c).freeze with
    | some (.tlbinv m) =>
      if s.casts.any fun m => m.inval.isSome && m.src = c then .next s
      else
        let mark := if m = 0 then s.nextPacket else m
        let s := s.performOwn (s.core c).tenant
        if s.accessesBefore (s.core c).tenant mark then
          .next ((s.modCore c fun k => { k with freeze := some (.tlbinv mark) }).schedule 1 s.event)
        else .next (s.modCore c fun k => { k with freeze := none })
    | _ => .next s
  | _ => .next s

end Sys2Proof.Machine
end

