-- ==== Sys2Proof/Machine/Home.lean ====
section
/-! DEFINITION. Operations sent to a home (R236–R238), and the issue of the SEM, POOL, RING and LAUNCH instructions
(R239–R248). -/

namespace Sys2Proof.Machine

/-! ### Sending to a home (R236) -/

/-- Die cycles from service to the reply's arrival (R285). -/
def replyTrip (c home : CoreId) : Nat :=
  if c = home then 1 else if dieOf c = dieOf home then 5 else 13

/-- A release instruction's effect on the issuing core: its earlier scalar accesses perform, and it waits for acknowledgements at
DIE scope or wider; the release goes to its object with the operation (R238). -/
def State.makeRelease (s : State) (sc : Scope) : State × Covered := ((s.performAll s.cur).ackWait sc).covered s.cur sc

/-- A core's proof segment can no longer run again (R359). -/
def State.unclean (s : State) : State := s.modCpu fun c => { c with seg := { c.seg with clean := false } }

/-- An operation that expects a reply: its record, and its landing at the readable S-cycle, in a handler at the readable die cycle. -/
def State.expect (s : State) (home : CoreId) (dest : List Reg) (slot : Bool) (acq : Option (Scope × SyncObj)) (barrier : Bool) :
    State :=
  let c := s.cpu
  let rid := s.nextRid
  let remote := slot && home ≠ s.cur
  let op : HomeOp :=
    { rid, addr := c.chain.c0, dest, remote, acquire := acq, gain := [], barrier, slot := c.inSlot, handler := c.trapMode, arrived := none }
  let c := { c with homeOps := c.homeOps ++ [op] }
  let c :=
    if c.trapMode then
      { c.handlerLands (s.now s.cur + (homeRow s.cur home).2) (.reply rid) with
        hReady := dest.map (fun r => (.x r, notYet)) ++ c.hReady, hSlots := if remote then c.hSlots ++ [notYet] else c.hSlots }
    else c.landLater (homeRow s.cur home).2 [.reply rid] (dest.map .x)
  { s.setCpu c with nextRid := rid + 1 }

/-- Issuer and home of an operation on its way. -/
def Event.route : Event → Option (CoreId × CoreId)
  | .semRemoteService src dst _ _ _ _ => some (src, dst)
  | .poolService q => some (q.src, q.home)
  | .ringService q => some (q.src, q.home)
  | _ => none

/-- The latest arrival among one issuer's operations on their way to one home. -/
def State.lastArrival (s : State) (src dst : CoreId) : Nat :=
  ((s.agenda.filter fun a => Event.route a.what = some (src, dst)).map (·.due)).foldl max 0

/-- A message enters a die's crossbar by one port and leaves it by another, and holds both for a beat (R340, R341). -/
def Die.beat (k : Die) (i o : Port) : Die :=
  let x := k.outs[o]
  { k with inFree := k.inFree.set i (max k.inFree[i] (k.dclk + 1)), outs := k.outs.set o { x with freeAt := max x.freeAt k.dclk + 1 } }

/-- A message from one core to another, an operation for a home or a reply, passes the crossbars of their dies as one beat. DEDUCED (log entry
107): its time is that of R236, with what the fabric adds. -/
def State.homeBeat (s : State) (src dst : CoreId) : State :=
  let at_ (c : CoreId) : Port := Fin.ofNat 64 (localOf c).val
  let link (d : DieId) : Port := Fin.ofNat 64 (48 + d.val)
  if src = dst then s
  else if dieOf src = dieOf dst then s.modDie (dieOf src) fun k => k.beat (at_ src) (at_ dst)
  else
    (s.modDie (dieOf src) fun k => k.beat (at_ src) (link (dieOf dst))).modDie (dieOf dst) fun k => k.beat (link (dieOf src)) (at_ dst)

/-- An operation that core `c` sends to a home arrives as R236 says; from another core it may come later where the fabric delays it
(R279), and never ahead of the sender's earlier operations there. -/
def State.sendTo (s : State) (c home : CoreId) (e : Event) : State :=
  if home = c then s.schedule 1 e
  else (s.chosen.homeBeat c home).schedule (max ((homeRow c home).1 + s.choice) (s.lastArrival c home - s.time)) e

/-! ### Semaphores (R239, R240) -/

/-- A semaphore operation sent to a core; on the issuing core's own semaphores it takes effect at issue + 1. -/
def State.sendSem (s : State) (dst : CoreId) (i : Reg) (op : SemOp) (rel : Covered) : State :=
  s.sendTo s.cur dst (.semRemoteService s.cur dst i op s.time (some rel))

def execSemadd (i : Reg) (sc : Scope) (a : Reg) (s : State) : Out :=
  s.issue (.semadd i sc a) noFault fun s =>
    let r := s.makeRelease sc
    r.1.unclean.sendSem s.cur i (.add ((s.cpu.readX a).setWidth 32)) r.2

def execSemset (i : Reg) (sc : Scope) (a : Reg) (s : State) : Out :=
  s.issue (.semset i sc a) noFault fun s =>
    let r := s.makeRelease sc
    r.1.unclean.sendSem s.cur i (.set ((s.cpu.readX a).setWidth 32)) r.2

/-- The test of SEMWAIT. -/
def Core.semPasses (c : Core) (i a : Reg) : Bool :=
  let m := c.sems[i]
  m.fault || ((c.readX a).setWidth 32).toNat ≤ m.value.toNat

/-- SEMWAIT completes when its test passes, and waits otherwise; satisfied, it acquires unless FAULT ended the wait. -/
def execSemwait (i : Reg) (sc : Scope) (a : Reg) (s : State) : Out :=
  let ins := Instr.semwait i sc a
  match issueCheck ins s.cpu with
  | some (k, b) => .next (s.preciseTrap k b)
  | none =>
    if !s.cpu.semPasses i a then .next s
    else
      let s := (s.beginIssue ins).unclean
      let s := if s.cpu.sems[i].fault then s else s.learn s.cur (s.gainAt s.cur sc (.sem s.cur i))
      .next (s.endBarrier ins)

/-- SEMWAIT_SATISFIED: a change of the semaphore ends a frozen wait (R239, R240). -/
def execSemwaitSatisfied (s : State) : Out :=
  match s.event with
  | .semwaitSatisfied c =>
    match s.fetch c (s.core c).chain.c0 with
    | .instr (.semwait i _ a) _ =>
      if (s.core c).freeze = some .wait && (s.core c).semPasses i a then .next (s.modCore c fun k => { k with freeze := none })
      else .next s
    | _ => .next s
  | _ => .next s

def execSemrd (d i : Reg) (s : State) : Out :=
  s.issue (.semrd d i) noFault fun s =>
    let m := s.cpu.sems[i]
    s.unclean.resultX 2 d (m.value.setWidth 64 ||| (if m.fault then 0x8000000000000000#64 else 0))

/-- SEMRADD: a rank outside the group is a violation (R239). -/
def execSemradd (i : Reg) (sc : Scope) (a b : Reg) (s : State) : Out :=
  s.issue (.semradd i sc a b)
    (fun s => if (s.cpu.readX a).toNat ≥ s.cpu.groupSize || (s.cpu.readX a).toNat ≥ 128
              then some (.groupViolation, s.cpu.readX a) else none)
    fun s =>
      let dst := s.rankCore s.cur (s.cpu.readX a).toNat
      let r := s.makeRelease sc
      r.1.unclean.sendSem dst i (.add ((s.cpu.readX b).setWidth 32)) r.2

/-- The ranks of a group-relative mask (R33). -/
def maskRanks (m : Nat) : List Nat := (List.range 128).filter fun k => m / 2 ^ k % 2 = 1

/-- The mask in a register pair. -/
def Core.maskPair (c : Core) (b : Reg) : Nat := (c.readX b).toNat + (c.readX (regPlus b 1)).toNat * 2 ^ 64

/-- SEMMSET: a multicast set; an empty mask is still a release (R239). -/
def execSemmset (i : Reg) (sc : Scope) (a b : Reg) (s : State) : Out :=
  s.issue (.semmset i sc a b)
    (fun s => ((maskRanks (s.cpu.maskPair b)).filter (s.cpu.groupSize ≤ ·)).head?.map
                fun k => (.groupViolation, BitVec.ofNat 64 k))
    fun s =>
      let dsts := (maskRanks (s.cpu.maskPair b)).map (s.rankCore s.cur)
      let r := s.makeRelease sc
      let s := r.1.unclean
      if dsts.isEmpty then s
      else s.sendCast { Multicast.empty s.cur dsts with sem := some (i, (s.cpu.readX a).setWidth 32), rel := some r.2 }

/-- An earlier SEMMSET of a core that names its own rank has still to be applied there (R240). -/
def State.ownSetBefore (s : State) (c : CoreId) (sent : Nat) : Bool :=
  s.casts.any fun m => m.src = c && m.sem.isSome && m.dsts.contains c && m.sentAt < sent

/-- SEM_REMOTE_SERVICE: a semaphore operation takes effect atomically at its service; a core's own wait for its earlier SEMMSET
(R239, R240). -/
def execSemRemoteService (s : State) : Out :=
  match s.event with
  | .semRemoteService src dst i op sent rel =>
    if src = dst && s.ownSetBefore dst sent then .next (s.schedule 1 s.event)
    else
      let s := match op with | .set _ => s.overwritten (.sem dst i) | .add _ => s
      .next ((s.publish (.sem dst i) src rel).modCore dst fun c =>
        let m := c.sems[i]
        let v := match op with | .add v => m.value + v | .set v => v
        { c with sems := c.sems.set i { m with value := v } })
  | _ => .next s

/-! ### Pools (R241–R244) -/

/-- The pool that an entry names for the core in focus: its home core and unit. -/
def State.poolHome (s : State) (p : Reg) : Option (CoreId × Fin 8) :=
  match s.kernelOf s.cur with
  | some k => ((k.pools[p.val]?).getD none).map fun r =>
      (if r.tenantPool then Fin.ofNat 128 r.home else s.rankCore s.cur r.home, r.unit)
  | none => none

/-- Whether an operation has a reply, acquires, releases (R241). -/
def poolReplies : PoolOp → Bool
  | .wend | .rend => false
  | _ => true

def poolAcquires : PoolOp → Bool
  | .rbegin | .rnext => true
  | _ => false

def poolReleases : PoolOp → Bool
  | .wend | .wnext => true
  | _ => false

/-- A pool instruction. -/
def poolIssue (i : Instr) (op : PoolOp) (d p : Reg) (sc : Scope) (s : State) : Out :=
  s.issue i (fun s => if (s.poolHome p).isNone then some (.accessFault, BitVec.ofNat 64 p.val) else none) fun s =>
    match s.poolHome p with
    | none => s
    | some (home, u) =>
      let obj := SyncObj.pool home u.val
      let r : State × Option Covered := if poolReleases op then let r := s.makeRelease sc; (r.1, some r.2) else (s, none)
      let s : State := r.1
      let c := s.cpu
      let q : HomeReq PoolOp :=
        { src := s.cur, kid := c.kernid.toNat, rank := c.rank, home, entry := u.val, op, rid := s.nextRid, det := c.det,
          addr := c.chain.c0, sent := s.time, rel := r.2 }
      let s := s.unclean.sendTo s.cur home (.poolService q)
      if poolReplies op then
        s.expect home [d, regPlus d 1, regPlus d 2] true (if poolAcquires op then some (sc, obj) else none) false
      else s

def execPwbegin (d p : Reg) (s : State) : Out := poolIssue (.pwbegin d p) .wbegin d p .device s
def execPwend (p : Reg) (sc : Scope) (s : State) : Out := poolIssue (.pwend p sc) .wend 0 p sc s
def execPwnext (d p : Reg) (sc : Scope) (s : State) : Out := poolIssue (.pwnext d p sc) .wnext d p sc s
def execPrbegin (d p : Reg) (sc : Scope) (s : State) : Out := poolIssue (.prbegin d p sc) .rbegin d p sc s
def execPrend (p : Reg) (s : State) : Out := poolIssue (.prend p) .rend 0 p .device s
def execPrnext (d p : Reg) (sc : Scope) (s : State) : Out := poolIssue (.prnext d p sc) .rnext d p sc s
def execPquery (d p : Reg) (s : State) : Out := poolIssue (.pquery d p) .query d p .device s

/-! ### Rings (R245–R247) -/

/-- The ring that an entry names. -/
def State.ringRef (s : State) (r : Reg) : Option RingRef :=
  match s.kernelOf s.cur with
  | some k => (k.rings[r.val]?).getD none
  | none => none

/-- The side an operation belongs to: none for RBRK and RSTAT. -/
def ringSide (op : RingOp) (r : RingRef) : Option Nat :=
  match op with
  | .acq | .pub | .close _ => some r.prod
  | .take | .free => some r.cons
  | .brk | .stat => none

/-- The release of RPUB, RFREE and RCLOSE. DEDUCED (log entry 74): in exposed mode a scalar store still in flight is covered or not, as
a choice says (R286); one that is not counts as issued after the release. -/
def State.ringRelease (s : State) (sc : Scope) : State × Covered :=
  if s.cpu.exposed && !s.cpu.trapMode && s.choice % 2 = 1 then (s.chosen.ackWait sc).covered s.cur sc else s.chosen.makeRelease sc

/-- A ring instruction: an undeclared entry or the wrong side is an access fault. Operations without a reply value are answered
too: a misuse is raised at the S-cycle their reply would have had, and a waiting RCLOSE holds its issuer (R246, R247). -/
def ringIssue (i : Instr) (op : RingOp) (dest : List Reg) (r : Reg) (sc : Scope) (s : State) : Out :=
  match issueCheck i s.cpu with
  | some (k, b) => .next (s.preciseTrap k b)
  | none =>
    match s.ringRef r with
    | none => .next (s.preciseTrap .accessFault (BitVec.ofNat 64 r.val))
    | some ref =>
      if (ringSide op ref).any (· ≠ s.cpu.rank) then .next (s.preciseTrap .accessFault (BitVec.ofNat 64 r.val))
      else
        let s := (s.beginIssue i).unclean
        let home := s.rankCore s.cur ref.cons
        let obj := SyncObj.ring home ref.unit.val
        let releases := match op with | .pub | .free | .close _ => true | _ => false
        let acquires := match op with | .acq | .take => true | _ => false
        let r : State × Option Covered := if releases then let r := s.ringRelease sc; (r.1, some r.2) else (s, none)
        let s : State := r.1
        let c := s.cpu
        let q : HomeReq RingOp :=
          { src := s.cur, kid := c.kernid.toNat, rank := c.rank, home, entry := ref.unit.val, op, rid := s.nextRid,
            det := c.det, addr := c.chain.c0, sent := s.time, rel := r.2 }
        let s := s.sendTo s.cur home (.ringService q)
        let s := if op = .brk then s
                 else s.expect home dest (!dest.isEmpty) (if acquires then some (sc, obj) else none) (op = .take)
        .next (if op = .take then s.endBarrier i else s.endIssue i)

def execRacq (d r : Reg) (sc : Scope) (s : State) : Out := ringIssue (.racq d r sc) .acq [d] r sc s
def execRpub (r : Reg) (sc : Scope) (s : State) : Out := ringIssue (.rpub r sc) .pub [] r sc s
def execRtake (d r : Reg) (sc : Scope) (s : State) : Out := ringIssue (.rtake d r sc) .take [d, regPlus d 1] r sc s
def execRfree (r : Reg) (sc : Scope) (s : State) : Out := ringIssue (.rfree r sc) .free [] r sc s
def execRclose (r : Reg) (sc : Scope) (err : Bool) (s : State) : Out := ringIssue (.rclose r sc err) (.close err) [] r sc s
def execRbrk (r : Reg) (s : State) : Out := ringIssue (.rbrk r) .brk [] r .group s
def execRstat (d r : Reg) (s : State) : Out := ringIssue (.rstat d r) .stat [d] r .group s

/-! ### LAUNCH, LAUNCHS (R248, R310, R311) -/

/-- The graph that the core's kernel runs in. -/
def State.graphOf (s : State) : Nat × Nat :=
  match s.kernelOf s.cur with
  | some k => (k.act.gbase, k.act.gcount)
  | none => ((s.tenantOf s.cpu.tenant).gbase.toNat, (s.tenantOf s.cpu.tenant).gcount.toNat)

/-- A LAUNCH is one activation, at the Easel at most 120 ns later, and a DEVICE-scope release. -/
def launchIssue (i : Instr) (staged : Bool) (a : Reg) (s : State) : Out :=
  s.issue i (fun s => if bitsOf (s.cpu.readX a) 32 32 ≠ 0 then some (.accessFault, s.cpu.readX a) else none) fun s =>
    let t := s.cpu.tenant
    let g := s.graphOf
    let node := (s.cpu.readX a).toNat % 2 ^ 32
    let r := s.makeRelease .device
    let s := r.1.unclean
    s.chosen.accept t node g.1 g.2 (if staged then some s.cpu.kernid.toNat else none) (min s.choice 192) r.2.known

def execLaunch (a : Reg) (s : State) : Out := launchIssue (.launch a) false a s
def execLaunchs (a : Reg) (s : State) : Out := launchIssue (.launchs a) true a s

end Sys2Proof.Machine
end

