-- ==== Sys2Proof/Machine/Copy.lean ====
section
/-! DEFINITION. The copy engine (R219, R229–R234, R270): the checks of a copy command at dispatch, what it moves, its packets on
their way, its completion record, and the record of a command that faulted at dispatch. -/

namespace Sys2Proof.Machine

/-! ### What a copy command comes to at dispatch -/

/-- A copy command at dispatch: its fault, the own Plate bytes it reads and writes, what its writes do, its legs with the rows they
belong to and the padding of its source, the place of CATOM's old value, and the view bytes that it reads. -/
structure CopyPlan where
  fault  : Option (Cause × Word) := none
  reads  : List Res := []
  holds  : List Res := []
  op     : CopyOp := .plain 0
  srcs   : List CopyLeg := []
  dsts   : List CopyLeg := []
  rows   : List Nat := []
  valid  : List Nat := []
  pois   : Nat := 0
  got    : List LoadRun := []
  oldTo  : Option (Nat × Nat) := none
  views  : List (Nat × Nat) := []
deriving DecidableEq, Repr

def CopyPlan.fail (f : Cause × Word) : CopyPlan := { fault := some f }

/-- The accessed bytes of some tile rows in packets of at most 2,048 bytes (R341). -/
def StreamBinding.legs (b : StreamBinding) (rows : Nat) : List CopyLeg :=
  (List.range rows).flatMap fun r =>
    match b.rowRun none r with
    | some run => (packetPieces (run.n / 2048 + 2) run.addr run.n).map fun p => ⟨r, p.1 - run.addr, p.2, p.1 % 2 ^ 48⟩
    | none => []

/-- The own Plate bytes among some legs, as resources. -/
def State.legRes (s : State) (m : Mover) (ls : List CopyLeg) : List Res :=
  ls.filterMap fun l =>
    match s.reach s.cur m l.va with
    | .ok p => if p.sp = .plate s.cur then some (.plate p.addr l.n) else none
    | .error _ => none

/-- The lowest local Plate byte of some legs that lies in the trap window (R12, R234). -/
def localFault (ls : List CopyLeg) : Option (Cause × Word) :=
  lowestFault ((ls.filter fun l => l.va < plateSize && trapWindow < l.va + l.n).map fun l =>
    (.platePrivilege, BitVec.ofNat 64 (max l.va trapWindow)))

/-- The faults that a command finds at dispatch in its tile: a row out of bounds, a local byte in the trap window, or the fault of the
first rows, whose translation is made then (R229, R234). DEDUCED (log entry 102): a page of the first rows whose translation is not at hand
is walked for without the core's waiting, and what it comes to is the copy's in flight (R270). -/
def State.legFault (s : State) (sides : List (Mover × StreamBinding × Nat)) : Option (Cause × Word) :=
  let bounds := (sides.findSome? fun x => x.2.1.boundsFault noIndex x.2.2).map fun a =>
    ((.accessFault, BitVec.ofNat 64 a) : Cause × Word)
  let first := sides.flatMap fun x => ((x.2.1.legs x.2.2).filter fun l => l.row = 0 && s.present s.cur l.va).filterMap fun l =>
    match s.reach s.cur x.1 l.va with | .error e => some e | .ok _ => none
  bounds.or (lowestFault ((localFault (sides.flatMap fun x => x.2.1.legs x.2.2)).toList ++ first))

/-- The padding of a source row, where some of its bytes are not accessed (R217). -/
def padRuns (b : StreamBinding) (rows : Nat) : List LoadRun :=
  (List.range rows).flatMap fun r =>
    if ((b.rowRun none r).map (·.n)).getD 0 < srTrb b.record then [padRun b.record (4096 * r)] else []

/-- Bytes in bounds of a source row. -/
def validBytes (b : StreamBinding) (row : Nat) : Nat := ((b.rowRun none row).map (·.n)).getD 0

/-- A command that moves a tile from a source stream to a destination stream; the whole window of its permutation is checked (R211). -/
def copyTile (v : VWord) (x : Env) (s : State) (bs bd : StreamBinding) (extra : Option (Cause × Word)) (op : CopyOp) : CopyPlan :=
  let t := srTrows bd.record
  let map := x.c.flightMap v t
  let n := map.length
  match ((extra.or (x.c.flightFault v t)).or (s.legFault [(.copyFrom, bs, n), (.copyTo, bd, t)])) with
  | some f => CopyPlan.fail f
  | none =>
    { reads := s.legRes .copyFrom (bs.legs n), holds := s.legRes .copyTo (bd.legs t), op, srcs := bs.legs n, dsts := bd.legs t,
      rows := map.take t, valid := (List.range n).map (validBytes bs), pois := srPois bs.record, got := padRuns bs n }

/-- The two streams of a copy with equal tiles, or the shape-limit fault (R231). -/
def copyStreams (v : VWord) (x : Env) : Except (Cause × Word) (StreamBinding × StreamBinding) :=
  match x.q.stream v.s1, x.q.stream v.d with
  | some bs, some bd =>
    if srTrows bs.record ≠ srTrows bd.record || srTrb bs.record ≠ srTrb bd.record then .error (streamShape bd)
    else .ok (bs, bd)
  | _, _ => .error (.streamUnbound, 0)

/-! ### The commands (R231) -/

def dispatchCpy (v : VWord) (x : Env) (s : State) : CopyPlan :=
  match copyStreams v x with
  | .error f => CopyPlan.fail f
  | .ok (bs, bd) => copyTile v x s bs bd none (.plain (srPois bd.record))
def execCpy (v : VWord) (s : State) : Out := s.issueV (.cpy v) v

/-- Formats that CPYA accumulates in. -/
def accumFmt (n : Nat) : Bool := n = 1 || n = 2 || n = 3 || n = 4 || n = 19 || n = 8 || n = 9 || n = 10

def dispatchCpya (v : VWord) (x : Env) (s : State) : CopyPlan :=
  let op := bitsOf v.xfn 0 3
  match x.q.stream v.s1, x.q.stream v.d with
  | some bs, some bd =>
    let n := srFmt bd.record
    match (if srFmt bs.record = n && accumFmt n then fmtOf n else none) with
    | none => CopyPlan.fail x.q.formatFault
    | some f =>
      if 3 ≤ op && !f.isInt then CopyPlan.fail x.q.formatFault
      else
        match copyStreams v x with
        | .error e => CopyPlan.fail e
        | .ok _ => copyTile v x s bs bd none (.accum (BitVec.ofNat 5 n) (BitVec.ofNat 3 op) (srPois bd.record))
  | _, _ => CopyPlan.fail (.streamUnbound, 0)
def execCpya (v : VWord) (s : State) : Out := s.issueV (.cpya v) v

/-- The Plate bytes of view uses. -/
def useBytesAt (q : QEntry) (us : List ViewUse) : List (Nat × Nat) :=
  us.flatMap fun u => u.segs (q.view u.vw)

/-- The mask row of CMCAST. -/
def castUse (v : VWord) : List ViewUse := (useOf 2 (src2Operand v.s2) 1 16).toList

/-- The lowest byte of a destination that lies outside the own Plate, or cannot be reached, among those whose translation is at hand. -/
def State.foreignByte (s : State) (ls : List CopyLeg) : Option (Cause × Word) :=
  lowestFault ((ls.filter fun l => s.present s.cur l.va).filterMap fun l =>
    match s.reach s.cur .copyTo l.va with
    | .error e => some e
    | .ok p => if p.sp = .plate s.cur then none else some (.accessFault, BitVec.ofNat 64 l.va))

/-- CMCAST holds the own Plate only where its mask names the own rank (R303). -/
def dispatchCmcast (v : VWord) (x : Env) (s : State) : CopyPlan :=
  match copyStreams v x with
  | .error f => CopyPlan.fail f
  | .ok (bs, bd) =>
    let us := castUse v
    match usesFault x.q.view us with
    | some f => CopyPlan.fail f
    | none =>
      let bytes := us.flatMap fun u => (x.c.useBytes (x.q.view u.vw) u).flatten
      let ranks := maskRanks (joinBytes bytes).bits
      let high := ((ranks.filter (x.c.groupSize ≤ ·)).head?).map fun k => ((.groupViolation, BitVec.ofNat 64 k) : Cause × Word)
      let far := s.foreignByte (bd.legs (srTrows bd.record))
      let dsts := ranks.map (s.rankCore s.cur)
      let p := copyTile v x s bs bd (far.or high) (.cast dsts (srPois bd.record))
      let p := if dsts.isEmpty then { p with srcs := [], dsts := [] } else p
      { p with
        reads := p.reads ++ us.flatMap fun u => useRanges (x.q.view u.vw) u,
        holds := if dsts.contains s.cur then p.holds else [], views := useBytesAt x.q us }
def execCmcast (v : VWord) (s : State) : Out := s.issueV (.cmcast v) v

def dispatchCfill (v : VWord) (x : Env) (s : State) : CopyPlan :=
  match x.q.stream v.d with
  | none => CopyPlan.fail (.streamUnbound, 0)
  | some bd =>
    let t := srTrows bd.record
    match s.legFault [(.copyTo, bd, t)] with
    | some f => CopyPlan.fail f
    | none =>
      let n := srTrb bd.record
      let row : List Byte := (List.range n).map fun k => BitVec.ofNat 8 (litOf v / 2 ^ (8 * (k % 4)))
      { holds := s.legRes .copyTo (bd.legs t), op := .plain (srPois bd.record), dsts := bd.legs t, rows := List.range t,
        valid := List.replicate t n,
        got := (List.range t).map fun r =>
          { to_ := 4096 * r, n, src := none, va := 0, pois := 0, data := row, bad := false, again := false } }
def execCfill (v : VWord) (s : State) : Out := s.issueV (.cfill v) v

/-- The view rows of CATOM: the old value's place and the operand elements. -/
def atomUses (v : VWord) (size op : Nat) : List ViewUse × List ViewUse :=
  ((useOf 0 v.d 1 size).toList, (useOf 2 (src2Operand v.s2) 1 (if op = 2 then 2 * size else size)).toList)

/-- CATOM (R231). DESIGN CHOICE (log entry 117): with its element out of bounds under BCHK = 1 and PADEN = 1 there is no access, DATA is 0 and
element 0 of the D view is written 0. -/
def dispatchCatom (v : VWord) (x : Env) (s : State) : CopyPlan :=
  let op := bitsOf v.xfn 0 2
  match x.q.stream v.s1 with
  | none => CopyPlan.fail (.streamUnbound, 0)
  | some bd =>
    let n := srFmt bd.record
    match (if n = 4 || n = 19 || n = 8 then fmtOf n else none) with
    | none => CopyPlan.fail x.q.formatFault
    | some f =>
      if srTrows bd.record ≠ 1 || srTrb bd.record ≠ f.size then CopyPlan.fail (streamShape bd)
      else
        let us := atomUses v f.size op
        match (usesFault x.q.view (us.1 ++ us.2)).or (s.legFault [(.copyTo, bd, 1)]) with
        | some e => CopyPlan.fail e
        | none =>
          let es := us.2.flatMap fun u => (x.c.useBytes (x.q.view u.vw) u).flatMap (elemsOf f.bits)
          let a := es.headD Elem.zero
          let w := (es.drop 1).headD Elem.zero
          let own := s.legRes .copyTo (bd.legs 1)
          { reads := us.2.flatMap (fun u => useRanges (x.q.view u.vw) u) ++ own,
            holds := us.1.flatMap (fun u => useRanges (x.q.view u.vw) u) ++ own,
            op := .atom (BitVec.ofNat 5 f.code) (BitVec.ofNat 2 op) (BitVec.ofNat 64 a.bits) (BitVec.ofNat 64 w.bits) (a.bad || w.bad),
            dsts := bd.legs 1, rows := [0], valid := [f.size],
            views := useBytesAt x.q us.2,
            oldTo := us.1.head?.map fun u => (((u.offsets (x.q.view u.vw)).headD 0), f.size) }
def execCatom (v : VWord) (s : State) : Out := s.issueV (.catom v) v

/-- WSTORE issued by a core is an illegal instruction (R231, R234); graph COPY nodes perform it. -/
def execWstore (_ : VWord) (s : State) : Out := .next (s.preciseTrap .illegalInstruction s.cpu.chain.c0)

/-! ### Starting a copy (R229, R294) -/

/-- The scope that a CP command names in MOD. -/
def cpScope (v : VWord) : Scope := scopeOfCode (v.mod.toNat % 8)

/-- A PEER or SYSTEM release that covers writes toward a module which were lost, the core's own or acquired ones, performs none of its
writes (R301). -/
def State.releaseLost (s : State) (r : Covered) : Bool :=
  (r.scope = .peer || r.scope = .system) && s.links.any fun l => l.lost.any fun p => p.2 < knownOf r.known p.1

/-- The record of a command in flight. -/
def State.copyRecord (s : State) (q : QEntry) (fn : Nat) (rel : Covered) (tok : Tokens) (reserved : Nat) : CopyInFlight :=
  { id := s.cpu.nextCopy, addr := q.addr, fn, scope := rel.scope, postL := tok.postL, postR := tok.postR, seq := q.seq,
    started := s.now s.cur, bytes := 0, written := 0, op := .plain 0, srcs := [], dsts := [], rows := [], valid := [], pois := 0, got := [],
    badSrc := [], out := [], waiting := 0, missing := none, unmapped := [], status := 0, data := 0, oldTo := none, oldBad := false,
    awaits := [], rel,
    known := s.cpu.known, reserved, reads := [], holds := [] }

/-- A command in flight is listed, and its EVQ entries are reserved. -/
def State.putCopy (s : State) (k : CopyInFlight) : State :=
  s.modCpu fun c => { c with copies := c.copies ++ [k], nextCopy := c.nextCopy + 1, evqPend := c.evqPend + k.reserved }

/-! ### A copy in progress (R219, R229, R270) -/

/-- The state as the program of a core translates, also while a handler runs. -/
def State.asProgram (s : State) (c : CoreId) : State := s.modCore c fun k => { k with tstatus := 0 }

/-- A copy has a translation at hand for an address, or knows that there is none. -/
def State.legPresent (s : State) (c : CoreId) (k : CopyInFlight) (va : Nat) : Bool :=
  (s.asProgram c).present c va || k.unmapped.contains (va / 65536)

/-- A copy waits for the translation of a page (R270). -/
def State.copyMiss (s : State) (c : CoreId) (id va : Nat) (r : Right) : State :=
  (s.modCore c fun x => x.modCopy id fun k => { k with missing := some (va, r) }).askWalk c (.copy id)
    (Fin.ofNat 9 (s.core c).tenant.val) va

/-- STATUS of a fault in flight (R233): 2 at another core's port outside the group, else 1. -/
def faultStatus (k : Cause) : Nat := if k = .groupViolation then 2 else 1

/-- A packet of a copy finds no path: STATUS 3, and an error record; a write is lost (R233, R301). -/
def State.noPath (s : State) (c : CoreId) (id : Nat) (write : Option Space) : State :=
  let s := (s.copyStatus c id 3).dieError (dieOf c) 12 { uc := true, kind := 10, unit := 0, core := some c, addr := 0, info := 0 }
  match write with
  | some (.peer m) => s.loseWrite m c id
  | _ => s

/-- A source row is not read further, and nothing is written from it. -/
def State.dropRow (s : State) (c : CoreId) (id row : Nat) : State :=
  s.modCore c fun x => x.modCopy id fun k =>
    { k with srcs := k.srcs.filter (·.row ≠ row), badSrc := if k.badSrc.contains row then k.badSrc else k.badSrc ++ [row] }

/-- The first leg to be read is asked for; one of a row that no destination row takes is only checked (R211). -/
def State.readLeg (s : State) (c : CoreId) (k : CopyInFlight) (l : CopyLeg) : State :=
  let rest (s : State) : State := s.modCore c fun x => x.modCopy k.id fun k => { k with srcs := k.srcs.tail }
  match (s.asProgram c).reach c .copyFrom l.va with
  | .error e => (s.copyStatus c k.id (faultStatus e.1)).dropRow c k.id l.row
  | .ok p =>
    if !k.rows.contains l.row then rest s
    else
      match s.packetFor c p.sp p.addr l.n true { src := c, of_ := .copy k.id, known := [], ops := [.read p.sp p.addr l.n false] } with
      | none => (s.noPath c k.id none).dropRow c k.id l.row
      | some q =>
        ((rest s).post q).modCore c fun x => x.modCopy k.id fun k =>
          { k with out := k.out ++ [q.num], got := k.got ++ granuleRuns k.pois (l.n + 1) (4096 * l.row + l.x) l.va p l.n }

/-- Every byte of a source row is there. -/
def CopyInFlight.rowReady (k : CopyInFlight) (row : Nat) : Bool :=
  !(k.srcs.any (·.row = row)) && k.got.all fun r => r.src.isNone || r.to_ / 4096 ≠ row

/-- Runs of bytes laid over a row's bytes, first byte at offset 0. -/
def overlayRuns (base : List Elem) (rs : List LoadRun) : List Elem :=
  rs.foldl (fun bs r => bs.take r.to_ ++ r.data.map (fun b => ⟨b.toNat, r.bad⟩) ++ bs.drop (r.to_ + r.n)) base

/-- Bytes x to x + n − 1 of a source row. -/
def CopyInFlight.rowBytes (k : CopyInFlight) (row x n : Nat) : List Elem :=
  let rs := (k.got.filter (·.to_ / 4096 = row)).map fun r => { r with to_ := r.to_ % 4096 }
  ((overlayRuns (List.replicate (x + n) Elem.zero) rs).drop x).take n

/-- The operations of a leg's write (R231); padded elements of a CPYA contribute nothing. -/
def CopyInFlight.legOps (k : CopyInFlight) (l : CopyLeg) (p : Loc) (data : List Elem) : List PortOp :=
  match k.op with
  | .plain pois | .cast _ pois =>
    storeOps p.sp ((data.zipIdx).map fun b => (p.addr + b.2, if b.1.bad && pois = 1 then Elem.zero else b.1))
  | .accum f op pois =>
    match fmtOf f.toNat with
    | none => []
    | some g =>
      let valid := k.valid.getD (k.rows.getD l.row 0) 0
      ((((chunks (l.n / g.size) g.size data).map joinBytes).zipIdx).filter fun e => l.x + e.2 * g.size < valid).map fun e =>
        .accum p.sp (p.addr + e.2 * g.size) f op (BitVec.ofNat 64 (if e.1.bad && pois = 1 then 0 else e.1.bits)) (e.1.bad && pois ≠ 1)
  | .atom f op v w m => [.atom p.sp p.addr f op v w m]

/-- A leg to be written is settled: crossed off, whatever came of it. -/
def State.legGone (s : State) (c : CoreId) (id : Nat) (l : CopyLeg) : State :=
  s.modCore c fun x => x.modCopy id fun k => { k with dsts := k.dsts.erase l }

/-- The row's data that a leg carries is marked, or CATOM's operand is. -/
def CopyInFlight.carries (k : CopyInFlight) (data : List Elem) : Bool :=
  data.any (·.bad) || match k.op with | .atom _ _ _ _ m => m | _ => false

/-- A leg is written: its packet leaves. Nothing is written from a row that has faulted, and of a copy that has failed an unstated part
is (R233). Log entry 6. -/
def State.writeLeg (s : State) (c : CoreId) (k : CopyInFlight) (l : CopyLeg) : State :=
  let row := k.rows.getD l.row 0
  let gone := s.legGone c k.id l
  if k.badSrc.contains row || (k.status ≠ 0 && k.status ≠ 4 && !Config.partialCopy k.seq l.row) then gone
  else
    match (s.asProgram c).reach c .copyTo l.va with
    | .error e => gone.copyStatus c k.id (faultStatus e.1)
    | .ok p =>
      let data := k.rowBytes row l.x l.n
      let ops := k.legOps l p data
      let gone := if k.status = 0 && k.carries data then gone.copyStatus c k.id 4 else gone
      if ops.isEmpty then gone
      else
        match gone.packetFor c p.sp p.addr l.n false { src := c, of_ := .copy k.id, known := k.known, rels := [k.rel], ops } with
        | none => gone.noPath c k.id (some p.sp)
        | some q =>
          (gone.post q).modCore c fun x => x.modCopy k.id fun k => { k with out := k.out ++ [q.num], bytes := k.bytes + l.n }

/-- The places that a copy has still to send a write to, with their lengths: its legs, a multicast's in the Plate of each destination,
and CATOM's old value in the own Plate. -/
def State.writesLeft (s : State) (c : CoreId) (k : CopyInFlight) : List (Loc × Nat) :=
  let v := s.asProgram c
  let leg (l : CopyLeg) : List (Loc × Nat) :=
    match v.reach c .copyTo l.va, k.op with
    | .ok p, .cast ds _ => ds.map fun g => (⟨.plate g, p.addr⟩, l.n)
    | .ok p, _ => [(p, l.n)]
    | .error _, _ => []
  k.dsts.flatMap leg ++ k.oldTo.toList.map fun o => (⟨.plate c, o.1⟩, o.2)

/-- A multicast that a copy has sent is still to be applied to bytes of a place. -/
def State.castPending (s : State) (c : CoreId) (id : Nat) (p : Loc × Nat) : Bool :=
  s.casts.any fun m => m.src = c && m.copy = some id &&
    (match p.1.sp with | .plate g => m.dsts.contains g | _ => false) && m.cells.any fun b => p.1.addr ≤ b.1 && b.1 < p.1.addr + p.2

/-- An earlier copy of the core has still to write bytes of some places: its write goes first (R228, R229). -/
def State.writesHeld (s : State) (c : CoreId) (id : Nat) (ps : List (Loc × Nat)) : Bool :=
  ((s.core c).copies.filter (·.id < id)).any fun j =>
    let left := s.writesLeft c j
    ps.any fun p => s.castPending c j.id p ||
      left.any fun q => q.1.sp = p.1.sp && q.1.addr < p.1.addr + p.2 && p.1.addr < q.1.addr + q.2

/-- A leg waits for an earlier copy. -/
def State.legHeld (s : State) (c : CoreId) (k : CopyInFlight) (l : CopyLeg) : Bool :=
  s.writesHeld c k.id (s.writesLeft c { k with dsts := [l], oldTo := none })

/-- A multicast copy whose source has been read sends its data to every destination, and its notice (R231, R346). A destination byte that
turns out, once translated, to lie outside the own Plate is a fault in flight. -/
def State.castCopy (s : State) (c : CoreId) (k : CopyInFlight) (dsts : List CoreId) : State :=
  let v := s.asProgram c
  let one (l : CopyLeg) : List (Loc × Nat × List PortOp) :=
    let row := k.rows.getD l.row 0
    if k.badSrc.contains row || (k.status ≠ 0 && k.status ≠ 4 && !Config.partialCopy k.seq l.row) then []
    else match v.reach c .copyTo l.va with
      | .ok p => if p.sp = .plate c then [(p, l.n, k.legOps l p (k.rowBytes row l.x l.n))] else []
      | .error _ => []
  let wrong := k.dsts.any fun l => match v.reach c .copyTo l.va with | .ok p => p.sp ≠ .plate c | .error _ => true
  let s := if wrong then s.copyStatus c k.id 1 else s
  let parts := (k.dsts.flatMap one)
  let put (o : PortOp) : List (Nat × Byte) × List Nat :=
    match o with
    | .bytes _ cells m => (cells, if m then (cells.map (lineOf ·.1)).eraseDups else [])
    | _ => ([], [])
  let ops := parts.flatMap fun p => (p.2.2.map put)
  let marked := ops.flatMap (·.2)
  let bad := k.dsts.any fun l => (k.rowBytes (k.rows.getD l.row 0) l.x l.n).any (·.bad)
  let n := (parts.map (·.2.1)).foldl (· + ·) 0
  let id := s.nextCast
  let s := s.modCore c fun x => x.modCopy k.id fun k =>
    { k with dsts := [], bytes := n, waiting := if parts.isEmpty then 0 else dsts.length,
             status := if k.status = 0 && bad && !parts.isEmpty then 4 else k.status }
  if parts.isEmpty then s
  else
    let s := s.sendCast { Multicast.empty c dsts with
      copy := some k.id, seq := k.seq, cells := ops.flatMap (·.1), marked, owed := dsts.flatMap fun d => List.replicate parts.length d,
      rel := some k.rel }
    dsts.foldl (fun s d => parts.foldl (fun s p =>
      match s.packetFor c (.plate d) p.1.addr p.2.1 false { src := c, of_ := .copy k.id, known := [], ops := [.cast id d] } with
      | some q => s.post q
      | none => s) s) s

/-- A copy goes on as far as it can: it reads its source leg by leg, and writes what it has read; `fuel` bounds its legs. Each leg is
translated as it runs. -/
def State.advanceCopy (c : CoreId) (id : Nat) : (fuel : Nat) → State → State
  | 0, s => s
  | f + 1, s =>
    match (s.core c).copies.find? (·.id = id) with
    | none => s
    | some k =>
      if k.missing.isSome then s
      else
        match k.srcs with
        | l :: _ => if s.legPresent c k l.va then State.advanceCopy c id f (s.readLeg c k l) else s.copyMiss c id l.va .read
        | [] =>
          match k.op with
          | .cast dsts _ =>
            if k.dsts.isEmpty || !k.awaits.isEmpty || !(k.rows.all k.rowReady) || s.writesHeld c id (s.writesLeft c k) then s
            else
              match k.dsts.find? fun l => !s.legPresent c k l.va with
              | some l => s.copyMiss c id l.va .write
              | none => State.advanceCopy c id f (s.castCopy c k dsts)
          | _ =>
            match k.dsts.find? fun l => k.awaits.isEmpty && k.rowReady (k.rows.getD l.row 0) && !s.legHeld c k l with
            | none => s
            | some l => if s.legPresent c k l.va then State.advanceCopy c id f (s.writeLeg c k l) else s.copyMiss c id l.va .write

/-- The copies of a core go on, and those that have nothing left complete. -/
def State.advanceCopies (s : State) (c : CoreId) : State :=
  (s.core c).copies.foldl (fun s k =>
    if k.fn = 5 || k.fn = 6 || k.finished then s
    else (State.advanceCopy c k.id (k.srcs.length + k.dsts.length + 1) s).copyIfDone c k.id) s

/-- A copy command starts: the accesses that it covers have performed, or its writes wait for them, and its release is made. A release whose covered writes were lost
writes nothing (R301). -/
def State.startCopy (s : State) (q : QEntry) (fn : Nat) (v : VWord) (p : CopyPlan) : State :=
  let r := (s.performAll s.cur).covered s.cur (cpScope v)
  let awaits := s.stuckStores s.cur
  let s : State := r.1
  let bar := s.releaseLost r.2
  let id := s.cpu.nextCopy
  let s := s.putCopy { s.copyRecord q fn r.2 v.tok 1 with
    op := p.op, srcs := if bar then [] else p.srcs, dsts := if bar then [] else p.dsts, rows := p.rows, valid := p.valid, pois := p.pois,
    got := p.got, oldTo := p.oldTo, awaits := if bar then [] else awaits, reads := p.reads, holds := p.holds, status := if bar then 3 else 0 }
  if bar || p.dsts.isEmpty then s.copyIfDone s.cur id else s.advanceCopies s.cur

/-! ### Completion (R230, R233, R234) -/

/-- The bytes 0–7 of a completion record. -/
def recordLo (addr : Word) (fn status : Nat) (sc : Scope) : Word :=
  BitVec.ofNat 64 (addr.toNat % 2 ^ 48 + fn % 16 * 2 ^ 48 + status % 16 * 2 ^ 52 + scopeCode sc * 2 ^ 56)

/-- A record enters the EVQ of a core that runs an iteration; otherwise it is discarded (R229, R338). Its reservation is released. -/
def State.pushRecord (s : State) (c : CoreId) (r : EvRecord) (reserved : Nat) : State :=
  let live := (s.core c).activity = .running
  let s := s.modCore c fun k => { k with evqPend := k.evqPend - reserved, evq := if live then k.evq ++ [r] else k.evq }
  if live && (s.core c).freeze = some .wait then s.schedule 0 (.evqRecordArrival c) else s

/-- A token posted to a counter; past 15 it raises token overflow, attributed to the poster (R24). -/
def Core.postToken (c : Core) (k : Fin 10) : Core × Bool :=
  if (c.tokens[k]).toNat = 15 then (c, true) else ({ c with tokens := c.tokens.set k (c.tokens[k] + 1) }, false)

/-- The token posts of an engine instruction, and the copy behind them. -/
def State.postTokens (s : State) (c : CoreId) (e : Engine) (left right : Bool) (addr : Word) (copy : Option Nat) : State :=
  let one (s : State) (go : Bool) (k : Fin 10) : State :=
    if !go then s
    else
      let r := (s.core c).postToken k
      let s := s.setCore c { r.1 with posted := match copy with | some id => r.1.posted ++ [(k, id)] | none => r.1.posted }
      if r.2 then s.pendTrap c { cause := .tokenOverflow, badaddr := BitVec.ofNat 64 k.val, eng := some e, addr, slot := false, precise := false }
      else s
  one (one s left (tokenOut e false)) right (tokenOut e true)

/-- Bits 63:32 of DATA: die cycles from dispatch, saturating. -/
def elapsed (started now : Nat) : Nat := min (now - started) (2 ^ 32 - 1)

/-- A command has completed: its record, then its tokens. -/
def State.finishCopy (s : State) (c : CoreId) (k : CopyInFlight) (status : Nat) (data : Word) (give : Nat) : State :=
  let s := s.modCore c fun x => { x with copies := x.copies.filter (·.id ≠ k.id) }
  let s := s.pushRecord c ⟨recordLo k.addr k.fn status k.scope, data, some k.id, []⟩ give
  if (s.core c).activity = .running then s.postTokens c .cp k.postL k.postR k.addr (some k.id) else s

/-- COPY_COMPLETE (R230): CATOM's old value is written, behind what earlier copies write there (R229), then the record and the tokens. The
core's later copies that have waited for it go on. -/
def execCopyComplete (s : State) : Out :=
  match s.event with
  | .copyComplete c id =>
    match (s.core c).copies.find? (·.id = id) with
    | none => .next s
    | some k =>
      if s.writesHeld c id (s.writesLeft c { k with dsts := [] }) then .next (s.schedule 1 s.event)
      else
      let s := match k.oldTo with
        | some (off, n) => if k.status = 0 || k.status = 4 then
            s.modCore c fun x => x.writePlate (cellsFrom off (natBytes n k.data.toNat)) (if k.oldBad then granules off n else []) else s
        | none => s
      let data := if k.fn = 3 then k.data
        else BitVec.ofNat 64 (min k.written (2 ^ 32 - 1) + elapsed k.started (s.now c) * 2 ^ 32)
      .next ((s.finishCopy c k k.status data k.reserved).advanceCopies c)
  | _ => .next s

/-- A command that faults at dispatch: its record is due in the next die cycle (R234). -/
def State.faultCopy (s : State) (q : QEntry) (fn : Nat) (v : VWord) (f : Cause × Word) : State :=
  let id := s.cpu.nextCopy
  let s := s.putCopy { s.copyRecord q fn ⟨cpScope v, []⟩ v.tok 1 with status := 8 }
  let s := s.pendTrap s.cur { cause := f.1, badaddr := f.2, eng := some .cp, addr := q.addr, slot := false, precise := false }
  s.schedule 1 (.copyDispatchFaultRecord s.cur id)

/-- COPY_DISPATCH_FAULT_RECORD (R234): STATUS 8, DATA 0, and the tokens. -/
def execCopyDispatchFaultRecord (s : State) : Out :=
  match s.event with
  | .copyDispatchFaultRecord c id =>
    match (s.core c).copies.find? (·.id = id) with
    | none => .next s
    | some k => .next (s.finishCopy c k 8 0 k.reserved)
  | _ => .next s

end Sys2Proof.Machine
end

