-- ==== Sys2Proof/Machine/Ports.lean ====
section
/-! DEFINITION. The crossbars, the links between dies, and the ports of the memories at work: packets granted, carried, served and
answered (R258, R264–R266, R296, R298, R340–R344), packets toward other modules (R300, R301, R350, R351), and translations that
arrive (R269, R270). -/

namespace Sys2Proof.Machine

/-! ### What a packet settles at its core (R41, R84, R218, R223, R230) -/

/-- A core frozen for a late access looks again. -/
def State.thaw (s : State) (c : CoreId) : State :=
  if (s.core c).freeze = some .late then s.schedule 0 (.lateAccessArrival c) else s

/-- One packet fewer of a tile is out. -/
def Core.tileBack (c : Core) (num : Nat) : Core :=
  let one (e : Eff) : Eff := match e with | .waits m n => if m = num then .waits m (n - 1) else e | e => e
  { c with landings := c.landings.map fun l => { l with effs := l.effs.map one } }

/-- An acknowledgement, a NACK or an answer leaves by a port. Log entry 20. -/
def State.control (s : State) (port : Fin 16) (kind : Nat) (lseq : BitVec 16) (dst : BitVec 8) (pairSeq : BitVec 32) (payload : List Byte) :
    State :=
  let f : Flit := { lseq, kind := BitVec.ofNat 16 kind, srcMod := BitVec.ofNat 8 s.hub.moduleNo, dstMod := dst, pairSeq, beat := 0, last := 1,
                    payload, crc := 0 }
  s.modPort port fun p => { p with replies := p.replies ++ [{ f with crc := flitCrc f }] }

/-- The end-to-end acknowledgement, or the refusal, of a packet of another module, behind the bytes that answer it. -/
def State.answerPacket (s : State) (port : Fin 16) (m seq : Nat) (r : Option (List Byte × Bool)) : State :=
  let bytes := (r.map (·.1)).getD []
  let s := if bytes.isEmpty then s else s.sendFlits port m seq ((r.map (·.2)).getD false) bytes
  s.control port 3 0 (BitVec.ofNat 8 m) (BitVec.ofNat 32 seq) [if r.isSome then 0 else 1]

/-- Pair sequence numbers that a re-send may still name (R300). -/
def nearSeq (seq q : Nat) : Bool := (seq + 2 ^ 32 - q) % 2 ^ 32 < 4096 || (q + 2 ^ 32 - seq) % 2 ^ 32 < 4096

/-- A part of an answer put in its place, by the number of its packet. -/
def putPart (p : Nat × List Byte) : List (Nat × List Byte) → List (Nat × List Byte)
  | [] => [p]
  | q :: qs => if p.1 < q.1 then p :: q :: qs else q :: putPart p qs

/-- One of the packets of a packet from another module has been performed, or its data has come back; after the last it is answered, and the
answer kept for a re-send (R300, R351). -/
def State.inboundBack (s : State) (id num : Nat) : State :=
  match s.inbound.find? (·.id = id) with
  | none => s
  | some x =>
    let x := { x with out := x.out.erase num }
    if !x.out.isEmpty then { s with inbound := s.inbound.map fun (y : Inbound) => if y.id = id then x else y }
    else
      let bytes := x.data.flatMap (·.2)
      let s := { s with inbound := s.inbound.filter (·.id ≠ id) }
      let s := s.modLink x.module fun l => { l with answers := (x.seq, bytes, x.marked) :: l.answers.filter fun a => nearSeq x.seq a.1 }
      s.answerPacket x.port x.module x.seq (if x.failed then none else some (bytes, x.marked))

/-- A packet has been performed and acknowledged, or its data has come back. -/
def State.settled (s : State) (c : CoreId) (of_ : Carrier) (num : Nat) : State :=
  match of_ with
  | .scalar m =>
    let s := s.modCore c fun k =>
      { k with globals := if k.activity = .stopped then k.globals.filter (·.num ≠ m)
                 else k.globals.map fun g => if g.num = m then { g with back := true } else g,
               copies := k.copies.map fun x => { x with awaits := x.awaits.erase m } }
    (s.advanceCopies c).thaw c
  | .tile m => (s.modCore c fun k => k.tileBack m).thaw c
  | .index m =>
    (s.modCore c fun k => { k with ahead := k.ahead.map fun f => if f.num = m then { f with out := f.out.erase num } else f }).thaw c
  | .copy id =>
    let s := s.modCore c fun k => k.modCopy id fun x => { x with out := x.out.erase num }
    match (s.core c).copies.find? (·.id = id) with
    | some k => if k.finished then s.copyIfDone c id else s.advanceCopies c
    | none => s
  | .inbound id => s.inboundBack id num
  | .outside => s

/-! ### Reads and writes served (R219, R266, R293, R298) -/

/-- A run that a read of some bytes covers. -/
def LoadRun.within (r : LoadRun) (sp : Space) (a n : Nat) : Bool :=
  match r.src with | some l => l.sp = sp && a ≤ l.addr && l.addr < a + n | none => false

/-- The runs of a list that a read covers are read from memory. -/
def State.sampleRange (s : State) (die : DieId) (last : Bool) (sp : Space) (a n : Nat) : List LoadRun → State × List LoadRun
  | [] => (s, [])
  | r :: rs =>
    let x := if r.within sp a n then s.sampleRun die last r else (s, r)
    let y := x.1.sampleRange die last sp a n rs
    (y.1, x.2 :: y.2)

/-- The loads among some effects that a read covers are read. -/
def State.sampleEffs (s : State) (die : DieId) (sp : Space) (a n : Nat) : List Eff → State × List Eff
  | [] => (s, [])
  | e :: es =>
    let x := s.sampleRange die false sp a n e.runs
    let y := x.1.sampleEffs die sp a n es
    (y.1, e.withRuns x.2 :: y.2)

/-- The landings that wait for a tile's packets, read where a read covers them. -/
def State.sampleTile (s : State) (die : DieId) (num : Nat) (sp : Space) (a n : Nat) : List Landing → State × List Landing
  | [] => (s, [])
  | l :: ls =>
    let mine := l.effs.any fun e => match e with | .waits m _ => m = num | _ => false
    let x := if mine then s.sampleEffs die sp a n l.effs else (s, l.effs)
    let y := x.1.sampleTile die num sp a n ls
    (y.1, { l with effs := x.2 } :: y.2)

/-- The landing of a tile hears the releases that a read has met (R295). -/
def Landing.hearing (num : Nat) (heard : List (CoreId × Covered)) (l : Landing) : Landing :=
  let mine := l.effs.any fun e => match e with | .waits m _ => m = num | _ => false
  if mine && !heard.isEmpty then { l with effs := l.effs ++ [.hears heard] } else l

/-- A read of a copy meets a failed root port, or is lost: the rows that it would have filled are not written (R233, R266, R301). -/
def State.readFailed (s : State) (c : CoreId) (id status : Nat) (sp : Space) (a n : Nat) : State :=
  match (s.core c).copies.find? (·.id = id) with
  | none => s
  | some k =>
    let rows := ((k.got.filter fun r => r.within sp a n).map fun r => r.to_ / 4096).eraseDups
    let s := rows.foldl (fun s r => s.dropRow c id r) (s.copyStatus c id status)
    s.modCore c fun x => x.modCopy id fun k =>
      { k with got := k.got.map fun r => if r.within sp a n then { r with src := none, data := List.replicate r.n 0 } else r }

/-- The source bytes of a copy, or of an index tile, that a read covers are read; whether some granule is to be read once more. -/
def State.serveRuns (s : State) (c : CoreId) (of_ : Carrier) (last : Bool) (sp : Space) (a n : Nat) : State × Bool :=
  match of_ with
  | .index m =>
    match (s.core c).ahead.find? (·.num = m) with
    | none => (s, false)
    | some f =>
      let r := s.sampleRange (dieOf c) last sp a n f.runs
      (r.1.modCore c fun k => { k with ahead := k.ahead.map fun g => if g.num = m then { g with runs := r.2 } else g },
       r.2.any fun x => x.again && x.within sp a n)
  | .copy id =>
    if s.tier2Down sp a then (s.readFailed c id 1 sp a n, false)
    else
      match (s.core c).copies.find? (·.id = id) with
      | none => (s, false)
      | some k =>
        let r := s.sampleRange (dieOf c) last sp a n k.got
        (r.1.modCore c fun x => x.modCopy id fun k => { k with got := r.2 }, r.2.any fun x => x.again && x.within sp a n)
  | _ => (s, false)

/-- A read is served at a port (R293): the bytes are taken from memory now, a touch of guard granules is recorded, and the data goes
back; a granule under REPLAY_THEN_ZERO is read once more first (R219). -/
def State.serveRead (s : State) (d : DieId) (o : Port) (p : Packet) (last : Bool) : State :=
  let c := p.msg.src
  match p.msg.of_ with
  | .scalar m => (s.performWhere c fun g => g.num = m).sendBack d o p
  | .tile m =>
    let s := s.touchRead p.sp p.addr p.bytes
    let heard := s.heardAt p.sp p.addr p.bytes
    let r := s.sampleTile (dieOf c) m p.sp p.addr p.bytes (s.core c).landings
    (r.1.modCore c fun k => { k with landings := r.2.map (Landing.hearing m heard) }).sendBack d o p
  | .inbound id =>
    let s := s.touchRead p.sp p.addr p.bytes
    let r := s.loadLoc ⟨p.sp, p.addr⟩ p.bytes
    { s with inbound := s.inbound.map fun (x : Inbound) =>
        if x.id = id then { x with data := putPart (p.num, r.1) x.data, marked := x.marked || r.2 } else x }.sendBack d o p
  | of_ =>
    let r := (s.touchRead p.sp p.addr p.bytes).serveRuns c of_ last p.sp p.addr p.bytes
    if r.2 then
      let again : PortWrite := { p.msg with ops := [.read p.sp p.addr p.bytes true] }
      r.1.deliver d o ((s.die d).dclk + 1) { p with msg := again }
    else r.1.sendBack d o p

/-- Bytes that the operations of a copy write. -/
def opBytes (ops : List PortOp) : Nat := (ops.flatMap opPayload).length

/-- An operation of a packet from another module is performed: no core's store, it enters no table of recent writers. -/
def State.inboundOp (s : State) (id : Nat) (o : PortOp) : State :=
  let keep (s : State) (x : List Byte × Bool) : State :=
    { s with inbound := s.inbound.map fun (y : Inbound) => if y.id = id then { y with data := [(0, x.1)], marked := x.2 } else y }
  match o with
  | .bytes sp cells marked => s.writeSpace sp (cells.filter fun p => !s.tier2Down sp p.1) marked
  | .accum sp a f op v m => if s.tier2Down sp a then s else (s.combine sp a f m fun f old => accumBits f op.toNat old v.toNat).1
  | .atom sp a f op v w m =>
    if s.tier2Down sp a then s
    else
      let n := ((fmtOf f.toNat).map Fmt.size).getD 0
      let r := s.combine sp a f m fun f old => atomBits f op.toNat old v.toNat w.toNat
      keep r.1 (natBytes n r.2, s.markedAt sp a n)
  | _ => s

/-- A write is performed at its port (R266, R298). -/
def State.serveWrite (s : State) (w : PortWrite) : State :=
  match w.of_ with
  | .scalar m => s.performWhere w.src fun g => g.num = m
  | .copy id =>
    let down := w.ops.any s.opDown
    let s := w.ops.foldl (fun s o => s.portOp w o) s
    if down then s.copyStatus w.src id 1
    else s.modCore w.src fun c => c.modCopy id fun k => { k with written := k.written + opBytes w.ops }
  | .inbound id =>
    let s := if w.ops.any s.opDown then { s with inbound := s.inbound.map fun (x : Inbound) => if x.id = id then { x with failed := true } else x } else s
    w.ops.foldl (fun s o => s.inboundOp id o) s
  | _ => w.ops.foldl (fun s o => s.portOp w o) s

/-- A packet is served at the port it is bound for. -/
def State.serve (s : State) (d : DieId) (o : Port) (p : Packet) : State :=
  match p.msg.ops with
  | .read _ _ _ last :: _ => s.serveRead d o p last
  | .cast id c :: _ => (s.castData id c).settled p.msg.src p.msg.of_ p.num
  | .back :: _ => s.settled p.msg.src p.msg.of_ p.num
  | _ => (s.serveWrite p.msg).settled p.msg.src p.msg.of_ p.num

/-! ### Waits at a port (R258, R263–R266, R317, R346) -/

/-- A group-4 read of a Plate asks for its lines, and waits until every one has been granted its bank (R258). -/
def State.bankWait (s : State) (g : CoreId) (p : Packet) : State × Nat :=
  let k := s.core g
  if k.granted4.contains p.num then (s.modCore g fun k => { k with granted4 := k.granted4.erase p.num }, 0)
  else if k.reads4.any fun r => r.2.2 = p.num then (s, 1)
  else (s.modCore g fun k => { k with reads4 := k.reads4 ++ (granules p.addr p.bytes).map fun l => (s.now g, l, p.num) }, 1)

/-- The longest wait of a list. -/
def longest (ns : List Nat) : Nat := ns.foldl max 0

/-- The die cycles for which a packet still waits at the port it has reached: for the refresh of a bank that holds a line of it, which it meets
once, for the lane repair of a channel, and, where its tenant does not own the slot in force, for patrol scrub (R265, R353). -/
def State.portWait (s : State) (d : DieId) (o : Port) (p : Packet) : State × Nat :=
  let k := s.die d
  let scrub := if (k.outs[o]).owner k.dclk = some p.tenant then 0 else k.scrubUntil[o] - k.dclk
  match p.msg.ops with
  | .back :: _ => (s, 0)
  | .cast id c :: _ => (s, if s.castFull id c then 1 else 0)
  | op :: _ =>
    match p.sp with
    | .hbm =>
      let at_ := (granules p.addr p.bytes).map (64 * ·)
      let pause := longest (at_.map fun a => k.pausedUntil[Config.hbmChannel a] - k.dclk)
      let refresh := if p.met then 0 else longest (k.refreshing.map fun r =>
        if at_.any fun a => hbmSlice a = r.1 && Config.hbmBank a = r.2.1 then r.2.2 - k.dclk else 0)
      let met (q : Nat × Packet) : Nat × Packet := if q.2 = p then (q.1, { p with met := true }) else q
      (if refresh = 0 then s else s.modOut d o fun x => { x with buffer := x.buffer.map met }, max scrub (max pause refresh))
    | .wstore _ => (s, max scrub ((k.groups[Fin.ofNat 32 (p.addr / 2 ^ 25)]).busyUntil - k.dclk))
    | .plate g => match op with | .read _ _ _ _ => s.bankWait g p | _ => (s, scrub)
    | _ => (s, 0)
  | [] => (s, 0)

/-- The packets that have arrived at the hub, by any die's hub port (R317). -/
def State.atHub (s : State) : List Packet :=
  (List.finRange 4).flatMap fun d =>
    (((s.die d).outs[48 + d.val]).buffer.filter fun b => b.1 ≤ (s.die d).dclk).map (·.2)

/-- A packet for TIER2 may pass its root port now, as the port's slot table says (R317). -/
def State.cxlGo (s : State) (now : Nat) (p : Packet) : Bool :=
  match p.sp, p.msg.ops with
  | .tier2, .back :: _ => true
  | .tier2, _ =>
    let port := s.tier2Port p.addr
    let t : OutPort := { OutPort.reset with slots := s.hub.cxlSlots[port] }
    let same := s.atHub.filter fun q => q.sp = .tier2 && s.tier2Port q.addr = port
    let ownerWaits := match t.owner now with | some u => same.any (·.tenant = u) | none => false
    t.mayGo true now ownerWaits p.tenant p.beats
  | _, _ => true

/-- The packet that a port serves next: the first to have arrived; behind the hub, the first that its root port's slot table lets go
and that need not stay behind another. -/
def State.nextServed (s : State) (now : Nat) (buffer : List (Nat × Packet)) : Option Packet :=
  let arrived := (buffer.filter (·.1 ≤ now)).map (·.2)
  if arrived.all fun p => p.sp ≠ .tier2 then arrived.head?
  else (unblocked [] arrived).find? (s.cxlGo now)

/-- MEMORY_PORT_ARRIVAL (R298): a packet that has reached a port is served, in order of arrival, once its memory is free. -/
def execMemoryPortArrival (s : State) : Out :=
  match s.event with
  | .memoryPortArrival d o =>
    let now := (s.die d).dclk
    let buffer := ((s.die d).outs[o]).buffer
    match buffer.head?, s.nextServed now buffer with
    | none, _ => .next s
    | some h, none => .next (s.schedule (if now < h.1 then h.1 - now else 1) s.event)
    | some _, some p =>
      let w := s.portWait d o p
      if 0 < w.2 then .next (w.1.schedule w.2 s.event)
      else
        let rest := buffer.filter fun b => b.2.num ≠ p.num
        let s := w.1.modOut d o fun x => { x with buffer := rest }
        let s := match rest.head? with | some h => s.schedule (h.1 - now) (.memoryPortArrival d o) | none => s
        .next (s.serve d o p)
  | _ => .next s

/-! ### Packets toward another module (R300, R301, R350, R351) -/

/-- A packet is lost because every path is down: its copy reports STATUS 3, and the loss goes to an error bank of the sending die
(R301, R337, R350). -/
def State.peerLost (s : State) (m : Nat) (p : PeerPacket) (die : DieId) : State :=
  let bank : Fin 16 := if p.red.isSome then 15 else 12
  let core := (p.copy.map (·.1)).or (p.red.map (·.srcCore))
  let s := s.dieError die bank { uc := true, kind := 10, unit := p.port.val % 4, core, addr := m, info := p.pairSeq }
  let s := if p.red.isSome then s.lifeAdd die (lifeOther 3) 1 else s
  match p.copy with
  | some (c, id) =>
    match p.ops with
    | .read sp a n _ :: _ => (s.readFailed c id 3 sp a n).settled c (.copy id) p.num
    | _ =>
      let s := (s.copyStatus c id 3).loseWrite m c id
      s.settled c (.copy id) p.num
  | none => s

/-- The die of a Biryar port. -/
def portDie (port : Fin 16) : DieId := Fin.ofNat 4 (port.val / 4)

/-- A packet of a core leaves by its path, or is lost. -/
def State.peerOut (s : State) (die : DieId) (m : Nat) (port : Fin 16) (p : Packet) : State :=
  let q : PeerPacket :=
    { pairSeq := 0, port, via := [], num := p.num, addr := p.addr, bytes := p.bytes, copy := (carrierCopy p.msg.of_).map fun id => (p.msg.src, id),
      ops := p.msg.ops, red := none }
  match s.pathFor m port [] with
  | some r =>
    let o := Fin.ofNat 64 (52 + port.val % 4)
    let isRead := match p.msg.ops with | .read _ _ _ _ :: _ => true | _ => false
    let back := if isRead then peerTransit (s.linkRate r.1) r.2.length p.bytes else 0
    s.sendPeer m { q with port := r.1, via := r.2 } (s.holdOf (portDie port) o p + back) (if isRead then 0 else p.bytes)
  | none => s.peerLost m q die

/-- An earlier packet of the same core, toward the same bytes of that module, is still unacknowledged (R228, R229). -/
def peerBehind (unacked : List PeerPacket) (p : PeerPacket) : Bool :=
  (unacked.takeWhile (·.pairSeq ≠ p.pairSeq)).any fun q =>
    q.copy.isSome && q.copy.map (·.1) = p.copy.map (·.1) && q.addr < p.addr + p.bytes && p.addr < q.addr + q.bytes

/-- What a packet of a copy does at the other module, and its answer: a write is performed there; a read's data comes back by its
port. -/
def State.peerDone (s : State) (m : Nat) (p : PeerPacket) : State :=
  match p.copy with
  | none => s
  | some (c, id) =>
    let w : PortWrite := { src := c, of_ := .copy id, known := [], ops := p.ops }
    match p.ops with
    | .read sp a n last :: _ =>
      let d := portDie p.port
      let q : Packet := { num := p.num, inPort := 0, outPort := 0, beats := 1, dstDie := d, dstPort := 0, sp := .peer m, addr := a, bytes := n,
                          lane := laneOf sp a, tenant := (s.core c).tenant.val, msg := w }
      let r := s.serveRuns c (.copy id) last sp a n
      let r := if r.2 then r.1.serveRuns c (.copy id) true sp a n else r
      r.1.sendBack d (Fin.ofNat 64 (52 + p.port.val % 4)) q
    | _ => (s.serveWrite w).settled c (.copy id) p.num

/-- END_TO_END_ACK (R301): the packet has been performed at the other module, once (R300), and after the earlier ones of its core to
the same bytes. -/
def execEndToEndAck (s : State) : Out :=
  match s.event with
  | .endToEndAck m seq =>
    match s.linkTo m with
    | none => .next s
    | some l =>
      match l.unacked.find? (·.pairSeq = seq) with
      | none => .next s
      | some p =>
        if peerBehind l.unacked p then .next (s.schedule 1 s.event)
        else .next ((s.acked m seq).peerDone m p)
  | _ => .next s

/-! ### The crossbar's steps (R317, R340–R344) -/

/-- A granted packet passes its output: to the other die, onto a path, or to the unit at the port. The cycles that a retry of the link
adds, which its port counts (R367), and those the fabric takes, are choices; nothing overtakes on the way (R343, R344). -/
def State.carry (s : State) (d : DieId) (o : Port) (p : Packet) : State :=
  let k := s.die d
  if p.dstDie ≠ d then
    let t := max (k.dclk + 24 + (p.beats - 1) + s.choice) (k.outs[o]).lastOut
    let s := if s.choice = 0 then s else s.lifeAdd d (0x1240 + 8 * p.dstDie.val) 1
    (s.chosen.modOut d o fun x => { x with lastOut := t }).schedule (t - k.dclk)
      (.d2dDelivery p.dstDie { p with inPort := Fin.ofNat 64 (48 + d.val), outPort := p.dstPort })
  else
    match packetModule p with
    | some m => s.peerOut d m (Fin.ofNat 16 (4 * d.val + o.val % 4)) p
    | none => s.chosen.deliver d o (k.dclk + p.beats + s.choice) p

/-- A packet that may leave: one toward a module waits while 4,096 of this module's are unacknowledged there (R300), and one to a unit
while its buffer is full, which it may be where it is not empty (R342; log entry 78). -/
def State.packetReady (s : State) (d : DieId) (o : Port) (p : Packet) : Bool :=
  if p.dstDie ≠ d then true
  else
    match packetModule p with
    | some m => s.linkRoom m
    | none => ((s.die d).outs[o]).buffer.isEmpty || s.choice / 65536 % 2 = 0

/-- CROSSBAR_GRANT (R340, R342): a free output grants a waiting packet, which holds it and its input; where none may go, it is tried again: for a
full buffer or a busy input in the next die cycle, for the slot table when its next entry begins. -/
def execCrossbarGrant (s : State) : Out :=
  match s.event with
  | .crossbarGrant d o =>
    let now := (s.die d).dclk
    let x := (s.die d).outs[o]
    if x.waiting.isEmpty then .next s
    else if now < x.freeAt then .next (s.schedule (x.freeAt - now) s.event)
    else
      let ready (p : Packet) : Bool := p.notBefore ≤ now && (s.die d).inFree[p.inPort] ≤ now && s.packetReady d o p
      match x.pick (hasTable o) now s.choice ready (s.holdOf d o) with
      | none => .next (s.chosen.schedule (if x.waiting.all ready then 8 - now % 8 else 1) s.event)
      | some p =>
        let n := s.holdOf d o p
        let s := s.chosen.modDie d fun x => { x with inFree := x.inFree.set p.inPort (now + n) }
        .next ((s.modOut d o fun x => x.grant now n p).carry d o p)
  | _ => .next s

/-- D2D_DELIVERY (R344): a packet leaves the link on the far die and waits for its output there. -/
def execD2dDelivery (s : State) : Out :=
  match s.event with
  | .d2dDelivery d p => .next (s.request d p)
  | _ => .next s

/-! ### Translations that arrive (R269, R270) -/

/-- The translation that a copy waits for arrives, or its walk has found none and passes to the module OS. -/
def State.copyTranslated (s : State) (c : CoreId) (id : Nat) : State :=
  match ((s.core c).copies.find? (·.id = id)).bind (·.missing) with
  | none => s
  | some (va, r) =>
    let ctx := Fin.ofNat 9 (s.core c).tenant.val
    let l := s.leafFor c (.copy id) ctx va r
    let s := s.leaveWalk c (.copy id)
    match l with
    | some l => ((s.tlbFill c ctx l).modCore c fun x => x.modCopy id fun k => { k with missing := none }).advanceCopies c
    | none => s.chosen.schedule (1 + s.choice) (.pageFaultResolved c (some id) .unmapped)

/-- A page of a TPREF has a translation, which enters the TLBs, or none, which is ignored (R224). -/
def State.aheadTranslated (s : State) (c : CoreId) (ctx : Fin 9) (page : Nat) : State :=
  let who := Asker.ahead ctx page
  let l := (findTlb (s.die (dieOf c)).tlb ctx page).or
    (((s.walkOf c who).bind (·.leaf)).map fun e => { va := e.va, size := e.size, pte := e.pte })
  let s := s.leaveWalk c who
  match l with
  | some l => s.tlbFill c ctx l
  | none => s

/-- TLB_MISS_RESOLVED (R269): the walk goes on, or the translation arrives. Who no longer waits leaves it. -/
def execTlbMissResolved (s : State) : Out :=
  match s.event with
  | .tlbMissResolved c (.copy id) =>
    match ((s.core c).copies.find? (·.id = id)).bind (·.missing) with
    | none => .next (s.leaveWalk c (.copy id))
    | some (va, _) =>
      let ctx := Fin.ofNat 9 (s.core c).tenant.val
      .next (if s.walking c (.copy id) ctx va then s.walkOn c (.copy id) ctx va else s.copyTranslated c id)
  | .tlbMissResolved c .core =>
    match (s.core c).freeze with
    | some (.translation va r) =>
      let ctx := (s.core c).ctx
      .next (if s.walking c .core ctx va then s.walkOn c .core ctx va else s.translated c va r)
    | _ => .next (s.leaveWalk c .core)
  | .tlbMissResolved c (.ahead ctx page) =>
    let who := Asker.ahead ctx page
    .next (if s.walking c who ctx page then s.walkOn c who ctx page else s.aheadTranslated c ctx page)
  | _ => .next s

/-- PAGE_FAULT_RESOLVED (R269, R270): a mapping has been installed and the walk repeats, or the access is unmapped: a core's access
faults precisely, a copy completes with STATUS 1. -/
def execPageFaultResolved (s : State) : Out :=
  match s.event with
  | .pageFaultResolved c none fix =>
    match (s.core c).freeze with
    | some (.translation va r) =>
      match fix with
      | .installed ptes => .next ((s.installPtes ptes).tlbMiss c va r)
      | .unmapped => .next (s.modCore c fun k => { k with freeze := none, unmapped := va / 65536 :: k.unmapped })
    | _ => .next s
  | .pageFaultResolved c (some id) fix =>
    match ((s.core c).copies.find? (·.id = id)).bind (·.missing) with
    | none => .next s
    | some (va, r) =>
      match fix with
      | .installed ptes => .next ((s.installPtes ptes).copyMiss c id va r)
      | .unmapped =>
        .next ((s.modCore c fun x => x.modCopy id fun k =>
          { k with missing := none, unmapped := va / 65536 :: k.unmapped }).advanceCopies c)
  | _ => .next s

end Sys2Proof.Machine
end

