-- ==== Sys2Proof/Machine/Reduction.lean ====
section
/-! DEFINITION. Reductions with deadlines (R302, R325–R339): arming a node, contributing, what a node does with a packet and at its
deadline, and the records of a root. -/

namespace Sys2Proof.Machine

/-! ### Descriptors (R326) -/

/-- The 32 bytes of a node descriptor. -/
abbrev NodeDesc := BitVec 256

def ndExpect (d : NodeDesc) : BitVec 64 := BitVec.ofNat 64 (bitsOf d 0 64)
def ndDeadline (d : NodeDesc) : Nat := bitsOf d 64 32
def ndFmt (d : NodeDesc) : Nat := bitsOf d 96 5
def ndOp (d : NodeDesc) : Nat := bitsOf d 104 2
def ndPolicy (d : NodeDesc) : Nat := bitsOf d 106 2
def ndRoot (d : NodeDesc) : Bool := bitOf d 108
def ndSemen (d : NodeDesc) : Bool := bitOf d 109
def ndPeer (d : NodeDesc) : Bool := bitOf d 110
def ndPrank (d : NodeDesc) : Nat := bitsOf d 112 7
def ndPnode (d : NodeDesc) : Fin 8 := Fin.ofNat 8 (bitsOf d 120 3)
def ndSemrk (d : NodeDesc) : Nat := bitsOf d 128 7
def ndSemi (d : NodeDesc) : Reg := Fin.ofNat 32 (bitsOf d 136 5)
def ndPmod (d : NodeDesc) : Nat := bitsOf d 144 8

/-- The set bits of a leaf mask. -/
def popcount64 (b : BitVec 64) : Nat := ((List.range 64).filter fun k => b.toNat / 2 ^ k % 2 = 1).length

/-- A field in range, no reserved bit, and the rules of R326. -/
def ndValid (d : NodeDesc) : Bool :=
  ndExpect d ≠ 0 && (ndFmt d = 3 || ndFmt d = 4 || (8 ≤ ndFmt d && ndFmt d ≤ 10)) && ndOp d ≠ 3 && ndPolicy d ≠ 3 &&
  bitsOf d 101 3 = 0 && !bitOf d 111 && !bitOf d 119 && bitsOf d 123 5 = 0 && !bitOf d 135 && bitsOf d 141 3 = 0 &&
  bitsOf d 152 8 = 0 && bitsOf d 192 64 = 0 &&
  (if ndRoot d then bitsOf d 112 16 = 0 && ndPmod d = 0 && !ndPeer d
   else ndPolicy d = 0 && !ndSemen d && ndSemrk d = 0 && bitsOf d 136 5 = 0) &&
  (ndSemen d || (ndSemrk d = 0 && bitsOf d 136 5 = 0))

/-- The refusal of an RNODE (R327). -/
def nodeRefusal (n : RedNode) (d : NodeDesc) (len size : Nat) (sc : Scope) (rank node : Nat) : Option Nat :=
  if n.state ≠ .idle then some 1
  else if !ndValid d then some 2
  else if ndRoot d && ndPolicy d = 0 && ndOp d ≠ 0 then some 3
  else if len % ((fmtOf (ndFmt d)).map Fmt.size).getD 1 ≠ 0 then some 4
  else if (!ndRoot d && !ndPeer d && (size ≤ ndPrank d || (ndPrank d = rank && (ndPnode d).val = node))) || (ndSemen d && size ≤ ndSemrk d)
  then some 5
  else if ndPeer d && sc ≠ .peer && sc ≠ .system then some 6
  else none

/-- The EVQ entries that an RNODE reserves (R328). -/
def ndReserve (d : NodeDesc) : Nat := if !ndRoot d then 1 else if ndPolicy d = 1 then 3 else 2

/-! ### Elements (R333) -/

/-- An element's identity: 0 for a sum, the lowest value for MAX, the highest for MIN. -/
def identityBits (f : Fmt) (op : Nat) : Nat :=
  match op with
  | 0 => 0
  | 1 => match f.float with
    | some l => l.signed true (l.inf.getD l.maxCode)
    | none => 2 ^ (f.bits - 1)
  | _ => match f.float with
    | some l => l.inf.getD l.maxCode
    | none => 2 ^ (f.bits - 1) - 1

/-- Bytes of elements. -/
def elemBytes (f : Fmt) (es : List Nat) : List Byte := es.flatMap (natBytes f.size)

/-- Elements of bytes. -/
def byteElems (f : Fmt) (bs : List Byte) : List Nat := (chunks (bs.length / f.size) f.size bs).map bytesNat

/-- Two tiles combined element by element, one rounding each. -/
def combineTiles (f : Fmt) (op : Nat) (a b : List Byte) : List Byte :=
  elemBytes f (((byteElems f a).zip (byteElems f b)).map fun p => accumBits f op p.1 p.2)

/-- sum × expected / arrived, rounded once; an integer saturates. -/
def rescaleBits (f : Fmt) (expected arrived bits : Nat) : Nat :=
  let v : Exact := match (f.decode bits).exact with
    | .ratio s n d e => .ratio s (n * expected) (d * arrived) e
    | v => v
  ((portCtx f).narrow 0 (v, 0)).1

/-- The format of a node. -/
def RedNode.fmt_ (n : RedNode) : Fmt := (fmtOf n.fmt).getD .int8

/-- The identity tile. -/
def RedNode.identity (n : RedNode) : List Byte := elemBytes n.fmt_ (List.replicate (n.len / n.fmt_.size) (identityBits n.fmt_ n.op))

/-- The lowest leaf of a bitmap. -/
def lowestLeaf (b : BitVec 64) : Nat := ((List.range 64).find? fun k => b.toNat / 2 ^ k % 2 = 1).getD 64

/-- Stored packets in ascending order of their lowest leaf. -/
def insertLeaf (t : StoredTile) : List StoredTile → List StoredTile
  | [] => [t]
  | u :: us => if lowestLeaf t.bitmap < lowestLeaf u.bitmap then t :: u :: us else u :: insertLeaf t us

/-- Bytes of a row of a core's Plate, and whether they are marked. -/
def State.rowAt (s : State) (c : CoreId) (off n : Nat) : List Byte × Bool := (s.readSpace (.plate c) off n, s.markedAt (.plate c) off n)

/-- The rows of stored packets in leaf order. -/
def leafRows (ts : List StoredTile) : List Nat := (ts.foldl (fun l t => insertLeaf t l) []).map (·.row)

/-- Rows summed in order, onto a value where there is one, and whether one is marked. -/
def State.sumRows (s : State) (c : CoreId) (f : Fmt) (op len : Nat) (start : Option (List Byte)) (rows : List Nat) : Option (List Byte) × Bool :=
  rows.foldl (fun v row =>
    let r := s.rowAt c row len
    (some (match v.1 with | none => r.1 | some a => combineTiles f op a r.1), v.2 || r.2)) (start, false)

/-! ### Views of RNODE and RCONT (R328, R329, R339) -/

/-- The bytes from CB to ROWB − 1 of a view row. -/
def restOfRow (q : QEntry) (o : Operand) : Nat :=
  match o with
  | .view vw _ _ cb => viewRowb (q.view vw) - 128 * cb.val
  | _ => 0

/-- The buffer rows of an RNODE: row `row`, and under DET the rows that follow. -/
def bufferUse (v : VWord) (q : QEntry) (rows : Nat) : List ViewUse :=
  match useOf 0 v.d (1 + rows) (restOfRow q v.d) with
  | some u => [{ u with step := 1 }]
  | none => []

def descUse (v : VWord) : List ViewUse := (useOf 1 v.s1 1 32).toList

/-- The descriptor of an RNODE, read now. -/
def Core.nodeDesc (c : Core) (q : QEntry) (v : VWord) : NodeDesc :=
  match descUse v with
  | u :: _ => if u.outOfBounds (q.view u.vw) then 0 else BitVec.ofNat 256 (joinBytes (c.useBytes (q.view u.vw) u).flatten).bits
  | [] => 0

/-- MODE.DET at issue. -/
def QEntry.det (q : QEntry) : Bool := bitOf q.cap.mode 1

/-- Rows kept apart under DET. -/
def detRows (q : QEntry) (d : NodeDesc) : Nat := if q.det then popcount64 (ndExpect d) else 0

def dispatchRnode (v : VWord) (x : Env) : CopyPlan :=
  let d := x.c.nodeDesc x.q v
  let us := descUse v
  let bs := bufferUse v x.q (detRows x.q d)
  { fault := usesFault x.q.view (bs ++ us),
    reads := us.flatMap fun u => useRanges (x.q.view u.vw) u, views := useBytesAt x.q us,
    holds := (bs ++ us).flatMap fun u => useRanges (x.q.view u.vw) u }
def execRnode (v : VWord) (s : State) : Out := s.issueV (.rnode v) v

/-- The target literal of RCONT: rank, node, leaf. -/
def rcontTarget (v : VWord) : Nat := match v.s2 with | .lit l => l.toNat | .op _ => 0

def rcontUse (v : VWord) (q : QEntry) : List ViewUse := (useOf 1 v.s1 1 (restOfRow q v.s1)).toList

def dispatchRcont (v : VWord) (x : Env) : CopyPlan :=
  let t := rcontTarget v
  let us := rcontUse v x.q
  let rank := if 2 ^ 16 ≤ t || x.c.groupSize ≤ t % 128 then some ((.groupViolation, BitVec.ofNat 64 t) : Cause × Word) else none
  { fault := (usesFault x.q.view us).or rank, reads := us.flatMap fun u => useRanges (x.q.view u.vw) u, views := useBytesAt x.q us }
def execRcont (v : VWord) (s : State) : Out := s.issueV (.rcont v) v

/-! ### Transit (R335) -/

/-- Die cycles from core to core for L bytes. -/
def transit (a b : CoreId) (l : Nat) : Nat :=
  (if a = b then 6 else if dieOf a = dieOf b then 12 else 28) + (l + 255) / 256

/-- A packet on its way to a node of this module. -/
def State.sendRed (s : State) (p : RedPacket) : State :=
  s.chosen.schedule (transit p.srcCore p.dstCore p.tile.length + s.choice) (.reductionPacketArrival p)

/-! ### Arming (R328) -/

/-- A node changed. -/
def State.modNode (s : State) (c : CoreId) (n : Fin 8) (f : RedNode → RedNode) : State :=
  s.modCore c fun k => { k with nodes := k.nodes.set n (f k.nodes[n]) }

/-- The lines of a row that carry poison when its data is marked. -/
def rowLines (off n : Nat) (marked : Bool) : List Nat := if marked then granules off n else []

/-- The buffer row written. -/
def State.writeRow (s : State) (c : CoreId) (off : Nat) (bs : List Byte) (marked : Bool) : State :=
  s.modCore c fun k => k.writePlate (cellsFrom off bs) (rowLines off bs.length marked)

/-- A tile added to a buffer row: the addition reads the row as it stands (R292, R298). -/
def State.addToRow (s : State) (c : CoreId) (off fmt op : Nat) (tile : List Byte) (marked : Bool) : State :=
  let old := s.rowAt c off tile.length
  s.writeRow c off (combineTiles ((fmtOf fmt).getD .int8) op old.1 tile) (marked || old.2)

/-- The buffer row of a node. -/
def RedNode.row (n : RedNode) : Nat := n.rows.headD 0

/-- An RNODE starts at its dispatch: the node is armed, or the refusal is on its way to the EVQ. DEDUCED (log entry 105): one whose release
covers lost writes arms nothing and reports STATUS 3, as a copy does (R301). -/
def State.startRnode (s : State) (q : QEntry) (v : VWord) (p : CopyPlan) : State :=
  let node := Fin.ofNat 8 (bitsOf v.xfn 0 3)
  let r := (s.performAll s.cur).covered s.cur (cpScope v)
  let s : State := r.1
  let sc := r.2.scope
  let c := s.cpu
  let d := c.nodeDesc q v
  let len := restOfRow q v.d
  let rows := (bufferUse v q (detRows q d)).flatMap fun u => u.offsets (q.view u.vw)
  let now := s.now s.cur
  let k := { s.copyRecord q 5 r.2 v.tok (ndReserve d) with reads := p.reads, holds := p.holds }
  if s.releaseLost r.2 then (s.putCopy { k with status := 3, bytes := node.val }).schedule 8 (.nodeArmingRecord s.cur node)
  else
  match nodeRefusal c.nodes[node] d len c.groupSize sc c.rank node.val with
  | some code =>
    (s.putCopy { k with status := 7, data := BitVec.ofNat 64 code, bytes := node.val }).schedule 8 (.nodeArmingRecord s.cur node)
  | none =>
    let desc := ((descUse v).flatMap fun u => u.offsets (q.view u.vw)).headD 0
    let arm := now + 6
    let dl := if ndDeadline d = 0 then 2 ^ 32 else ndDeadline d
    let old := c.nodes[node]
    let n : RedNode :=
      { state := .armed, kid := c.kernid.toNat, addr := q.addr, fmt := ndFmt d, op := ndOp d, policy := ndPolicy d, root := ndRoot d,
        semen := ndSemen d, peer := ndPeer d, prank := ndPrank d, pnode := ndPnode d, semrk := ndSemrk d, semi := ndSemi d,
        pmod := ndPmod d, expect := ndExpect d, arrived := 0, len, det := q.det, scope := sc, armAt := arm, deadline := arm + dl,
        rows, descAt := desc, hasValue := false, stored := [], marked := false, known := [],
        reserved := old.reserved + ndReserve d - 1, owed := old.owed }
    let s := s.putCopy { k with data := BitVec.ofNat 64 (arm % 2 ^ 32), bytes := node.val }
    let s := s.modNode s.cur node fun _ => n
    let s := s.modCpu fun c => c.writePlate (cellsFrom (desc + 20) (natBytes 4 0)) []
    let s := s.writeRow s.cur n.row n.identity false
    (s.schedule 8 (.nodeArmingRecord s.cur node)).schedule (6 + dl) (.nodeDeadline s.cur node)

/-- NODE_ARMING_RECORD (R328): an arming writes one of its reserved entries, a refusal gives up all. -/
def execNodeArmingRecord (s : State) : Out :=
  match s.event with
  | .nodeArmingRecord c n =>
    match (s.core c).copies.find? fun k => k.fn = 5 && k.bytes = n.val && k.status ≠ 8 with
    | none => .next s
    | some k => .next (s.finishCopy c k k.status k.data (if k.status = 7 || k.status = 3 then k.reserved else 1))
  | _ => .next s

/-! ### Contributing (R329) -/

/-- An RCONT starts at its dispatch: its tile is read and its packet leaves with its release. DEDUCED (log entry 105): where the release
covers lost writes nothing is sent and the record says STATUS 3 (R301). -/
def State.startRcont (s : State) (q : QEntry) (v : VWord) (p : CopyPlan) : State :=
  let t := rcontTarget v
  let r := (s.performAll s.cur).covered s.cur (cpScope v)
  let s : State := r.1
  let bytes := (rcontUse v q).flatMap fun u => (s.cpu.useBytes (q.view u.vw) u).flatten
  let dst := s.rankCore s.cur (t % 128)
  let k := { s.copyRecord q 6 r.2 v.tok 1 with bytes := bytes.length, waiting := 1, reads := p.reads, holds := p.holds }
  if s.releaseLost r.2 then (s.chosen.putCopy { k with status := 3 }).schedule (1 + s.choice) (.rcontAnswer s.cur k.id (.accept false))
  else
  let s := s.putCopy k
  s.sendRed { srcCore := s.cur, srcNode := none, copy := some k.id, dstCore := dst, dstNode := Fin.ofNat 8 (t / 128 % 8),
              bitmap := BitVec.ofNat 64 (2 ^ (t / 1024 % 64)), tile := bytes.map fun b => BitVec.ofNat 8 b.bits,
              marked := bytes.any (·.bad), order := q.seq,
              known := if s.within r.2.scope s.cur dst then r.2.known else [] }

/-- An answer goes back to an RCONT's core. -/
def State.answer (s : State) (p : RedPacket) (a : RedAnswer) : State :=
  match p.copy with
  | some id => s.chosen.schedule (transit p.dstCore p.srcCore p.tile.length + s.choice) (.rcontAnswer p.srcCore id a)
  | none => s

/-- RCONT_ANSWER (R329). -/
def execRcontAnswer (s : State) : Out :=
  match s.event with
  | .rcontAnswer c id a =>
    match (s.core c).copies.find? (·.id = id) with
    | none => .next s
    | some k =>
      let t := elapsed k.started (s.now c) * 2 ^ 32
      match a with
      | .refuse code => .next (s.finishCopy c k 7 (BitVec.ofNat 64 code) k.reserved)
      | .accept late => .next (s.finishCopy c k k.status (BitVec.ofNat 64 (t + if late then 1 else 0)) k.reserved)
  | _ => .next s

/-! ### What a node does with a packet (R330, R332–R334) -/

/-- A packet sent on to a node's parent. -/
def State.toParent (s : State) (c : CoreId) (i : Fin 8) (n : RedNode) (tile : List Byte) (bitmap : BitVec 64) (marked : Bool)
    (known : List (CoreId × Nat)) : State :=
  let dst := if n.peer then Fin.ofNat 128 n.prank else
    match s.kernels.find? (·.kid = n.kid) with
    | some k => (k.cores[n.prank]?).getD c
    | none => c
  let p : RedPacket := { srcCore := c, srcNode := some i, copy := none, dstCore := dst, dstNode := n.pnode, bitmap, tile, marked,
                         order := 0, known := if n.peer || s.within n.scope c dst then known else [] }
  if n.peer then
    let q : PeerPacket := { pairSeq := 0, port := 0, via := [], num := 0, addr := 0, bytes := 0, copy := none, ops := [], red := some p }
    match (s.livePaths n.pmod).head? with
    | some x => s.sendPeer n.pmod { q with port := x.port, via := x.via } (transit c (coreAt (portDie x.port) (localOf c).val) tile.length)
        tile.length
    | none => s.peerLost n.pmod q (dieOf c)
  else s.sendRed p

/-- Die cycles from a root's forward until its result has landed (R335). -/
def landTime (len : Nat) : Nat := 1 + (len + 511) / 512

/-- A root's result lands later, and its record is written 2 die cycles after that (R332, R335). -/
def State.oweRecord (s : State) (c : CoreId) (i : Fin 8) (result : RootResult) (status : Nat) (bitmap : BitVec 64) : State :=
  let n := (s.core c).nodes[i]
  let r : RootRecord := { row := n.row, len := n.len, fmt := n.fmt, op := n.op, result, marked := n.marked, landed := false,
                          due := s.now c + landTime n.len, status := if n.marked then 4 else status, bitmap, addr := n.addr, scope := n.scope,
                          sem := if n.semen then some (n.semrk, n.semi) else none, known := n.known }
  (s.modNode c i fun n => { n with owed := n.owed ++ [r] }).schedule (landTime n.len) (.rootRecordWrite c i)

/-- What a root's result does to its buffer row: where it adds, it reads what it adds to as it writes (R292, R298). -/
def State.landRow (s : State) (c : CoreId) (r : RootRecord) : State :=
  match r.result with
  | .stays => s
  | .value bs => s.writeRow c r.row bs r.marked
  | .adds bs => s.addToRow c r.row r.fmt r.op bs r.marked
  | .sums rows onto =>
    let old := s.rowAt c r.row r.len
    let sum := s.sumRows c ((fmtOf r.fmt).getD .int8) r.op r.len (if onto then some old.1 else none) rows
    let s := rows.foldl (fun s row => s.touchRead (.plate c) row r.len) s
    s.writeRow c r.row (sum.1.getD old.1) (r.marked || sum.2 || (onto && old.2))

/-- A result that adds to marked data, or marked data, is marked, and its record says so (R356). -/
def State.landedRecord (s : State) (c : CoreId) (r : RootRecord) : RootRecord :=
  let bad := match r.result with
    | .adds _ => s.markedAt (.plate c) r.row r.len
    | .sums rows onto => (onto && s.markedAt (.plate c) r.row r.len) || rows.any fun row => s.markedAt (.plate c) row r.len
    | _ => false
  if bad then { r with marked := true, status := 4 } else r

/-- The results of a root that have still to land are in its row before a late packet is combined with them. -/
def State.landEarlier (s : State) (c : CoreId) (i : Fin 8) : State :=
  let t := (((s.core c).nodes[i]).owed.filter (!·.landed)).foldl (fun s r => s.landRow c r) s
  t.modNode c i fun n => { n with owed := n.owed.map fun r => if r.landed then r else { s.landedRecord c r with result := .stays } }

/-- A node's data is marked. -/
def State.markNode (s : State) (c : CoreId) (i : Fin 8) (m : Bool) : State := s.modNode c i fun n => { n with marked := n.marked || m }

/-- forward(n) of R330. `last` is the tile that has filled a root's bitmap with DET off, which is added as the result lands. -/
def State.forwardNode (s : State) (c : CoreId) (i : Fin 8) (last : Option (List Byte)) : State :=
  let n := (s.core c).nodes[i]
  let full := n.arrived = n.expect
  let next : NodeState := if full then .idle else .forwarded
  let onTime := n.stored.filter (!·.late)
  let sum : Option (List Byte) × Bool :=
    if n.det then s.sumRows c n.fmt_ n.op n.len none (leafRows onTime)
    else if n.hasValue then let r := s.rowAt c n.row n.len; (some r.1, r.2) else (none, false)
  let s := if n.det then onTime.foldl (fun s t => s.touchRead (.plate c) t.row n.len) s else s
  let s := (s.modNode c i fun n => { n with state := next }).markNode c i sum.2
  let n := (s.core c).nodes[i]
  let value := sum.1.getD n.identity
  if !n.root then
    let s := if n.det && sum.1.isSome then s.writeRow c n.row value n.marked else s
    if n.arrived = 0 then s else s.toParent c i n value n.arrived n.marked n.known
  else
    let give := n.policy = 1 && full
    let s := s.modCore c fun k => { k with evqPend := if give then k.evqPend - 1 else k.evqPend }
    let s := s.modNode c i fun n => { n with reserved := if give then n.reserved - 1 else n.reserved }
    let result : RootResult :=
      match last with
      | some tile => if n.hasValue then .adds tile else .value tile
      | none =>
        if n.policy = 0 && n.arrived = 0 then .value (elemBytes n.fmt_ (List.replicate (n.len / n.fmt_.size) 0))
        else if n.policy = 0 && !full then
          .value (elemBytes n.fmt_ ((byteElems n.fmt_ value).map (rescaleBits n.fmt_ (popcount64 n.expect) (popcount64 n.arrived))))
        else if n.det || n.arrived = 0 then .value value
        else .stays
    s.oweRecord c i result (if full then 0 else 5) n.arrived

/-- A packet that a node keeps apart under DET: it is stored in the next row behind the buffer row (R334). -/
def State.storeTile (s : State) (c : CoreId) (i : Fin 8) (p : RedPacket) (late : Bool) : State :=
  let n := (s.core c).nodes[i]
  let row := (n.rows[n.stored.length + 1]?).getD n.row
  (s.modNode c i fun n => { n with stored := n.stored ++ [⟨p.bitmap, row, late⟩] }).writeRow c row p.tile p.marked

/-- A packet added to the running value in the buffer row; the first replaces the identity (R333). -/
def State.addPacket (s : State) (c : CoreId) (i : Fin 8) (p : RedPacket) : State :=
  let n := (s.core c).nodes[i]
  let bad := n.hasValue && s.markedAt (.plate c) n.row n.len
  let s := (s.modNode c i fun n => { n with hasValue := true }).markNode c i bad
  if n.hasValue then s.addToRow c n.row n.fmt n.op p.tile p.marked else s.writeRow c n.row p.tile p.marked

/-- A packet combined into an armed node, which forwards when it fills the bitmap (R330, R333, R334). -/
def State.combineNode (s : State) (c : CoreId) (i : Fin 8) (p : RedPacket) : State :=
  let n := (s.core c).nodes[i]
  let full := n.arrived = n.expect
  if n.det then
    let s := s.storeTile c i p false
    if full then s.forwardNode c i none else s
  else if full && n.root then s.forwardNode c i (some p.tile)
  else
    let s := s.addPacket c i p
    if full then s.forwardNode c i none else s

/-- A late packet at a root (R332): discarded and counted, or under AWAIT combined, with the final result once none is missing. -/
def State.lateAtRoot (s : State) (c : CoreId) (i : Fin 8) (p : RedPacket) : State :=
  let n := (s.core c).nodes[i]
  if n.policy ≠ 1 then
    let late := bytesNat (s.readSpace (.plate c) (n.descAt + 20) 4)
    s.modCore c fun k => k.writePlate (cellsFrom (n.descAt + 20) (natBytes 4 (late + 1))) []
  else
    let s := s.landEarlier c i
    let full := n.arrived = n.expect
    if n.det then
      let s := s.storeTile c i p true
      if !full then s
      else
        let n := (s.core c).nodes[i]
        s.oweRecord c i (.sums (leafRows (n.stored.filter (·.late))) (n.stored.any (!·.late))) 6 n.expect
    else if !full then s.addPacket c i p
    else s.oweRecord c i (if n.hasValue then .adds p.tile else .value p.tile) 6 n.expect

/-- Why a node refuses a packet (R327). -/
def packetRefusal (n : RedNode) (p : RedPacket) : Option Nat :=
  if n.state = .idle then some 8
  else if p.bitmap &&& ~~~n.expect ≠ 0 then some 9
  else if p.bitmap &&& n.arrived ≠ 0 then some 10
  else if p.tile.length ≠ n.len then some 11
  else none

/-- A packet that cannot be taken: an RCONT's is refused, a node's discarded and counted (R327, R362). -/
def State.refusePacket (s : State) (p : RedPacket) (code : Nat) : State :=
  if p.srcNode.isNone then s.answer p (.refuse code)
  else
    let d := dieOf p.dstCore
    (s.dieError d 15 { uc := false, kind := 9, unit := (localOf p.dstCore).val, core := some p.dstCore, addr := p.dstNode.val,
                       info := code }).lifeAdd d (lifeOther 2) 1

/-- A node takes a packet (R330). -/
def State.takePacket (s : State) (p : RedPacket) : State :=
  let c := p.dstCore
  let i := p.dstNode
  let n := (s.core c).nodes[i]
  match packetRefusal n p with
  | some code => s.refusePacket p code
  | none =>
    let arrived := n.arrived ||| p.bitmap
    let s := s.modNode c i fun n => { n with arrived }
    let held (s : State) : State :=
      s.modNode c i fun n => { n with marked := n.marked || p.marked, known := mergeKnown n.known p.known }
    if n.state = .armed then ((held s).answer p (.accept false)).combineNode c i p
    else
      let s := s.answer p (.accept true)
      let s := if !n.root then s.toParent c i n p.tile p.bitmap p.marked p.known
        else if n.policy = 1 then (held s).lateAtRoot c i p
        else s.lateAtRoot c i p
      if arrived = n.expect then s.modNode c i fun n => { n with state := .idle } else s

/-- REDUCTION_PACKET_ARRIVAL (R330, R331). -/
def execReductionPacketArrival (s : State) : Out :=
  match s.event with
  | .reductionPacketArrival p => .next (s.takePacket p)
  | _ => .next s

/-- NODE_DEADLINE (R330): an armed node forwards in the die cycle in which its deadline passes. -/
def execNodeDeadline (s : State) : Out :=
  match s.event with
  | .nodeDeadline c i =>
    let n := (s.core c).nodes[i]
    if n.state = .armed && n.deadline = s.now c then .next (s.forwardNode c i none) else .next s
  | _ => .next s

/-- ROOT_RECORD_WRITE (R332, R335, R336, R338): the result lands, and 2 die cycles later its record is written, then the semaphore's
addition sent. -/
def execRootRecordWrite (s : State) : Out :=
  match s.event with
  | .rootRecordWrite c i =>
    let n := (s.core c).nodes[i]
    let due (b : Bool) (r : RootRecord) : Bool := r.landed = b && r.due ≤ s.now c
    match n.owed.find? (due false), n.owed.find? (due true) with
    | some r, _ =>
      let r' := { s.landedRecord c r with landed := true, due := s.now c + 2 }
      .next (((s.landRow c r).modNode c i fun n => { n with owed := n.owed.map fun x => if x = r then r' else x }).schedule 2 s.event)
    | none, none => .next s
    | none, some r =>
      let s := s.modNode c i fun n => { n with owed := n.owed.erase r, reserved := n.reserved - 1 }
      let s := s.pushRecord c ⟨recordLo r.addr 5 r.status r.scope, r.bitmap, none, r.known⟩ 1
      match r.sem, s.kernels.find? (·.kid = n.kid) with
      | some (rank, m), some k =>
        let dst := (k.cores[rank]?).getD c
        .next (s.sendTo c dst (.semRemoteService c dst m (.add 1) s.time (some ⟨r.scope, r.known⟩)))
      | _, _ => .next s
  | _ => .next s

end Sys2Proof.Machine
end

