-- ==== Sys2Proof/Machine/Sfu.lean ====
section
/-! DEFINITION. V major 0x02, special functions and division (R138): correctly rounded reciprocals, roots and quotients, and the
other functions as an FP32 value within 2 units in the last place of the true result, which the model works out from a
fixed-point approximation and the open choice `Config.sfuOffset`. -/

namespace Sys2Proof.Machine

/-! ### Fixed-point approximations with 448 fraction bits -/

/-- Fraction bits. -/
def fxP : Nat := 448

/-- 1. -/
def fxOne : Nat := 2 ^ fxP

/-- π with 800 fraction bits, rounded down. -/
def piFix800 : Nat := 0x3243F6A8885A308D313198A2E03707344A4093822299F31D0082EFA98EC4E6C89452821E638D01377BE5466CF34E90C6CC0AC29B7C97C50DD3F84D5B5B54709179216D5D98979FB1BD1310BA698DFB5AC2FFD72DBD01ADFB7B8E1AFED6A267E96BA7C9045

/-- ln 2. -/
def fxLn2 : Nat := 0xB17217F7D1CF79ABC9E3B39803F2F6AF40F343267298B62D8A0D175B8BAAFA2BE7B876206DEBAC98559552FB4AFA1B10ED2EAE35C1382144

/-- 1 / √(2π). -/
def fxInvSqrt2Pi : Nat := 0x662114CF50D942343F2CF1402EAE38BFD3829F30512706D8C0471B4802639D2E9DF8AC55447D3DB723F5D3ABB374E88DEB14277970BE1513

/-- The Taylor series of e^r, from term `t` = r^k / k! on. -/
def expTerms : (n : Nat) → Nat → Nat → Nat → Nat
  | 0, _, _, _ => 0
  | n + 1, k, r, t => t + expTerms n (k + 1) r (t * r / fxOne / (k + 1))

/-- e^r for 0 ≤ r < 1. -/
def expUnit (r : Nat) : Nat := expTerms 110 0 r fxOne

/-- A positive value N × 2^q. -/
structure Approx where
  n : Nat
  q : Int
deriving DecidableEq, Repr

/-- e^x. -/
def expApprox (x : Int) : Approx :=
  let k := x / fxLn2
  ⟨expUnit (x - k * fxLn2).toNat, k - fxP⟩

/-- The value as a fixed-point number. -/
def Approx.fix (a : Approx) : Nat :=
  if 0 ≤ a.q + fxP then a.n * 2 ^ (a.q + fxP).toNat else a.n / 2 ^ (-(a.q + fxP)).toNat

/-- e^−y for y ≥ 0. -/
def expNeg (y : Nat) : Nat := if 400 * fxOne < y then 0 else (expApprox (-(y : Int))).fix

/-- A finite magnitude m × 2^e as a fixed-point number. -/
def fxOf (m : Nat) (e : Int) : Nat := if 0 ≤ e + fxP then m * 2 ^ (e + fxP).toNat else m / 2 ^ (-(e + fxP)).toNat

/-- The alternating series of sine and cosine: from term `t`, the next multiplied by −r² / ((k + 1)(k + 2)). -/
def trigTerms : (n : Nat) → Nat → Nat → Int → Int
  | 0, _, _, _ => 0
  | n + 1, k, r2, t => t + trigTerms n (k + 2) r2 (-(t * r2 / fxOne / ((k + 1) * (k + 2))))

def sinFix (r : Nat) : Int := trigTerms 70 1 (r * r / fxOne) r
def cosFix (r : Nat) : Int := trigTerms 70 0 (r * r / fxOne) fxOne

/-- The quadrant and the remainder of m × 2^e by π/2. -/
def reducePi (m : Nat) (e : Int) : Nat × Nat :=
  let x := if 0 ≤ e + 800 then m * 2 ^ (e + 800).toNat else 0
  let h := piFix800 / 2
  let k := x / h
  (k % 4, (x - k * h) / 2 ^ (800 - fxP))

/-- sin (m × 2^e + quadrant × π/2). -/
def sinQuadrant (quad m : Nat) (e : Int) : Int :=
  let r := reducePi m e
  match (r.1 + quad) % 4 with
  | 0 => sinFix r.2
  | 1 => cosFix r.2
  | 2 => -(sinFix r.2)
  | _ => -(cosFix r.2)

/-- The series of 2 atanh z, from term z^k. -/
def atanhTerms : (n : Nat) → Nat → Nat → Nat → Nat
  | 0, _, _, _ => 0
  | n + 1, k, z2, t => t / k + atanhTerms n (k + 2) z2 (t * z2 / fxOne)

/-- log2 (m × 2^e), m > 0. -/
def log2Fix (m : Nat) (e : Int) : Int :=
  let k := m.log2
  let f := fxOf m (-(k : Int))
  let z := (f - fxOne) * fxOne / (f + fxOne)
  let l := 2 * atanhTerms 150 1 (z * z / fxOne) z
  (e + k) * fxOne + (l * fxOne / fxLn2 : Nat)

/-- The series x + x³/3 + x⁵/15 + …, from term `t`. -/
def phiTerms : (n : Nat) → Nat → Nat → Nat → Nat
  | 0, _, _, _ => 0
  | n + 1, k, x2, t => t + phiTerms n (k + 2) x2 (t * x2 / fxOne / (k + 2))

/-- φ(a) (a + a³/3 + …) = Φ(a) − 1/2 for 0 ≤ a < 15. -/
def phiHalf (a : Nat) : Nat :=
  let x2 := a * a / fxOne
  fxInvSqrt2Pi * expNeg (x2 / 2) / fxOne * phiTerms 900 1 x2 a / fxOne

/-! ### The true results (R138) -/

/-- The functions that form an FP32 value first, by their FN. -/
inductive SfuFn | exp2 | log2 | exp | tanh | sigm | silu | gelu | sin | cos
deriving DecidableEq, Repr

/-- A true result as a sign and a fixed-point magnitude; magnitudes of 2^128 and more are all alike. -/
structure TrueValue where
  neg : Bool
  a   : Approx
deriving DecidableEq, Repr

def fxValue (v : Int) : TrueValue := ⟨v < 0, ⟨v.natAbs, -fxP⟩⟩

/-- Just below 1 at most. -/
def belowOne (n : Nat) : Nat := min n (fxOne - 1)

/-- The logistic function at (−1)^neg × y. -/
def sigmFix (neg : Bool) (y : Nat) : Nat :=
  let u := expNeg y
  if neg then u * fxOne / (fxOne + u) else belowOne (fxOne * fxOne / (fxOne + u))

/-- The approximation of a function at the finite non-zero (−1)^s × m × 2^e. -/
def SfuFn.value (f : SfuFn) (s : Bool) (m : Nat) (e : Int) : TrueValue :=
  let big := 11 ≤ (m.log2 : Int) + e
  let y := if big then 2048 * fxOne else fxOf m e
  let sx : Int := if s then -(y : Int) else y
  match f with
  | .exp2 =>
    if big then (if s then fxValue 0 else ⟨false, ⟨1, 128⟩⟩)
    else
      let k := sx / fxOne
      ⟨false, ⟨expUnit ((sx - k * fxOne).toNat * fxLn2 / fxOne), k - fxP⟩⟩
  | .exp => if big then (if s then fxValue 0 else ⟨false, ⟨1, 128⟩⟩) else ⟨false, expApprox sx⟩
  | .log2 => fxValue (log2Fix m e)
  | .tanh =>
    let u := expNeg (2 * y)
    ⟨s, ⟨belowOne ((fxOne - u) * fxOne / (fxOne + u)), -fxP⟩⟩
  | .sigm => ⟨false, ⟨sigmFix s y, -fxP⟩⟩
  | .silu => ⟨s, ⟨sigmFix s y * m, e - fxP⟩⟩
  | .gelu =>
    if 15 * fxOne ≤ y then (if s then ⟨true, ⟨0, 0⟩⟩ else ⟨false, ⟨(fxOne - 1) * m, e - fxP⟩⟩)
    else
      let h := phiHalf y
      let ph := if s then fxOne / 2 - h else fxOne / 2 + h
      ⟨s, ⟨ph * m, e - fxP⟩⟩
  | .sin => let v := sinQuadrant 0 m e; fxValue (if s then -v else v)
  | .cos => fxValue (sinQuadrant 1 m e)

/-- What the special-value table gives. -/
inductive Special
  | invalid
  | inf (neg exactOf : Bool)
  | zero (neg : Bool)
  | one (neg : Bool)
  | half
deriving DecidableEq, Repr

/-- The special value as an exact result with its flags; infinities of a zero argument raise OF (R138). -/
def Special.result : Special → Exact × VFlags
  | .invalid => (.nan, flagNV)
  | .inf s o => (.inf s, flagIf o flagOF)
  | .zero s => (.ratio s 0 1 0, 0)
  | .one s => (.ratio s 1 1 0, 0)
  | .half => (.ratio false 1 1 (-1), 0)

/-- Results at −∞, −0, +0 and +∞, for the functions that are not correctly rounded. -/
def SfuFn.special : SfuFn → Special × Special × Special × Special
  | .log2 => (.invalid, .inf true false, .inf true false, .inf false false)
  | .exp2 | .exp => (.zero false, .one false, .one false, .inf false false)
  | .tanh => (.one true, .zero true, .zero false, .one false)
  | .sigm => (.zero false, .half, .half, .one false)
  | .silu | .gelu => (.zero true, .zero true, .zero false, .inf false false)
  | .sin => (.invalid, .zero true, .zero false, .invalid)
  | .cos => (.invalid, .one false, .one false, .invalid)

/-- Pick from a row of the special-value table. -/
def pickSpecial (t : Special × Special × Special × Special) (x : Num) : Special :=
  match x with
  | .inf true => t.1
  | .inf false => t.2.2.2
  | _ => if x.isNeg then t.2.1 else t.2.2.1

/-! ### The forming step -/

/-- An FP32 magnitude code in units of the least subnormal. -/
def fp32Units (c : Nat) : Nat := if c / 2 ^ 23 = 0 then c else (2 ^ 23 + c % 2 ^ 23) * 2 ^ (c / 2 ^ 23 - 1)

/-- The exponent of the unit in the last place of a value, in FP32. -/
def ulpExp (a : Approx) : Int := if a.n = 0 then -149 else max ((a.n.log2 : Int) + a.q - 23) (-149)

/-- The FP32 code of a value truncated. -/
def truncCode (a : Approx) : Nat :=
  let u := ulpExp a
  let p := scaleRatio a.n 1 a.q u
  (u + 149).toNat * 2 ^ 23 + p.1 / p.2

/-- A signed code lies within 2 units in the last place of a non-negative value; its magnitude is finite. -/
def withinTwo (a : Approx) (c : Int) : Bool :=
  let q := min a.q (-149)
  let v : Int := a.n * 2 ^ (a.q - q).toNat
  let w : Int := (if c < 0 then -(fp32Units c.natAbs : Int) else fp32Units c.natAbs) * 2 ^ (-149 - q).toNat
  c.natAbs ≤ 0x7F7FFFFF && (v - w).natAbs ≤ 2 * 2 ^ (ulpExp a - q).toNat

/-- The values within reach, and the one the part forms. -/
def formCode (a : Approx) (choice : Nat) : Int :=
  let t : Int := truncCode a
  let cs := ((List.range 9).map fun (k : Nat) => t - 5 + (k : Int)).filter (withinTwo a)
  (cs[choice % cs.length]?).getD t

/-- The value is 2^128 or more. -/
def Approx.huge (a : Approx) : Bool := a.n ≠ 0 && 128 ≤ (a.n.log2 : Int) + a.q

/-- VEXP2 of an integer from −149 to 127, and VLOG2 of a power of two, are exact. -/
def SfuFn.exact (f : SfuFn) (s : Bool) (m : Nat) (e : Int) : Option Exact :=
  match f with
  | .exp2 =>
    let p := scaleRatio m 1 e 0
    let v : Int := p.1 / p.2
    let x := if s then -v else v
    if p.1 % p.2 = 0 && -149 ≤ x && x ≤ 127 then some (.ratio false 1 1 x) else none
  | .log2 =>
    let k := m.log2
    if m = 2 ^ k then (let x := e + k; some (.ratio (x < 0) x.natAbs 1 0)) else none
  | _ => none

/-- The FP32 value formed at a finite non-zero argument, as an exact number, with the flags of the forming step. -/
def SfuFn.form (f : SfuFn) (sat : Bool) (choice : Nat) (s : Bool) (m : Nat) (e : Int) : Exact × VFlags :=
  match f.exact s m e with
  | some v => (v, 0)
  | none =>
    let t := f.value s m e
    if t.a.huge then
      if sat then ((fmtFP32.decode (fmtFP32.signed t.neg fmtFP32.maxCode)).exact, flagNX ||| flagOF ||| flagST)
      else (.inf t.neg, flagNX ||| flagOF)
    else
      let c := formCode t.a choice
      ((fmtFP32.decode (fmtFP32.signed (t.neg != (c < 0)) c.natAbs)).exact, flagNX)

/-- The number of a function for the open choice. -/
def SfuFn.code : SfuFn → Nat
  | .exp2 => 3 | .log2 => 4 | .exp => 5 | .tanh => 6 | .sigm => 7 | .silu => 8 | .gelu => 9 | .sin => 10 | .cos => 11

/-- The number of a rounding mode. -/
def RMode.code : RMode → Nat
  | .rne => 0 | .rtz => 1 | .rdn => 2 | .rup => 3 | .sto => 4

/-- A special function on one element (R138). -/
def opSfu (f : SfuFn) : ElemOp := fun x p a _ _ =>
  let r : Exact × VFlags :=
    match x.val a with
    | .nan q => (.nan, flagIf q flagNV)
    | .fin s m e =>
      if m = 0 then (pickSpecial f.special (.fin s 0 0)).result
      else if s && f = .log2 then (.nan, flagNV)
      else f.form x.sat (Config.sfuOffset (f.code + 16 * x.fmt.code + 1024 * x.mode.code) (BitVec.ofNat 32 a.bits)) s m e
    | y => (pickSpecial f.special y).result
  let y := x.put p r
  (⟨y.1, a.bad⟩, y.2)

/-! ### Correctly rounded functions -/

/-- ⌊√n⌋, bit by bit from bit k − 1. -/
def isqrtBits : (k : Nat) → Nat → Nat → Nat
  | 0, _, r => r
  | k + 1, n, r => let s := r + 2 ^ k; if s * s ≤ n then isqrtBits k n s else isqrtBits k n r

def isqrt (n : Nat) : Nat := isqrtBits (n.log2 / 2 + 1) n 0

/-- √(n / d × 2^e) for an even e, to 160 bits and a sticky half where it is not exact. -/
def sqrtExact (n d : Nat) (e : Int) : Exact :=
  let p := n * 2 ^ 320 / d
  let r := isqrt p
  if r * r = p && p * d = n * 2 ^ 320 then .ratio false r 1 (e / 2 - 160) else .ratio false (2 * r + 1) 1 (e / 2 - 161)

/-- m × 2^e with an even exponent. -/
def evenExp (m : Nat) (e : Int) : Nat × Int := if e % 2 = 0 then (m, e) else (2 * m, e - 1)

/-- 1/x. -/
def rcpNum (x : Num) : Exact × VFlags :=
  match x with
  | .nan q => (.nan, flagIf q flagNV)
  | .inf s => (.ratio s 0 1 0, 0)
  | .fin s m e => if m = 0 then (.inf s, flagOF) else (.ratio s 1 m (-e), 0)

/-- √x. -/
def sqrtNum (x : Num) : Exact × VFlags :=
  match x with
  | .nan q => (.nan, flagIf q flagNV)
  | .inf s => if s then (.nan, flagNV) else (.inf false, 0)
  | .fin s m e =>
    if m = 0 then (.ratio s 0 1 0, 0)
    else if s then (.nan, flagNV)
    else let p := evenExp m e; (sqrtExact p.1 1 p.2, 0)

/-- 1/√x. -/
def rsqrtNum (x : Num) : Exact × VFlags :=
  match x with
  | .nan q => (.nan, flagIf q flagNV)
  | .inf s => if s then (.nan, flagNV) else (.ratio false 0 1 0, 0)
  | .fin s m e =>
    if m = 0 then (.inf s, flagOF)
    else if s then (.nan, flagNV)
    else let p := evenExp m e; (sqrtExact 1 p.1 (-p.2), 0)

/-- A correctly rounded unary function. -/
def opUnary (g : Num → Exact × VFlags) : ElemOp := fun x p a _ _ =>
  let y := x.put p (g (x.val a))
  (⟨y.1, a.bad⟩, y.2)

/-- VDIV. -/
def opDiv : ElemOp := fun x p a c _ => mark2 a c (x.put p (divNums (x.val a) (x.val c)))

/-! ### Dispatch and issue -/

def specSfu : VSpec := { cls := classF, lat := fun b => 14 + 2 * b, occ := occTwo }
def specDiv : VSpec := { specSfu with lat := fun b => 20 + 2 * b }

def dispatchVrcp (v : VWord) (x : Env) : Dispatch := elementwise specSfu false (opUnary rcpNum) v x
def execVrcp (v : VWord) (s : State) : Out := s.issueV (.vrcp v) v

def dispatchVrsqrt (v : VWord) (x : Env) : Dispatch := elementwise specSfu false (opUnary rsqrtNum) v x
def execVrsqrt (v : VWord) (s : State) : Out := s.issueV (.vrsqrt v) v

def dispatchVsqrt (v : VWord) (x : Env) : Dispatch := elementwise specSfu false (opUnary sqrtNum) v x
def execVsqrt (v : VWord) (s : State) : Out := s.issueV (.vsqrt v) v

def dispatchVexp2 (v : VWord) (x : Env) : Dispatch := elementwise specSfu false (opSfu .exp2) v x
def execVexp2 (v : VWord) (s : State) : Out := s.issueV (.vexp2 v) v

def dispatchVlog2 (v : VWord) (x : Env) : Dispatch := elementwise specSfu false (opSfu .log2) v x
def execVlog2 (v : VWord) (s : State) : Out := s.issueV (.vlog2 v) v

def dispatchVexp (v : VWord) (x : Env) : Dispatch := elementwise specSfu false (opSfu .exp) v x
def execVexp (v : VWord) (s : State) : Out := s.issueV (.vexp v) v

def dispatchVtanh (v : VWord) (x : Env) : Dispatch := elementwise specSfu false (opSfu .tanh) v x
def execVtanh (v : VWord) (s : State) : Out := s.issueV (.vtanh v) v

def dispatchVsigm (v : VWord) (x : Env) : Dispatch := elementwise specSfu false (opSfu .sigm) v x
def execVsigm (v : VWord) (s : State) : Out := s.issueV (.vsigm v) v

def dispatchVsilu (v : VWord) (x : Env) : Dispatch := elementwise specSfu false (opSfu .silu) v x
def execVsilu (v : VWord) (s : State) : Out := s.issueV (.vsilu v) v

def dispatchVgelu (v : VWord) (x : Env) : Dispatch := elementwise specSfu false (opSfu .gelu) v x
def execVgelu (v : VWord) (s : State) : Out := s.issueV (.vgelu v) v

def dispatchVsin (v : VWord) (x : Env) : Dispatch := elementwise specSfu false (opSfu .sin) v x
def execVsin (v : VWord) (s : State) : Out := s.issueV (.vsin v) v

def dispatchVcos (v : VWord) (x : Env) : Dispatch := elementwise specSfu false (opSfu .cos) v x
def execVcos (v : VWord) (s : State) : Out := s.issueV (.vcos v) v

def dispatchVdiv (v : VWord) (x : Env) : Dispatch := elementwise specDiv true opDiv v x
def execVdiv (v : VWord) (s : State) : Out := s.issueV (.vdiv v) v

end Sys2Proof.Machine
end

