-- ==== Sys2Proof/Machine/Routing.lean ====
section
/-! DEFINITION. What each engine instruction comes to at dispatch: the routing of the LD, MX, VX and ST instructions, and of the
copy commands. -/

namespace Sys2Proof.Machine

/-- The dispatch of an instruction of LD, MX, VX or ST. -/
def dispatchOf (i : Instr) (x : Env) (s : State) : Option Dispatch :=
  match i with
  | .vadd v => some (dispatchVadd v x)
  | .vsub v => some (dispatchVsub v x)
  | .vmul v => some (dispatchVmul v x)
  | .vfma v => some (dispatchVfma v x)
  | .vfms v => some (dispatchVfms v x)
  | .vfnma v => some (dispatchVfnma v x)
  | .vmin v => some (dispatchVmin v x)
  | .vmax v => some (dispatchVmax v x)
  | .vabs v => some (dispatchVabs v x)
  | .vneg v => some (dispatchVneg v x)
  | .vaddsub v => some (dispatchVaddsub v x)
  | .vavg v => some (dispatchVavg v x)
  | .vmulh v => some (dispatchVmulh v x)
  | .vshl v => some (dispatchVshl v x)
  | .vshr v => some (dispatchVshr v x)
  | .vsra v => some (dispatchVsra v x)
  | .vand v => some (dispatchVand v x)
  | .vor v => some (dispatchVor v x)
  | .vxor v => some (dispatchVxor v x)
  | .vnot v => some (dispatchVnot v x)
  | .vsel v => some (dispatchVsel v x)
  | .vmov v => some (dispatchVmov v x)
  | .vclamp v => some (dispatchVclamp v x)
  | .vabsd v => some (dispatchVabsd v x)
  | .vcmpeq v => some (dispatchVcmpeq v x)
  | .vcmpne v => some (dispatchVcmpne v x)
  | .vcmplt v => some (dispatchVcmplt v x)
  | .vcmple v => some (dispatchVcmple v x)
  | .vcmpgt v => some (dispatchVcmpgt v x)
  | .vcmpge v => some (dispatchVcmpge v x)
  | .vclass v => some (dispatchVclass v x)
  | .vrcp v => some (dispatchVrcp v x)
  | .vrsqrt v => some (dispatchVrsqrt v x)
  | .vsqrt v => some (dispatchVsqrt v x)
  | .vexp2 v => some (dispatchVexp2 v x)
  | .vlog2 v => some (dispatchVlog2 v x)
  | .vexp v => some (dispatchVexp v x)
  | .vtanh v => some (dispatchVtanh v x)
  | .vsigm v => some (dispatchVsigm v x)
  | .vsilu v => some (dispatchVsilu v x)
  | .vgelu v => some (dispatchVgelu v x)
  | .vsin v => some (dispatchVsin v x)
  | .vcos v => some (dispatchVcos v x)
  | .vdiv v => some (dispatchVdiv v x)
  | .vrsum v => some (dispatchVrsum v x)
  | .vrmax v => some (dispatchVrmax v x)
  | .vrmin v => some (dispatchVrmin v x)
  | .vramax v => some (dispatchVramax v x)
  | .vcsum v => some (dispatchVcsum v x)
  | .vcmax v => some (dispatchVcmax v x)
  | .vscan v => some (dispatchVscan v x)
  | .vdot v => some (dispatchVdot v x)
  | .vtopk v => some (dispatchVtopk v x)
  | .vsortr v => some (dispatchVsortr v x)
  | .vmrgk v => some (dispatchVmrgk v x)
  | .vcompr v => some (dispatchVcompr v x)
  | .vexpnd v => some (dispatchVexpnd v x)
  | .vbcast v => some (dispatchVbcast v x)
  | .vtrans v => some (dispatchVtrans v x)
  | .viota v => some (dispatchViota v x)
  | .vgathr v => some (dispatchVgathr v x)
  | .vscatr v => some (dispatchVscatr v x)
  | .vcvt v => some (dispatchVcvt v x)
  | .vrqnt v => some (dispatchVrqnt v x)
  | .vmxq v => some (dispatchVmxq v x)
  | .vmxdq v => some (dispatchVmxdq v x)
  | .vunpk3 v => some (dispatchVunpk3 v x)
  | .vpack3 v => some (dispatchVpack3 v x)
  | .vunpk4 v => some (dispatchVunpk4 v x)
  | .vpack4 v => some (dispatchVpack4 v x)
  | .vsat v => some (dispatchVsat v x)
  | .vrnd v => some (dispatchVrnd v x)
  | .pld v => some (dispatchPld v x)
  | .pst v => some (dispatchPst v x)
  | .pcomp v => some (dispatchPcomp v x)
  | .pinv v => some (dispatchPinv v x)
  | .ppow v => some (dispatchPpow v x)
  | .prand v => some (dispatchPrand v x)
  | .pidn v => some (dispatchPidn v x)
  | .pcyc v => some (dispatchPcyc v x)
  | .pxch v => some (dispatchPxch v x)
  | .vperm v => some (dispatchVperm v x)
  | .pcycv v => some (dispatchPcycv v x)
  | .tld v => some (dispatchTld v x s)
  | .tldi v => some (dispatchTldi v x s)
  | .tldw v => some (dispatchTldw v x s)
  | .tpref v => some (dispatchTpref v x)
  | .sbind v => some (dispatchSbind v x)
  | .sadv v => some (dispatchSadv v x)
  | .wref v => some (dispatchWref v x)
  | .tst v => some (dispatchTst v x s)
  | .tsti v => some (dispatchTsti v x s)
  | .tstm v => some (dispatchTstm v x s)
  | .mma m => some (dispatchMma m x)
  | .mmas m => some (dispatchMmas m x)
  | .mmat m => some (dispatchMmat m x)
  | .mdrain m => some (dispatchMdrain m x)
  | .mdrainmx m => some (dispatchMdrainmx m x)
  | .mldac m => some (dispatchMldac m x)
  | .mclr m => some (dispatchMclr m x)
  | .wbld m => some (dispatchWbld m x)
  | .wbinv m => some (dispatchWbinv m x)
  | _ => none

/-- The plan of a copy command. -/
def copyPlanOf (i : Instr) (x : Env) (s : State) : Option CopyPlan :=
  match i with
  | .cpy v => some (dispatchCpy v x s)
  | .cpya v => some (dispatchCpya v x s)
  | .cmcast v => some (dispatchCmcast v x s)
  | .catom v => some (dispatchCatom v x s)
  | .cfill v => some (dispatchCfill v x s)
  | .rnode v => some (dispatchRnode v x)
  | .rcont v => some (dispatchRcont v x)
  | _ => none

/-- What an instruction that dispatches now sees. -/
def State.env (s : State) (q : QEntry) : Env := { q, c := s.cpu, sto := s.stoSource }

end Sys2Proof.Machine
end

