-- ==== Sys2Proof/Machine/Hazards.lean ====
section
/-! DEFINITION. Waits (R26, R40, R83–R85, R147, R194, R203, R225, R238, R303): what an instruction reads and writes, what holds its
issue or its dispatch in interlocked mode, and the overlap races of deterministic mode. -/

namespace Sys2Proof.Machine

/-! ### Resources -/

/-- Two things that the interlocks cover meet. -/
def Res.meets (a b : Res) : Bool :=
  match a, b with
  | .plate o n, .plate p m => o < p + m && p < o + n
  | a, b => a = b

/-- Two lists of resources meet. -/
def anyMeet (xs ys : List Res) : Bool := xs.any fun a => ys.any a.meets

/-- What a result that lands writes, the Plate ranges apart. -/
def effRes : Eff → List Res
  | .x r _ => [.x r]
  | .mask k _ => [.mask k]
  | .perm k _ => [.perm k]
  | .acc a _ _ => [.acc a]
  | .wslot w _ | .invalidate w => [.wslot w]
  | .ring pos _ _ => [.ring pos]
  | .slots a n _ _ _ => (List.range n).map fun j => .wslot (Fin.ofNat 64 (a.val + j))
  | _ => []

/-- Everything that a dispatch writes. -/
def Dispatch.dataWrites (d : Dispatch) : List Res := d.writes ++ d.effs.flatMap effRes

/-- The V fields of an engine instruction. -/
def vwordOf (i : Instr) : Option VWord :=
  match i with
  | .vadd v | .vsub v | .vmul v | .vfma v | .vfms v | .vfnma v | .vmin v | .vmax v | .vabs v | .vneg v | .vaddsub v
  | .vavg v | .vmulh v | .vshl v | .vshr v | .vsra v | .vand v | .vor v | .vxor v | .vnot v | .vsel v | .vmov v | .vclamp v
  | .vabsd v | .vcmpeq v | .vcmpne v | .vcmplt v | .vcmple v | .vcmpgt v | .vcmpge v | .vclass v | .vrcp v | .vrsqrt v
  | .vsqrt v | .vexp2 v | .vlog2 v | .vexp v | .vtanh v | .vsigm v | .vsilu v | .vgelu v | .vsin v | .vcos v | .vdiv v
  | .vrsum v | .vrmax v | .vrmin v | .vramax v | .vcsum v | .vcmax v | .vscan v | .vdot v | .vtopk v | .vsortr v | .vmrgk v
  | .vcompr v | .vexpnd v | .vbcast v | .vtrans v | .viota v | .vgathr v | .vscatr v | .vcvt v | .vrqnt v | .vmxq v
  | .vmxdq v | .vunpk3 v | .vpack3 v | .vunpk4 v | .vpack4 v | .vsat v | .vrnd v | .pld v | .pst v | .pcomp v | .pinv v
  | .ppow v | .prand v | .pidn v | .pcyc v | .pxch v | .vperm v | .pcycv v | .tld v | .tldi v | .tldw v | .tpref v
  | .sbind v | .sadv v | .wref v | .tst v | .tsti v | .tstm v | .cpy v | .cpya v | .cmcast v | .catom v | .cfill v
  | .rnode v | .rcont v | .wstore v => some v
  | _ => none

/-- The registers, masks, accumulators and slots that an instruction names as destinations. -/
def namedWrites (i : Instr) : List Res :=
  match i with
  | .mma m | .mmas m | .mmat m | .mldac m | .mclr m => accRes m
  | .wbld m | .wbinv m => slotRes m
  | i =>
    match vwordOf i with
    | none => []
    | some v =>
      if 8 ≤ majorOf i then []
      else
        match v.d with
        | .special n => if majorOf i = 7 then [.perm n] else [.mask (Fin.ofNat 8 n.val)]
        | .reg n => (match i with | .pcyc _ => [0, 1, 2, 3] | _ => [0]).map fun k => .x (regPlus n k)
        | _ => []

/-- Everything that a dispatch writes; one that writes nothing because of a fault or of marked data holds its destinations until the
S-cycle at which it would have landed, so that the timeline of the others stays (R123). -/
def QEntry.allWrites (q : QEntry) (d : Dispatch) : List Res :=
  let spoiled := d.fault.isSome || d.effs.any fun e => match e with | .poison _ => true | _ => false
  d.dataWrites ++ if spoiled then namedWrites q.instr else []

/-- The operand fields of a V instruction that are present. -/
def operandsOf (v : VWord) : List Operand := [v.s1] ++ (match v.s2 with | .op o => [o] | .lit _ => [])

/-- Ring entries that operands name (R23). -/
def ringReads (q : QEntry) (v : VWord) : List Res :=
  (operandsOf v).filterMap fun o =>
    match o with
    | .ring d => if d.val < q.cap.ringPos then some (.ring (q.cap.ringPos - 1 - d.val)) else none
    | _ => none

/-- Mask or permutation registers that an instruction reads: its predicate, special operands, the selector of VSEL, the mask of
TSTM, the old mask of a merging compare, and the permutation of a transfer. -/
def specialReads (i : Instr) (v : VWord) : List Res :=
  let m := majorOf i
  let specials := (operandsOf v).filterMap fun o => match o with | .special n => some n | _ => none
  if m = 7 then
    specials.map .perm ++ (match i with | .vperm _ => if v.pm ≠ 0 then [.mask v.pm] else [] | _ => [])
  else if 8 ≤ m then
    (match flightPerm v with | some k => [.perm k] | none => []) ++
    (match i with | .tstm _ => specials.map fun n => .mask (Fin.ofNat 8 n.val) | _ => [])
  else
    specials.map (fun n => .mask (Fin.ofNat 8 n.val)) ++ (if v.pm ≠ 0 then [.mask v.pm] else []) ++
    (match i with | .vsel _ => [.mask (selectorOf v)] | _ => []) ++
    (match v.d with | .special n => if v.pm ≠ 0 && !v.bit21 then [.mask (Fin.ofNat 8 n.val)] else [] | _ => [])

/-- The slots and accumulators that an M instruction reads; a tile step never waits on accumulators (R188). -/
def matrixReads (i : Instr) (x : Env) : List Res :=
  let tile (k : TileKind) (m : MWord) : List Res :=
    match mFormats m x.q with
    | some f => (slotsRead k m f.1 f.2.1).map .wslot
    | none => []
  match i with
  | .mma m => tile .mma m
  | .mmas m => tile .mmas m
  | .mmat m => tile .mmat m
  | .mdrain m | .mdrainmx m => accRes m
  | _ => []

/-- The own Plate bytes that a dispatch reads. -/
def plateReads (q : QEntry) (d : Dispatch) : List Res :=
  usesRanges q d.reads ++ d.ranges.map fun r => .plate r.1 r.2

/-- Everything that an engine instruction reads at dispatch. -/
def allReads (q : QEntry) (x : Env) (d : Dispatch) : List Res :=
  plateReads q d ++
  (match vwordOf q.instr with | some v => ringReads q v ++ specialReads q.instr v | none => []) ++ matrixReads q.instr x

/-- Registers of X that an engine instruction captures at issue. -/
def engineRegs (i : Instr) : List Reg :=
  match vwordOf i with
  | some v =>
    if 8 ≤ majorOf i then []
    else ([v.d] ++ operandsOf v).filterMap fun o => match o with | .reg n => some n | _ => none
  | none => []

/-! ### Dispatch in interlocked mode (R40, R194, R203) -/

/-- The queued instructions of a core. -/
def Core.queued (c : Core) : List QEntry := c.queues.toList.flatten

/-- The permutation register that a copy applies (R203, R211). -/
def copyPerm (i : Instr) : List Res := (((vwordOf i).bind flightPerm).toList).map .perm

/-- What a queued instruction reads and writes, as it would dispatch now; of a copy, its permutation. -/
def State.queuedRes (s : State) (q : QEntry) : List Res × List Res :=
  match dispatchOf q.instr (s.env q) s with
  | some d => (allReads q (s.env q) d, q.allWrites d)
  | none => (copyPerm q.instr, [])

/-- An instruction's dispatch waits: an earlier write to what it reads has not landed, or, for a writer of a permutation
register, an earlier write or read of it is outstanding. -/
def State.interlocked (s : State) (q : QEntry) (d : Dispatch) : Bool :=
  let rs := allReads q (s.env q) d
  let ps := (q.allWrites d).filter fun r => match r with | .perm _ => true | _ => false
  let earlier := (s.cpu.landings.filter (·.seq < q.seq)).any fun l => anyMeet l.holds (rs ++ ps)
  let others := s.cpu.queued.filter (·.seq < q.seq)
  earlier || others.any fun e =>
    let r := s.queuedRes e
    anyMeet r.2 (rs ++ ps) || anyMeet r.1 ps

/-- A copy's dispatch waits: an earlier write to its permutation has not landed (R203). -/
def State.copyInterlocked (s : State) (q : QEntry) : Bool :=
  let rs := copyPerm q.instr
  !rs.isEmpty && ((s.cpu.landings.filter (·.seq < q.seq)).any (fun l => anyMeet l.holds rs) ||
    (s.cpu.queued.filter (·.seq < q.seq)).any fun e => anyMeet (s.queuedRes e).2 rs)

/-! ### Issue (R26, R83, R84, R85, R147, R225, R238) -/

/-- X registers that a sequencer instruction reads. -/
def xReads (i : Instr) : List Reg :=
  match i with
  | .add _ _ a b | .sub _ _ a b | .and _ _ a b | .or _ _ a b | .xor _ _ a b | .andn _ _ a b | .sll _ _ a b | .srl _ _ a b
  | .sra _ _ a b | .rol _ _ a b | .mul _ _ a b | .mulh _ _ a b | .mulhu _ _ a b | .div _ _ a b | .divu _ _ a b
  | .rem _ _ a b | .remu _ _ a b | .min _ _ a b | .max _ _ a b | .minu _ _ a b | .maxu _ _ a b | .slt _ _ a b
  | .sltu _ _ a b | .seq _ _ a b | .beq a b _ _ | .bne a b _ _ | .blt a b _ _ | .bge a b _ _ | .bltu a b _ _ | .bgeu a b _ _
  | .gset a b | .gclr a b | .tlbinv a b | .semradd _ _ a b | .vwset _ a b | .mset _ a b => [a, b]
  | .clz _ _ a | .ctz _ _ a | .popc _ _ a | .brev _ _ a | .bswap _ _ a | .addi _ a _ | .andi _ a _ | .ori _ a _
  | .xori _ a _ | .slli _ a _ | .srli _ a _ | .srai _ a _ | .slti _ a _ | .sltiu _ a _ | .seqi _ a _ | .ldb _ a _
  | .ldbu _ a _ | .ldh _ a _ | .ldhu _ a _ | .ldw _ a _ | .ldwu _ a _ | .ldd _ a _ | .jalr _ a _ | .csrw _ a _ | .csrs _ a _
  | .csrc _ a _ | .loop _ _ _ a _ | .semadd _ _ a | .semset _ _ a | .semwait _ _ a | .launch a | .launchs a | .shpset a
  | .ftset _ a | .rotset _ a | .addil _ a _ | .andil _ a _ | .oril _ a _ | .xoril _ a _ | .beqi a _ _ _ | .bnei a _ _ _
  | .blti a _ _ _ | .bgei a _ _ _ | .bltui a _ _ _ | .bgeui a _ _ _ | .sege a _ => [a]
  | .movz _ d a b | .movn _ d a b => [a, b, d]
  | .stb s a _ | .sth s a _ | .stw s a _ | .std s a _ => [s, a]
  | .semmset _ _ a b => [a, b, regPlus b 1]
  | .lih d _ => [d]
  | i => engineRegs i

/-- An instruction that releases (R294), for the wait of R238. -/
def isRelease : Instr → Bool
  | .semadd _ _ _ | .semset _ _ _ | .semradd _ _ _ _ | .semmset _ _ _ _ | .pwend _ _ | .pwnext _ _ _ | .rpub _ _ | .rfree _ _
  | .rclose _ _ _ | .launch _ | .launchs _ | .fence _ _ => true
  | _ => false

/-- An access of the sequencer through memory: whether it loads, its size and its effective address. -/
def scalarAccess (i : Instr) (c : Core) : Option (Bool × Nat × Word) :=
  match i with
  | .ldb _ a m | .ldbu _ a m => some (true, 1, effAddr c a m)
  | .ldh _ a m | .ldhu _ a m => some (true, 2, effAddr c a m)
  | .ldw _ a m | .ldwu _ a m => some (true, 4, effAddr c a m)
  | .ldd _ a m => some (true, 8, effAddr c a m)
  | .stb _ a m => some (false, 1, effAddr c a m)
  | .sth _ a m => some (false, 2, effAddr c a m)
  | .stw _ a m => some (false, 4, effAddr c a m)
  | .std _ a m => some (false, 8, effAddr c a m)
  | _ => none

/-- The own Plate bytes that a scalar access concerns, in the local window or through the core's own PLATE mapping (R40, R83). -/
def State.ownBytes (s : State) (ea : Word) (n : Nat) : List Res :=
  match s.target ea with
  | .localPlate off => [.plate off n]
  | .mapped _ (some ⟨.plate g, off⟩) => if g = s.cur then [.plate off n] else []
  | _ => []

/-- The Plate bytes that a sequencer instruction reads or stores at issue. -/
def issuePlate (i : Instr) (s : State) : List Res :=
  match i with
  | .sbind v => match s.cpu.sbindBytes v with | some (o, _) => [.plate o 64] | none => []
  | i =>
    match scalarAccess i s.cpu with
    | some (_, n, ea) => s.ownBytes ea n
    | none => []

/-- The X registers that an instruction waits for: X0 is never written (R16). -/
def xSources (i : Instr) : List Res := ((xReads i).filter (· ≠ 0)).map .x

/-- A divide-class instruction. -/
def isDivide : Instr → Bool
  | .div _ _ _ _ | .divu _ _ _ _ | .rem _ _ _ _ | .remu _ _ _ _ => true
  | _ => false

/-- The home of an operation whose reply holds a global access slot while it is remote (R236). -/
def State.slotHome (s : State) (i : Instr) : Option CoreId :=
  let ring (r : Reg) : Option CoreId := (s.ringRef r).map fun x => s.rankCore s.cur x.cons
  match i with
  | .pwbegin _ p | .pwnext _ p _ | .prbegin _ p _ | .prnext _ p _ | .pquery _ p => (s.poolHome p).map (·.1)
  | .racq _ r _ | .rtake _ r _ | .rstat _ r => ring r
  | _ => none

/-- The instruction takes a global access slot: a global access that does not fault at issue (R84, R93), or a remote operation. -/
def State.needsSlot (s : State) (i : Instr) : Bool :=
  match scalarAccess i s.cpu with
  | some (load, n, ea) => plateSize ≤ ea.toNat && (scalarFault load n ea s).isNone
  | none => match s.slotHome i with | some h => h ≠ s.cur | none => false

/-- Global access slots held (R84, R236). -/
def Core.slotsHeld (c : Core) : Nat := c.globals.length + (c.homeOps.filter fun o => o.remote && !o.handler).length

/-- An issued instruction writes Plate bytes. -/
def writesPlate (rs : List Res) : Bool := rs.any fun r => match r with | .plate _ _ => true | _ => false

/-- Entries of the pending-write range table in use (R40). -/
def State.pendingWrites (s : State) : Nat :=
  (s.cpu.landings.filter fun l => writesPlate l.holds).length + (s.cpu.queued.filter fun q => writesPlate (s.queuedRes q).2).length

/-- Whether an instruction about to issue writes Plate bytes. -/
def State.issueWrites (s : State) (i : Instr) : Bool :=
  match scalarAccess i s.cpu with
  | some (load, n, ea) => !load && !(s.ownBytes ea n).isEmpty
  | none =>
    if isEngine i && engineOf i ≠ .cp then
      writesPlate (s.queuedRes { instr := i, addr := 0, seq := s.cpu.seqNo, issuedAt := 0, window := 0, cap := s.cpu.capture i }).2
    else false

/-- A queued engine instruction writes something (R238). -/
def State.writesSome (s : State) (q : QEntry) : Bool :=
  match dispatchOf q.instr (s.env q) s with
  | some d => !d.effs.isEmpty || !d.store.isEmpty
  | none => false

/-- Waits at issue in interlocked mode. -/
def State.issueInterlock (s : State) (i : Instr) : Bool :=
  let c := s.cpu
  let rs := xSources i ++ issuePlate i s
  let pendingX := c.landings.any fun l => anyMeet l.holds rs
  let queued := c.queued
  let queuedX := !rs.isEmpty && queued.any fun q => anyMeet (s.queuedRes q).2 rs
  let mset := match i with
    | .mset k _ _ =>
      let m := Res.mask (Fin.ofNat 8 k.val)
      c.landings.any (fun l => anyMeet l.holds [m]) ||
        queued.any fun q => let r := s.queuedRes q; anyMeet r.1 [m] || anyMeet r.2 [m]
    | _ => false
  let release := isRelease i && (c.landings.any (fun l => l.eng.isSome && !l.effs.isEmpty) || c.globals.any (!·.isLoad) ||
    queued.any s.writesSome || c.landings.any fun l => writesPlate l.holds)
  let full := s.issueWrites i && 32 ≤ s.pendingWrites
  pendingX || queuedX || mset || release || full

/-- What holds an instruction at issue: nothing, a wait that passes S-cycles, or a wait under a freeze for this die cycle. -/
inductive IssueWait | go | clock | frozen
deriving DecidableEq, Repr

/-- A release waits for a store that it covers and that stays behind an earlier write to its line (R238, R296); so does TLBINV, which
waits for the core's accesses. DEDUCED (log entry 103): the wait freezes the core, as any wait beyond the fixed timing does. -/
def State.releaseWait (s : State) (i : Instr) : Bool :=
  (isRelease i || match i with | .tlbinv _ _ => true | _ => false) && !(s.stuckStores s.cur).isEmpty

/-- Waits of a handler instruction, in die cycles (R85). -/
def State.handlerWait (s : State) (i : Instr) : Bool :=
  let c := s.cpu
  let now := s.now s.cur
  s.releaseWait i ||
  (c.hReady.any fun p => now < p.2 && (xSources i).contains p.1) ||
  (isDivide i && now < c.hDivFree) ||
  (s.needsSlot i && 2 ≤ (c.hSlots.filter (now < ·)).length)

/-- The wait of an instruction that is due to issue. -/
def State.issueWait (s : State) (i : Instr) : IssueWait :=
  let c := s.cpu
  if c.trapMode then (if s.handlerWait i then .frozen else .go)
  else if isEngine i && (engineOf i = .cp) && queueSize .cp ≤ (c.queues[engIx .cp]).length then .frozen
  else if isEngine i && queueSize (engineOf i) ≤ (c.queues[engIx (engineOf i)]).length then .clock
  else if isDivide i && c.sclk < c.divFree then .clock
  else if s.needsSlot i && 16 ≤ c.slotsHeld then .clock
  else if !c.exposed && s.issueInterlock i then .clock
  else if s.releaseWait i then .frozen
  else .go

/-! ### Overlap races (R303) -/

/-- Part of a landing that changes Plate bytes. -/
def Eff.onPlate : Eff → Bool
  | .plate _ _ | .fills _ => true
  | _ => false

/-- What a copy or an instruction in flight on another engine reads and writes of the own Plate. -/
def Core.inFlight (c : Core) (e : Engine) : List (List Res × List Res) :=
  (c.landings.filter fun l => l.eng.isSome && l.eng ≠ some e && c.sclk < l.due).map (fun l => (l.reads, if l.effs.any Eff.onPlate then l.holds else [])) ++
  (if e = .cp then [] else c.copies.map fun k => (k.reads, k.holds))

/-- Offsets at which two sets of ranges meet. -/
def meetOffsets (xs ys : List Res) : List Nat :=
  xs.flatMap fun a => ys.filterMap fun b =>
    match a, b with
    | .plate o n, .plate p m => if o < p + m && p < o + n then some (max o p) else none
    | _, _ => none

/-- The lowest offset at which a dispatching instruction conflicts with one in flight on another engine. -/
def Core.overlap (c : Core) (e : Engine) (reads writes : List Res) : Option Nat :=
  if !c.det then none
  else ((c.inFlight e).flatMap fun f => meetOffsets (reads ++ writes) f.2 ++ meetOffsets writes f.1).min?

end Sys2Proof.Machine
end

