-- ==== Sys2Proof/Machine/EngineDispatch.lean ====
section
/-! DEFINITION. Dispatch (R24–R26, R39, R40, R123, R229, R257, R303): when the head of an engine queue dispatches, and what its
dispatch does. -/

namespace Sys2Proof.Machine

/-! ### Readiness (R24, R25, R39, R40, R229) -/

/-- Whether the head of a queue dispatches in this S-cycle, waits, or freezes the core for a token that CP feeds. -/
inductive Ready | no | go | frozen
deriving DecidableEq, Repr

/-- The token counters that an instruction waits on. -/
def waitsOf (e : Engine) (t : Tokens) : List (Fin 10) :=
  (if t.waitL then [tokenIn e false] else []) ++ if t.waitR then [tokenIn e true] else []

/-- A counter that CP feeds: CP→LD or CP→ST. -/
def cpFed (k : Fin 10) : Bool := k = 7 || k = 8

/-- EVQ entries that a CP command reserves (R29). -/
def evqNeed (q : QEntry) (x : Env) : Nat :=
  match q.instr with
  | .rnode v => ndReserve (x.c.nodeDesc q v)
  | _ => 1

/-- A CP command finds room in the EVQ. -/
def State.evqRoom (s : State) (q : QEntry) : Bool := s.cpu.evq.length + s.cpu.evqPend + evqNeed q (s.env q) ≤ 64

/-- The head of a queue. -/
def Core.headOf (c : Core) (e : Engine) : Option QEntry := c.queues[engIx e].head?

/-- A replay of an engine's head has escalated, and the trap is still to be taken (R121, R360). -/
def escalated (e : Engine) (t : PendingTrap) : Bool := t.eng = some e && e = .mx && (t.cause = .poison || t.cause = .unreplayable)

/-- A packet for a reduction node leaves once the stores that its release covers have been performed (R294, R296; log entry 103). -/
def State.nodeWaits (s : State) (q : QEntry) : Bool :=
  match q.instr with
  | .rnode _ | .rcont _ => !(s.stuckStores s.cur).isEmpty
  | _ => false

/-- The head's engine is free and its tokens other than CP's are there; in interlocked mode its sources have landed. -/
def State.headReady (s : State) (e : Engine) : Ready :=
  let c := s.cpu
  match c.headOf e with
  | none => .no
  | some q =>
    let ws := waitsOf e (tokensOf q.instr)
    if c.sclk ≤ q.issuedAt || c.sclk < c.engFree[engIx e] || c.traps.any (escalated e) then .no
    else if (ws.filter fun k => !cpFed k).any fun k => c.tokens[k] = 0 then .no
    else
      match dispatchOf q.instr (s.env q) s with
      | none => if s.evqRoom q && (q.exposed || !s.copyInterlocked q) && !s.nodeWaits q then .go else .no
      | some d =>
        if 0 < d.burin && c.sclk < c.burinFree then .no
        else if !q.exposed && s.interlocked q d then .no
        else if (ws.filter cpFed).any fun k => c.tokens[k] = 0 then .frozen
        else .go

/-! ### Windows and marked operands (R116, R188, R357) -/

/-- The slots and view uses that a tile step reads, and the accumulators whose value it takes. -/
def tileOperands (q : QEntry) (x : Env) : Option (List (Fin 64) × List ViewUse × List (Fin 4)) :=
  let one (k : TileKind) (m : MWord) : Option (List (Fin 64) × List ViewUse × List (Fin 4)) :=
    (tileFormats k m x).map fun f =>
      (slotsRead k m f.1 f.2.1, aUse k m f.1 f.2.1 :: aScaleUse k m f.1 f.2.1,
        if m.za then [] else (List.range (mRep m)).map fun j => Fin.ofNat 4 (m.acc.val + j))
  match q.instr with
  | .mma m => one .mma m
  | .mmas m => one .mmas m
  | .mmat m => one .mmat m
  | _ => none

/-- The lines of a list of Plate resources. -/
def linesOf (rs : List Res) : List Nat :=
  (rs.flatMap fun r => match r with | .plate o n => granules o n | _ => []).eraseDups

/-- The marked lines, slots and accumulators that a tile step would read now. -/
def Core.markedOperands (c : Core) (q : QEntry) (x : Env) : List Nat × List (Fin 64) × List (Fin 4) :=
  match tileOperands q x with
  | none => ([], [], [])
  | some (ws, us, as) =>
    ((linesOf (usesRanges q us)).filter c.marks.contains,
     ws.filter fun (w : Fin 64) => c.wslots[w].valid && !c.wslots[w].marks.isEmpty,
     as.filter fun (a : Fin 4) => c.chainAcc[a].marked)

/-- The dispatch of a tile step that reads marked data triggers a replay. -/
def Core.triggers (c : Core) (q : QEntry) (x : Env) : Bool :=
  let m := c.markedOperands q x
  !m.1.isEmpty || !m.2.1.isEmpty || !m.2.2.isEmpty

/-- One of a core's windows changed. -/
def Core.modWindow (c : Core) (n : Nat) (f : Window → Window) : Core :=
  if c.window.number = n then { c with window := f c.window }
  else { c with oldWindows := c.oldWindows.map fun w => if w.number = n then f w else w }

/-- The window of a number. -/
def Core.windowOf (c : Core) (n : Nat) : Option Window := (c.window :: c.oldWindows).find? (·.number = n)

/-- A write to weight slots that a tile step of a window has read makes it unreplayable (R358). -/
def Core.spoilSlots (c : Core) (ws : List (Fin 64)) : Core :=
  let places := ws.flatMap fun (k : Fin 64) => granules (slotKey k.val) 4096
  let win (w : Window) : Window :=
    let w := c.changedIn w places
    if w.cmds.any fun r => r.slots.any ws.contains then { w with spoiled := true } else w
  { c with window := win c.window, oldWindows := c.oldWindows.map win }

/-- The accumulator writes of a dispatch, as the chain of tile steps sees them; the value before the window's first write is kept. -/
def Core.chain1 (c : Core) (win : Nat) (e : Eff) : Core :=
  match e with
  | .acc a seq v =>
    let old := c.chainAcc[a]
    let c := c.modWindow win fun w => if w.saved.any (·.1 = a) then w else { w with saved := w.saved ++ [(a, old, seq)] }
    { c with chainAcc := c.chainAcc.set a v }
  | _ => c

/-! ### Physical reads (R257) -/

/-- The lines that tile steps read: 32 rows of A in each K step, with their scale bytes. -/
def tileReads (start : Nat) (q : QEntry) (x : Env) : List (Nat × Nat) :=
  let at_ (m : MWord) (j t : Nat) : Nat := start + j * mSteps m + t
  let one (k : TileKind) (m : MWord) : List (Nat × Nat) :=
    match tileFormats k m x with
    | none => []
    | some (a, b, _) =>
      let kE := kElems k a b
      (List.range (mRep m)).flatMap fun j => (List.range (mSteps m)).flatMap fun t =>
        let u := aUse k m a b
        let offs := (u.offsets (q.view u.vw))
        let data := if k = .mmat then ((offs.drop (t * kE)).take kE).flatMap fun o => granules (o + j * 4 * a.bits) (4 * a.bits)
          else ((offs.drop (32 * j)).take 32).flatMap fun o => granules (o + t * kE * a.bits / 8) (kE * a.bits / 8)
        let scales := (aScaleUse k m a b).flatMap fun s =>
          (((s.offsets (q.view s.vw)).drop (32 * j)).take 32).flatMap fun o =>
            granules (o + t * kE / 32 * a.scaleBytes) ((kE + 31) / 32 * a.scaleBytes)
        (data ++ scales).eraseDups.map fun l => (at_ m j t, l)
  match q.instr with
  | .mma m => one .mma m
  | .mmas m => one .mmas m
  | .mmat m => one .mmat m
  | _ => []

/-- Byte ranges read one after another at 512 bytes an S-cycle. -/
def rangeReads (start : Nat) : Nat → List (Nat × Nat) → List (Nat × Nat)
  | _, [] => []
  | x, r :: rs => (granules r.1 r.2).map (fun l => (start + (x + (max r.1 (64 * l) - r.1)) / 512, l)) ++ rangeReads start (x + r.2) rs

/-- The line reads of a dispatching instruction. -/
def physicalReads (start : Nat) (q : QEntry) (x : Env) (d : Dispatch) : List (Nat × Nat) :=
  match tileOperands q x with
  | some _ => tileReads start q x
  | none => d.reads.flatMap (fun u => useReads start (q.view u.vw) u) ++ rangeReads start 0 d.ranges

/-! ### Dispatch of LD, MX, VX and ST (R39, R123) -/

/-- The head leaves its queue: its waits pop, its engine and the Burin are occupied. -/
def Core.leaveQueue (c : Core) (e : Engine) (occ burin : Nat) : Core :=
  match c.headOf e with
  | none => c
  | some q =>
    let c := (waitsOf e (tokensOf q.instr)).foldl (fun (c : Core) (k : Fin 10) => { c with tokens := c.tokens.set k (c.tokens[k] - 1) }) c
    { c with queues := c.queues.set (engIx e) (c.queues[engIx e]).tail,
             engFree := c.engFree.set (engIx e) (c.sclk + max 1 occ),
             burinFree := if 0 < burin then c.sclk + burin else c.burinFree,
             ahead := c.ahead.filter (·.seq ≠ q.seq) }

/-- The copies behind the CP-fed tokens that an instruction pops are consumed, the oldest post first (R25, R238). -/
def State.popCopies (s : State) (e : Engine) (q : QEntry) : State :=
  ((waitsOf e (tokensOf q.instr)).filter cpFed).foldl (fun s k =>
    match s.cpu.posted.find? (·.1 = k) with
    | some p => (s.modCpu fun c => { c with posted := c.posted.erase p }).consumeCopy s.cur p.2
    | none => s) s

/-- The own Plate bytes that a dispatching instruction reads: its views, its index tile, and what a load brings in. -/
def readOffsets (c : CoreId) (q : QEntry) (d : Dispatch) : List Nat :=
  (d.reads.flatMap fun u => useOffsets (q.view u.vw) u) ++
    (ownRuns c (d.touched ++ d.effs.flatMap Eff.runs)).flatMap fun r => List.range' r.1 r.2

/-- The reads of a dispatching instruction: bank reads and lines of the open proof segment. -/
def Core.dispatchReads (c : Core) (q : QEntry) (x : Env) (d : Dispatch) : Core :=
  { c.segReads (linesOf (plateReads q d)) with bankReads := physicalReads c.sclk q x d ++ c.bankReads }

/-- What a window retains of an MX or LD command (R116, R357). -/
def Core.retain (c : Core) (e : Engine) (q : QEntry) (x : Env) (d : Dispatch) : Core :=
  if e ≠ .mx && e ≠ .ld then c
  else
    let t := tileOperands q x
    let r : Retained :=
      { entry := q, disp := c.sclk, due := c.sclk + d.lat,
        lines := match t with | some y => (linesOf (usesRanges q y.2.1)).foldl NatSet.insert [] | none => [],
        slots := match t with | some y => y.1 | none => [], landed := if e = .ld then d.effs.flatMap Eff.runs else [] }
    c.modWindow q.window fun w => { w with cmds := w.cmds ++ [r] }

/-- The landing of a dispatch. -/
def landingOf (e : Engine) (q : QEntry) (now : Nat) (d : Dispatch) (effs : List Eff) : Landing :=
  let t := tokensOf q.instr
  { due := now + d.lat, seq := q.seq, addr := q.addr, eng := some e, postL := t.postL, postR := t.postR, window := q.window,
    holds := q.allWrites d, reads := plateReads q d, effs }

/-- A load's results on their way, or a store's to the own Plate, which has a number where it goes through a mapping (R271): the own Plate
is read at dispatch; other memory is read where its packets arrive, and the tile lands
once all of it has come back (R41, R219, R293, R341). -/
def State.sendLoad (s : State) (e : Engine) (q : QEntry) (d : Dispatch) (legs : List Seg) : State :=
  let put (s : State) (effs : List Eff) : State := s.modCpu fun c => { c with landings := c.landings ++ [landingOf e q c.sclk d effs] }
  if d.atOnce then
    let r := s.readEffs (dieOf s.cur) false d.effs
    if d.mapped then put { r.1 with nextPacket := s.nextPacket + 1 } (.waits s.nextPacket 0 :: r.2) else put r.1 r.2
  else
    let num := s.nextPacket
    put ({ s with nextPacket := num + 1 }.postReads (.tile num) false legs) (.waits num legs.length :: d.effs)

/-- The placed bytes that a load reads, in packets, from its runs. -/
def loadLegs (effs : List Eff) : List Seg :=
  let join (gs : List Seg) (r : LoadRun) : List Seg :=
    match r.src with
    | none => gs
    | some l =>
      match gs with
      | g :: rest =>
        if g.loc.sp = l.sp && g.loc.addr + g.n = l.addr && l.addr % 2048 ≠ 0 then { g with n := g.n + r.n } :: rest
        else ⟨0, 0, r.n, r.va, l⟩ :: gs
      | [] => [⟨0, 0, r.n, r.va, l⟩]
  ((effs.flatMap Eff.runs).foldl join []).reverse

/-- A store's writes on their way to memory: its packets leave in order, and it lands once every one has been performed (R218, R227). -/
def State.sendStore (s : State) (e : Engine) (q : QEntry) (d : Dispatch) : State :=
  let num := s.nextPacket
  let known := s.cpu.known
  let rels := s.cpu.fenced
  let s := d.store.foldl (fun s w =>
    match s.packetFor s.cur w.sp w.addr w.n false { src := s.cur, of_ := .tile num, known, rels, ops := w.ops } with
    | some p => s.post p
    | none => s) { s with nextPacket := num + 1 }
  s.modCpu fun c => { c with landings := c.landings ++ [landingOf e q c.sclk d (.waits num d.store.length :: d.effs)] }

/-- A refresh of a bank group starts now and blocks it for 32 die cycles; one that finds the group busy waits for its end. -/
def State.refreshGroup (s : State) (d : DieId) (g : Fin 32) : State :=
  let k := s.die d
  let x := k.groups[g]
  if k.dclk < x.busyUntil then s.modDie d fun k => { k with groups := k.groups.set g { x with waiting := x.waiting + 1 } }
  else (s.modDie d fun k => { k with groups := k.groups.set g ⟨k.dclk, k.dclk + 32, x.waiting⟩ }).schedule 32 (.wsRefreshEnd d g)

/-- WREF: the group is refreshed, after a refresh of it under way (R263). -/
def State.programRefresh (s : State) (g : Reg) : State := s.refreshGroup (dieOf s.cur) g

/-- TPREF asks for the translations of its pages that the core TLB lacks, and waits for none (R224, R269). -/
def State.prefetch (s : State) (vas : List Nat) : State :=
  vas.foldl (fun s va => if s.present s.cur va then s else s.askWalk s.cur (.ahead s.cpu.ctx va) s.cpu.ctx va) s

/-- The fault of a dispatch: its own, or an overlap race in deterministic mode (R303). -/
def State.dispatchFault (s : State) (e : Engine) (q : QEntry) (d : Dispatch) : Option (Cause × Word) :=
  d.fault.or ((s.cpu.overlap e (plateReads q d) (q.allWrites d)).map fun o => (.overlapRace, BitVec.ofNat 64 o))

/-- A dispatch that faults: nothing changes but its engine, its tokens and its ring entry (R123). -/
def State.dispatchFaulted (s : State) (e : Engine) (q : QEntry) (d : Dispatch) (f : Cause × Word) : State :=
  let effs := if pushesRing q.instr then [ringZero q.cap.ringPos] else []
  let s := (s.popCopies e q).modCpu fun c =>
    let c := c.leaveQueue e d.occ d.burin
    { c with landings := c.landings ++ [{ landingOf e q c.sclk d effs with reads := [] }] }
  s.pendTrap s.cur { cause := f.1, badaddr := f.2, eng := some e, addr := q.addr, slot := false, precise := false }

/-- A dispatch without a fault. Its touches of guard granules land with it (R99); an index tile that has been read a second time is not
read again (R219). -/
def State.dispatchGood (s : State) (e : Engine) (q : QEntry) (d : Dispatch) : State :=
  let x := s.env q
  let again := s.cpu.ahead.any fun f => f.seq = q.seq && f.held
  let effs := d.effs ++ s.cpu.touchEffs (readOffsets s.cur q d)
  let s := (s.popCopies e q).modCpu fun c => ((c.dispatchReads q x d).retain e q x d).leaveQueue e d.occ d.burin
  let s := if again then s else (s.sampleRuns (dieOf s.cur) true d.touched).1
  let s := if e = .ld then s.runAhead s.cpu.ahead else s
  let s := s.modCpu fun c => d.effs.foldl (fun c f => c.chain1 q.window f) c
  let s := match d.refresh with | some g => s.programRefresh g | none => s
  let s := s.prefetch d.ahead
  let d := { d with effs }
  if !d.store.isEmpty then s.sendStore e q d else s.sendLoad e q d (loadLegs d.effs)

/-- The head of an engine other than CP dispatches; its translations come first, and a tile step that reads marked data freezes the
core for a replay. -/
def State.dispatchEngine (s : State) (e : Engine) (q : QEntry) : State :=
  match s.transferMiss q with
  | some m => s.tlbMiss s.cur m.1 m.2
  | none =>
    if s.indexAbsent q then s.awaitIndex q
    else
    match dispatchOf q.instr (s.env q) s with
    | none => s
    | some d =>
      match s.dispatchFault e q d with
      | some f => s.dispatchFaulted e q d f
      | none =>
        if s.cpu.triggers q (s.env q) then
          (s.chosen.modCpu fun c => { c with freeze := some .replay }).schedule (1 + s.choice) (.replayRereadDone s.cur)
        else s.dispatchGood e q d

/-! ### Dispatch of CP (R229, R234) -/

/-- The function number of a CP command, and its fields. -/
def copyFn (i : Instr) : Option (Nat × VWord) :=
  match i with
  | .cpy v => some (0, v)
  | .cpya v => some (1, v)
  | .cmcast v => some (2, v)
  | .catom v => some (3, v)
  | .cfill v => some (4, v)
  | .rnode v => some (5, v)
  | .rcont v => some (6, v)
  | _ => none

/-- The head of CP dispatches. -/
def State.dispatchCopy (s : State) (q : QEntry) : State :=
  match copyFn q.instr, copyPlanOf q.instr (s.env q) s with
  | some (fn, v), some p =>
    let race := (s.cpu.overlap .cp p.reads p.holds).map fun o => ((.overlapRace, BitVec.ofNat 64 o) : Cause × Word)
    let s := (s.popCopies .cp q).modCpu fun c => c.leaveQueue .cp 1 0
    match p.fault.or race with
    | some f => s.faultCopy q fn v f
    | none =>
      let s := s.modCpu fun c =>
        { c.readTouch (p.views.flatMap fun r => List.range' r.1 r.2) with
          bankReads := rangeReads c.sclk 0 p.views ++ c.bankReads }
      match fn with
      | 5 => s.startRnode q v p
      | 6 => s.startRcont q v p
      | _ => s.startCopy q fn v p
  | _, _ => s

/-- ENGINE_DISPATCH (R39): the head of the named queue dispatches where it may. -/
def execEngineDispatch (s : State) : Out :=
  match s.event with
  | .engineDispatch e =>
    match s.headReady e, s.cpu.headOf e with
    | .go, some q => .next (if e = .cp then s.dispatchCopy q else s.dispatchEngine e q)
    | _, _ => .next s
  | _ => .next s

end Sys2Proof.Machine
end

