-- ==== Sys2Proof/Machine/HomeService.lean ====
section
/-! DEFINITION. What a home does: pool service, ring service, waiting ring operations, and the arrival and landing of replies
(R237, R241–R247, R274–R280, R283–R285). -/

namespace Sys2Proof.Machine

/-! ### Replies -/

/-- A serviced operation reads its home object: what it then acquires is what has been left there by now (R294, R295). -/
def State.gathered (s : State) (c : CoreId) (rid : Nat) : State :=
  match ((s.core c).homeOps.find? (·.rid = rid)).bind (·.acquire) with
  | some (sc, o) =>
    let g := s.gainAt c sc o
    s.modCore c fun k => { k with homeOps := k.homeOps.map fun h => if h.rid = rid then { h with gain := g } else h }
  | none => s

/-- A reply on its way back to its issuer (R285). -/
def State.sendReply (s : State) {op : Type} (q : HomeReq op) (r : Reply) : State :=
  (s.homeBeat q.home q.src).schedule (replyTrip q.src q.home) (.homeReplyArrival q.src q.rid r)

/-- What a reply does at its issuer when it becomes readable: registers land, the acquire takes effect, or the misuse is raised
(R241, R244, R247). A touch recorded since a barrier issued is reported (R260). -/
def State.landReply (s : State) (c : CoreId) (rid : Nat) : State :=
  match (s.core c).homeOps.find? (·.rid = rid) with
  | none => s
  | some op =>
    let s := s.modCore c fun k => { k with homeOps := k.homeOps.filter (·.rid ≠ rid) }
    let put (k : Core) (p : Reg × Word) : Core := if op.handler then k.writeX p.1 p.2 else k.landX p.1 p.2
    let raise (k : Cause) : State := s.pendTrap c { cause := k, badaddr := op.addr, eng := none, addr := op.addr, slot := false, precise := false }
    match op.arrived with
    | some (.values vs) =>
      let s := s.modCore c fun k => (op.dest.zip vs).foldl put k
      let s := s.learn c op.gain
      match (if op.barrier then (s.core c).guardReport else none) with
      | some t => s.pendTrap c { t with slot := op.slot }
      | none => s
    | some .overcommit => raise .poolOvercommit
    | some .broken => raise .ringBroken
    | none => s

/-- A handler's reply has arrived: its registers are readable and its slot is free from this die cycle on. -/
def handlerArrived (c : Core) (dest : List Reg) (remote : Bool) (now : Nat) : Core :=
  { c with
    hReady := c.hReady.map fun p => if p.2 = notYet && dest.any (fun r => p.1 = .x r) then (p.1, now) else p,
    hSlots := if remote then c.hSlots.erase notYet ++ [now] else c.hSlots }

/-- HOME_REPLY_ARRIVAL (R236): the reply is there, and a core frozen for it thaws. -/
def execHomeReplyArrival (s : State) : Out :=
  match s.event with
  | .homeReplyArrival c rid r =>
    .next (s.modCore c fun k =>
      if k.homeOps.any (·.rid = rid) then
        { k with homeOps := k.homeOps.map (fun o => if o.rid = rid then { o with arrived := some r } else o),
                 freeze := if k.freeze = some (.reply rid) then none else k.freeze }
      else k)
  | _ => .next s

/-- The reply of a handler's operation at the die cycle from which it is readable: it lands, or the core freezes until it arrives
(R85, R247). -/
def State.handlerReply (s : State) (rid : Nat) : State :=
  match s.cpu.homeOps.find? (·.rid = rid) with
  | none => s.modCpu fun c => { c with hLater := c.hLater.filter (·.2.2 ≠ .reply rid) }
  | some op =>
    if op.arrived.isNone then s.modCpu fun c => { c with freeze := some (.reply rid) }
    else
      let s := s.modCpu fun c => { c with hLater := c.hLater.filter (·.2.2 ≠ .reply rid) }
      (s.landReply s.cur rid).modCpu fun c => handlerArrived c op.dest op.remote (s.now s.cur)

/-- Where slot or buffer `n` lies for a core (R274, R283). -/
def unitBase (place base stride n : Nat) (home src : CoreId) : Nat :=
  let a := base + n * stride
  if place = 0 && src ≠ home then 0x7F0000000000 + home.val * plateSize + a else a

/-! ### Pools (R242) -/

/-- What a holder holds. -/
def PoolUnit.holder (p : PoolUnit) (kid rank : Nat) : Holder :=
  (p.holders.find? fun h => h.kid = kid && h.rank = rank).getD ⟨kid, rank, none, none⟩

/-- A holder's holdings replaced; one that holds nothing is not listed. -/
def PoolUnit.setHolder (p : PoolUnit) (h : Holder) : PoolUnit :=
  let rest := p.holders.filter fun x => !(x.kid = h.kid && x.rank = h.rank)
  { p with holders := if h.open_.isNone && h.pin.isNone then rest else rest ++ [h] }

/-- One slot changed. -/
def PoolUnit.modSlot (p : PoolUnit) (n : Nat) (f : PoolSlot → PoolSlot) : PoolUnit :=
  { p with slots := p.slots.zipIdx.map fun x => if x.2 = n then f x.1 else x.1 }

/-- Something has been published. -/
def PoolUnit.published (p : PoolUnit) : Bool := p.fresh < 0x7F

/-- The overcommit of R242. -/
def PoolUnit.overcommit (p : PoolUnit) (h : Holder) (op : PoolOp) : Bool :=
  match op with
  | .wbegin => h.open_.isSome || p.opens = p.w
  | .wnext => h.open_.isNone && p.opens = p.w
  | .rbegin => h.pin.isSome || (p.pins = p.r && p.published)
  | .rnext => h.pin.isNone && p.pins = p.r && p.published
  | _ => false

/-- A holder's open slot is published: the next sequence, the stamp, the freshest (R242). The sequence published, or 0. -/
def PoolUnit.publish (p : PoolUnit) (h : Holder) (d : Nat) : PoolUnit × Nat :=
  match h.open_ with
  | none => (p, 0)
  | some o =>
    let q := (p.seq + 1) % 2 ^ 48
    (({ p with seq := q, fresh := o, opens := p.opens - 1 }.modSlot o fun x =>
        { x with seq := q, stamp := d, isOpen := false }).setHolder { h with open_ := none }, q)

/-- The lowest-numbered slot that is not freshest, not pinned and not open. -/
def PoolUnit.candidate (p : PoolUnit) : Nat :=
  p.slots.zipIdx.findIdx fun x => x.2 ≠ p.fresh && x.1.pinc = 0 && !x.1.isOpen

/-- A slot is opened for a holder. -/
def PoolUnit.openSlot (p : PoolUnit) (kid rank : Nat) : PoolUnit × Nat :=
  let n := p.candidate
  (({ p with opens := p.opens + 1 }.modSlot n fun x => { x with isOpen := true }).setHolder
      { p.holder kid rank with open_ := some n }, n)

/-- A holder's pin is dropped. -/
def PoolUnit.unpin (p : PoolUnit) (kid rank : Nat) : PoolUnit :=
  match (p.holder kid rank).pin with
  | none => p
  | some n =>
    ({ p with pins := p.pins - 1 }.modSlot n fun x => { x with pinc := x.pinc - 1 }).setHolder
      { p.holder kid rank with pin := none }

/-- The freshest slot is pinned for a holder. -/
def PoolUnit.pinFresh (p : PoolUnit) (kid rank : Nat) : PoolUnit :=
  ({ p with pins := p.pins + 1 }.modSlot p.fresh fun x => { x with pinc := x.pinc + 1 }).setHolder
    { p.holder kid rank with pin := some p.fresh }

/-- Sequence and age of the freshest slot at a die cycle (R279). -/
def PoolUnit.freshest (p : PoolUnit) (d : Nat) : Nat × Nat :=
  match p.slots[p.fresh]? with
  | some x => if p.published then (x.seq, min (d - x.stamp) (2 ^ 32 - 1)) else (0, 0)
  | none => (0, 0)

/-- One pool operation at home die cycle `d`: the pool afterwards and the reply, if any (R242). -/
def PoolUnit.service (p : PoolUnit) (q : HomeReq PoolOp) (d : Nat) : PoolUnit × Option Reply :=
  let h := p.holder q.kid q.rank
  let base (p : PoolUnit) (n : Nat) : Word := BitVec.ofNat 64 (unitBase p.place p.base p.stride n q.home q.src)
  let word (n : Nat) : Word := BitVec.ofNat 64 n
  if p.overcommit h q.op then (p, some .overcommit)
  else
    match q.op with
    | .wend => ((p.publish h d).1, none)
    | .wbegin | .wnext =>
      let r := if q.op = .wnext then p.publish h d else (p, 0)
      let o := r.1.openSlot q.kid q.rank
      (o.1, some (.values [base o.1 o.2, word r.2, 0]))
    | .rend => (p.unpin q.kid q.rank, none)
    | .rbegin | .rnext =>
      let p := p.unpin q.kid q.rank
      if !p.published then (p, some (.values [0, 0, 0]))
      else
        let f := p.freshest d
        (p.pinFresh q.kid q.rank, some (.values [base p p.fresh, word f.1, word f.2]))
    | .query =>
      let f := p.freshest d
      (p, some (.values [word f.1, word f.2, word (p.pins + p.opens * 256)]))

/-- The pool of a unit as a kernel may act on it: its own, or a tenant's, and only while the kernel lives (R275, R276). -/
def State.poolFor (s : State) (q : HomeReq PoolOp) : Option PoolUnit :=
  ((s.core q.home).pools[Fin.ofNat 8 q.entry]).filter fun p => (p.kid.isNone || p.kid = some q.kid) && s.kernels.any (·.kid = q.kid)

/-- The service of a pool or ring reads a line of the home's Plate: it takes the line's bank first (R257, R258). -/
def State.homeRead (s : State) (home : CoreId) (u : Nat) : State :=
  let l := Config.homeLine u
  s.modCore home fun k =>
    { k with bankBusy := l % 64 :: k.bankBusy, bankReads := (dieKey (s.now home), l) :: k.bankReads }

/-- POOL_SERVICE (R242, R280). -/
def execPoolService (s : State) : Out :=
  match s.event with
  | .poolService q =>
    let u := Fin.ofNat 8 q.entry
    match s.poolFor q with
    | none => .next s
    | some p =>
      let r := p.service q (s.now q.home)
      let s := (if r.2 = some .overcommit then s else s.publish (.pool q.home q.entry) q.src q.rel).gathered q.src q.rid
      let s := (s.homeRead q.home q.entry).modCore q.home fun c => { c with pools := c.pools.set u (some r.1) }
      let counted := q.det && (q.op = .rbegin || q.op = .rnext) && r.2 ≠ some .overcommit
      let s := if counted then s.modKernel q.kid fun k => { k with preads := k.preads + 1 } else s
      match r.2 with
      | some a => .next (s.sendReply q a)
      | none => .next s
  | _ => .next s

/-! ### Rings (R245, R284) -/

/-- What serviced ring operation comes to: it must wait, or the ring afterwards with its answer. -/
inductive RingResult
  | waits
  | done (u : RingUnit) (r : Reply)
deriving DecidableEq, Repr

/-- The state of a buffer. -/
def RingUnit.buf (u : RingUnit) (n : Nat) : BufState := u.bufs[n]?.getD .free

/-- One buffer's state set. -/
def RingUnit.setBuf (u : RingUnit) (n : Nat) (b : BufState) : RingUnit := { u with bufs := u.bufs.set n b }

/-- The next index in the cycle. -/
def RingUnit.after (u : RingUnit) (n : Nat) : Nat := (n + 1) % u.n

/-- A misuse breaks the ring (R247). -/
def RingUnit.misuse (u : RingUnit) : RingResult := .done { u with cond := .broken } .broken

/-- RTAKE's flags (R245). -/
def takeFlags (eos err broken : Bool) (index item : Nat) : Word :=
  BitVec.ofNat 64 ((if eos then 1 else 0) + (if err then 2 else 0) + (if broken then 4 else 0) + index % 64 * 256
    + item % 2 ^ 32 * 65536)

/-- Bit 63 of XD on a broken or drained ring. -/
def ringEnded : Word := 0x8000000000000000

/-- The end-of-stream mark put on a buffer; every other acquired buffer becomes free (R245). -/
def RingUnit.closeAt (u : RingUnit) (n : Nat) (err : Bool) : RingUnit :=
  { u with bufs := u.bufs.zipIdx.map (fun p => if p.2 = n then .full else if p.1 = .acquired then .free else p.1),
           nextPub := u.after n, nextAcq := u.after n, cond := .closed, err, eos := some n }

/-- RSTAT's word. -/
def RingUnit.status (u : RingUnit) : Word :=
  let count (b : BufState) : Nat := (u.bufs.filter (· = b)).length
  BitVec.ofNat 64 (count .full + count .free * 2 ^ 8 + (if u.eos.isSome then 2 ^ 16 else 0)
    + (if u.eos.isSome && u.err then 2 ^ 17 else 0) + (if u.cond = .broken then 2 ^ 18 else 0)
    + (if u.eosTaken then 2 ^ 19 else 0))

/-- One ring operation by the ring's condition (R284). -/
def RingUnit.service (u : RingUnit) (q : HomeReq RingOp) : RingResult :=
  let base (n : Nat) : Word := BitVec.ofNat 64 (unitBase u.place u.base u.stride n q.home q.src)
  let ok (u : RingUnit) : RingResult := .done u (.values [])
  match q.op, u.cond with
  | .stat, _ => .done u (.values [u.status])
  | .brk, _ => ok { u with cond := .broken }
  | .acq, .broken => .done u (.values [ringEnded])
  | .take, .broken => .done u (.values [ringEnded, takeFlags false false true u.nextTake u.taken])
  | .pub, .broken | .free, .broken | .close _, .broken => ok u
  | .acq, .open_ =>
    if u.buf u.nextAcq = .free then
      .done { u.setBuf u.nextAcq .acquired with nextAcq := u.after u.nextAcq } (.values [base u.nextAcq])
    else .waits
  | .acq, _ => u.misuse
  | .pub, .open_ =>
    if u.buf u.nextPub = .acquired then ok { u.setBuf u.nextPub .full with nextPub := u.after u.nextPub } else u.misuse
  | .pub, _ => u.misuse
  | .take, .drained => .done u (.values [ringEnded, takeFlags true u.err false u.nextTake u.taken])
  | .take, _ =>
    if u.buf u.nextTake = .full then
      let eos := u.eos = some u.nextTake
      .done { u.setBuf u.nextTake .taken with nextTake := u.after u.nextTake, taken := u.taken + 1,
                                              eosTaken := u.eosTaken || eos }
        (.values [base u.nextTake, takeFlags eos (eos && u.err) false u.nextTake u.taken])
    else .waits
  | .free, .drained => u.misuse
  | .free, _ =>
    if u.buf u.nextFree = .taken then
      ok { u.setBuf u.nextFree .free with nextFree := u.after u.nextFree,
                                          cond := if u.eos = some u.nextFree then .drained else u.cond }
    else u.misuse
  | .close err, .open_ =>
    if u.buf u.nextPub = .acquired then ok (u.closeAt u.nextPub err)
    else if u.buf u.nextAcq = .free then ok (u.closeAt u.nextAcq err)
    else .waits
  | .close _, _ => u.misuse

/-- A waiting operation kept for its side, behind those that wait there (R285). -/
def RingUnit.wait (u : RingUnit) (q : HomeReq RingOp) : RingUnit :=
  match q.op with
  | .take => { u with waitCons := u.waitCons ++ [q] }
  | _ => { u with waitProd := u.waitProd ++ [q] }

/-- An operation that can wait stands behind one of its side that waits. DEDUCED (log entry 75): an issuer that runs on may send
several, and they are serviced in program order. -/
def RingUnit.behind (u : RingUnit) (q : HomeReq RingOp) : Bool :=
  match q.op with
  | .take => !u.waitCons.isEmpty
  | .acq | .close _ => !u.waitProd.isEmpty
  | _ => false

/-- A waiting operation that leaves its place. -/
def RingUnit.leave (u : RingUnit) (q : HomeReq RingOp) : RingUnit :=
  { u with waitProd := u.waitProd.erase q, waitCons := u.waitCons.erase q }

/-- Of each side the operation that has waited longest is serviced in this die cycle where it can complete now (R285). -/
def State.wakeRing (s : State) (u : RingUnit) : State :=
  let go (s : State) (w : List (HomeReq RingOp)) : State :=
    match w.head? with
    | some q => match u.service q with
      | .waits => s
      | .done _ _ => s.schedule 0 (.ringWaitServiced q)
    | none => s
  go (go s u.waitProd) u.waitCons

/-- A ring operation serviced at its home. -/
def State.ringDo (s : State) (q : HomeReq RingOp) (u : RingUnit) : State :=
  let k := Fin.ofNat 8 q.entry
  match u.service q with
  | .waits => s.modCore q.home fun c => { c with rings := c.rings.set k (some (u.wait q)) }
  | .done u' r =>
    let s := if u.cond = .broken || r = .broken then s else (s.publish (.ring q.home q.entry) q.src q.rel).gathered q.src q.rid
    let s := s.modCore q.home fun c => { c with rings := c.rings.set k (some u') }
    let s := if q.op = .brk then s else s.sendReply q r
    s.wakeRing u'

/-- The ring that an operation of a kernel acts on (R287). -/
def State.ringFor (s : State) (q : HomeReq RingOp) : Option RingUnit :=
  ((s.core q.home).rings[Fin.ofNat 8 q.entry]).filter fun u => u.kid = q.kid

/-- RING_SERVICE (R284). -/
def execRingService (s : State) : Out :=
  match s.event with
  | .ringService q =>
    match s.ringFor q with
    | some u =>
      let s := s.homeRead q.home (8 + q.entry)
      if u.behind q then .next (s.modCore q.home fun c => { c with rings := c.rings.set (Fin.ofNat 8 q.entry) (some (u.wait q)) })
      else .next (s.ringDo q u)
    | none => .next s
  | _ => .next s

/-- RING_WAIT_SERVICED (R285): the operation leaves its place and is serviced. -/
def execRingWaitServiced (s : State) : Out :=
  match s.event with
  | .ringWaitServiced q =>
    match s.ringFor q with
    | some u => if (u.waitProd ++ u.waitCons).contains q then .next (s.ringDo q (u.leave q)) else .next s
    | none => .next s
  | _ => .next s

end Sys2Proof.Machine
end

