-- ==== Sys2Proof/Machine/Landing.lean ====
section
/-! DEFINITION. Landing (R24, R39, R41, R84, R116, R188, R219): what a result that is due does, late accesses, and the promotion of
reads of other cores (R258). -/

namespace Sys2Proof.Machine

/-- A part of a core's step performed with that core in focus. -/
def State.onCore (s : State) (c : CoreId) (f : State → State) : State :=
  let t := f { s with cur := c }
  { t with cur := s.cur }

/-! ### One effect -/

/-- A register file's effect at a core. -/
def Core.land (c : Core) (e : Eff) : Core :=
  match e with
  | .x r v => c.landX r v
  | .plate cells marked => c.writePlate cells marked
  | .mask k v => if k = 0 then c else { c with masks := c.masks.set k v }
  | .perm k p => { c with perms := c.perms.set k p }
  | .acc a seq v =>
    if c.accSeq[a] ≤ seq then { c with acc := c.acc.set a v, accSeq := c.accSeq.set a seq } else c
  | .wslot w v => Core.spoilSlots { c with wslots := c.wslots.set w v } [w]
  | .invalidate w => Core.spoilSlots { c with wslots := c.wslots.set w { c.wslots[w] with valid := false } } [w]
  | .ring pos data marks =>
    let k := Fin.ofNat 8 pos
    if c.ring[k].tag < pos + 1 then { c with ring := c.ring.set k ⟨pos + 1, data, marks⟩ } else c
  | .vstat f => { c with vstat := c.vstat ||| f }
  | .fills rs => let r := runCells rs; c.writePlate r.1 r.2
  | .slots a n fmt sparse rs =>
    let ws : List (Fin 64) := (List.range n).map fun j => Fin.ofNat 64 (a.val + j)
    (ws.foldl (fun (c : Core) (w : Fin 64) => { c with wslots := c.wslots.set w (slotFromRuns w.val fmt sparse rs) }) c).spoilSlots ws
  | _ => c

/-- A load of a window has landed: the lines and weight slots that it fills whole are its own again, and those in which it writes some
bytes stay as they were (R357, R358). -/
def Core.reloaded (c old : Core) (number : Nat) (rs : List LoadRun) : Core :=
  let full (l : Nat) : Bool := 64 ≤ (rs.flatMap fun r => (List.range' r.to_ r.n).filter fun a => lineOf a = l).length || plateSize ≤ 64 * l
  let back (w : Window) : Window :=
    match old.windowOf number with
    | some v =>
      let mine := rs.flatMap fun r => granules r.to_ r.n
      { w with changed := v.changed.filter fun l => !(mine.contains l && full l) }
    | none => w
  c.modWindow number back

/-- One effect of a landing of the core in focus. -/
def State.landEff (s : State) (l : Landing) (e : Eff) : State :=
  match e with
  | .globalAt seq => s.performUpTo s.cur seq
  | .globalDue seq => s.landGlobal s.cur seq
  | .reply rid => s.landReply s.cur rid
  | .touch sp a n => s.touchRead sp a n
  | .touched o => s.modCpu fun c => c.touchGuard o
  | .carries off n rels => s.setFlags (.plate s.cur) off n s.cur rels
  | .hears rels => s.modCpu fun c => { c with heard := rels.foldl addHeard c.heard }
  | .poison b => s.pendTrap s.cur (poisonTrap b l.addr)
  | .raise k b => s.pendTrap s.cur { cause := k, badaddr := b, eng := none, addr := l.addr, slot := false, precise := false }
  | .fills rs | .slots _ _ _ _ rs => s.modCpu fun c => (c.land e).reloaded c l.window rs
  | e => s.modCpu fun c => c.land e

/-! ### A landing -/

/-- What is due in this S-cycle and stands first in program order. -/
def nextDue (sclk : Nat) : List Landing → Option Landing
  | [] => none
  | l :: ls =>
    match nextDue sclk ls with
    | some m => if l.due ≤ sclk && l.seq ≤ m.seq then some l else some m
    | none => if l.due ≤ sclk then some l else none

/-- Packets of a tile are still out, or a global access has not been answered. -/
def Core.accessOut (c : Core) (es : List Eff) : Bool :=
  es.any fun e => match e with
    | .waits _ n => 0 < n
    | .globalDue seq => c.globals.any fun g => g.seq = seq && !g.back
    | _ => false

/-- A reply that has not arrived yet. -/
def Core.replyMissing (c : Core) (es : List Eff) : Option Nat :=
  es.findSome? fun e => match e with
    | .reply rid => if c.homeOps.any fun o => o.rid = rid && o.arrived.isNone then some rid else none
    | _ => none

/-- A run is to be read once more. -/
def rereads (es : List Eff) : Bool := es.any fun e => e.runs.any (·.again)

/-- A due landing that cannot land at once: its access is late, its reply is missing, or a granule is to be read again. -/
def Core.stalls (c : Core) (l : Landing) : Bool :=
  c.accessOut l.effs || (c.replyMissing l.effs).isSome || rereads l.effs

/-- Windows all of whose commands have landed are released (R116). -/
def Core.releaseWindows (c : Core) : Core :=
  { c with oldWindows := c.oldWindows.filter fun w =>
      c.queued.any (fun q => q.window = w.number && (engineOf q.instr = .mx || engineOf q.instr = .ld)) ||
      c.landings.any fun l => l.window = w.number && (l.eng = some .mx || l.eng = some .ld) }

/-- The own Plate bytes that a part of a landing writes. -/
def Eff.cells : Eff → List (Nat × Byte)
  | .plate cells _ => cells
  | _ => []

/-- Stores of the store engine to the same bytes take effect in queue order (R228): one that is still in flight changes nothing that a
later one has written, and a line of which it writes nothing more gets no mark from it. -/
def Core.overtake (c : Core) (l : Landing) : Core :=
  let at_ := l.effs.flatMap fun e => e.cells.map (·.1)
  let drop (e : Eff) : Eff :=
    match e with
    | .plate cells marked =>
      let left := cells.filter fun p => c.guards.contains (p.1 / 256) || !at_.contains p.1
      .plate left (marked.filter fun m => left.any fun p => lineOf p.1 = m)
    | e => e
  let old (m : Landing) : Bool := m.eng = some .st && m.seq < l.seq
  if l.eng = some .st && !at_.isEmpty && c.landings.any old then
    { c with landings := c.landings.map fun m => if old m then { m with effs := m.effs.map drop } else m }
  else c

/-- Every effect of a landing, then its token posts. -/
def State.landNow (s : State) (l : Landing) : State :=
  let s := s.modCpu fun c => { c with landings := c.landings.erase l }.overtake l
  let s := l.effs.foldl (fun s e => s.landEff l e) s
  let s := match l.eng with | some e => s.postTokens s.cur e l.postL l.postR l.addr none | none => s
  s.modCpu Core.releaseWindows

/-- A landing that is due: it freezes the core where its access is late, its reply is missing or a granule is read again (R41), else
it lands. -/
def State.landOne (s : State) (l : Landing) : State :=
  if s.cpu.accessOut l.effs then s.modCpu fun c => { c with freeze := some .late }
  else
    match s.cpu.replyMissing l.effs with
    | some rid => s.modCpu fun c => { c with freeze := some (.reply rid) }
    | none =>
      if rereads l.effs then
        (s.chosen.modCpu fun c => { c with freeze := some .replay }).schedule (1 + s.choice) (.replayRereadDone s.cur)
      else s.landNow l

/-- RESULT_LANDING (R39): the first due result in program order lands; before the S-cycle opens, the first that stalls (R41). -/
def execResultLanding (s : State) : Out :=
  match nextDue s.cpu.sclk (if s.cpu.sOpen then s.cpu.landings else s.cpu.landings.filter s.cpu.stalls) with
  | some l => .next (s.landOne l)
  | none => .next s

/-- LATE_ACCESS_ARRIVAL (R41). -/
def execLateAccessArrival (s : State) : Out :=
  match s.event with
  | .lateAccessArrival c =>
    .next (s.modCore c fun k => { k with freeze := if k.freeze = some .late then none else k.freeze })
  | _ => .next s

/-- GROUP4_READ_PROMOTION (R258): the oldest group-4 read of a bank that has waited 16 die cycles takes the bank in this die cycle,
behind a pool or ring service; a local read of the bank loses it, and one that the core is owed from its last S-cycle comes a die cycle
later. -/
def execGroup4ReadPromotion (s : State) : Out :=
  match s.event with
  | .group4ReadPromotion c bank =>
    let k := s.core c
    match k.reads4.find? fun r => r.2.1 % 64 = bank.val && r.1 + 16 ≤ s.now c with
    | none => .next s
    | some r =>
      if k.bankBusy.contains bank.val then .next s
      else
        .next (s.modCore c fun k =>
          let late := s.now c + (k.bankOwed.filter (· = bank.val)).length + 1
          let k := k.granted r
          if k.bankOwed.contains bank.val then
            { k with bankOwed := bank.val :: k.bankOwed,
                     freeze := match k.freeze with | some (.untilCycle d) => some (.untilCycle (max d late)) | f => f }
          else
            { k with bankBusy := bank.val :: k.bankBusy,
                     bankReads := (dieKey (s.now c), r.2.1) :: k.bankReads })
  | _ => .next s

/-! ### Re-reads (R219) -/

/-- The granules of a landing that are read once more. -/
def State.rereadLandings (s : State) : List Landing → State × List Landing
  | [] => (s, [])
  | l :: ls =>
    let a := if l.due ≤ s.cpu.sclk && rereads l.effs then s.readEffs (dieOf s.cur) true l.effs else (s, l.effs)
    let b := a.1.rereadLandings ls
    (b.1, { l with effs := a.2 } :: b.2)

/-! ### Replay (R355, R357, R358, R360) -/

/-- How a replay ends. -/
inductive Settled
  | ok (s : State)
  | escalate (s : State) (k : Cause) (badaddr : Word) (precise : Bool)

/-- The runs of a window's retained loads that have landed and bring in bytes of a range, in order of landing; none where the range has been
written otherwise since. -/
def Core.runsFor (c : Core) (w : Window) (lo n : Nat) : List LoadRun :=
  if (granules lo n).any w.changed.contains then []
  else
    (w.cmds.filter fun r => !c.landings.any fun l => l.seq = r.entry.seq).flatMap fun r =>
      r.landed.filter fun x => x.src.isSome && x.to_ < lo + n && lo < x.to_ + x.n

/-- The cells of runs that lie in a range. -/
def cellsIn (lo n : Nat) (rs : List LoadRun) : List (Nat × Byte) :=
  (rs.flatMap fun r => cellsFrom r.to_ r.data).filter fun p => lo ≤ p.1 && p.1 < lo + n

/-- A range of load destinations read again: the cells, or the fault that it escalates with. -/
def State.rereadRange (s : State) (w : Window) (lo n : Nat) (none_ : Word) :
    State × Except (Cause × Word × Bool) (List (Nat × Byte)) :=
  match s.cpu.runsFor w lo n with
  | [] => (s, .error (.poison, none_, false))
  | rs =>
    let r := (s.touchRuns rs).sampleRuns (dieOf s.cur) true rs
    match r.2.find? (·.bad) with
    | some b => (r.1, .error (.poison, BitVec.ofNat 64 (b.va / 64 * 64), true))
    | none => (r.1, .ok (cellsIn lo n r.2))

/-- Every marked line settled. -/
def State.settleLines (s : State) (w : Window) : List Nat → Settled
  | [] => .ok s
  | l :: ls =>
    match s.rereadRange w (64 * l) 64 (BitVec.ofNat 64 (64 * l)) with
    | (s, .error e) => .escalate s e.1 e.2.1 e.2.2
    | (s, .ok cells) =>
      (s.modCpu fun c =>
        { c with plate := Memory.writeCells c.plate (cells.filter fun p => !c.guards.contains (p.1 / 256)),
                 marks := c.marks.filter (· ≠ l), wiped := c.wiped.filter fun a => lineOf a ≠ l }).settleLines w ls

/-- Every marked slot settled. -/
def State.settleSlots (s : State) (w : Window) (q : QEntry) : List (Fin 64) → Settled
  | [] => .ok s
  | k :: ks =>
    let lo := slotKey k.val
    let bad := (s.cpu.wslots[k].marks.map (· / 64)).eraseDups
    let one (a : State × Except (Cause × Word × Bool) (List (Nat × Byte))) (g : Nat) :
        State × Except (Cause × Word × Bool) (List (Nat × Byte)) :=
      match a.2 with
      | .error _ => a
      | .ok cs =>
        match a.1.rereadRange w (lo + 64 * g) 64 (Config.poisonAddr q.seq) with
        | (s, .error e) => (s, .error e)
        | (s, .ok more) => (s, .ok (cs ++ more))
    match bad.foldl one (s, .ok []) with
    | (s, .error e) => .escalate s e.1 e.2.1 e.2.2
    | (s, .ok cells) =>
      (s.modCpu fun c =>
        let x := c.wslots[k]
        let y : WeightSlot := { x with image := Memory.writeCells x.image (cells.map fun p => (p.1 - lo, p.2)), marks := [] }
        { c with wslots := c.wslots.set k y }).settleSlots w q ks

/-- The marked lines that the window's accumulator loads of some accumulators have read. -/
def Window.loadedLines (w : Window) (marks : NatSet) (as : List (Fin 4)) : List Nat :=
  (w.cmds.flatMap fun r =>
    match r.entry.instr with
    | .mldac m => if (accRes m).any fun a => as.any fun k => a = .acc k then linesOf (usesRanges r.entry [drainUse m 128]) else []
    | _ => []).filter marks.contains

/-- A tile step, MLDAC or MCLR. -/
def writesAcc (i : Instr) : Bool :=
  match i with
  | .mma _ | .mmas _ | .mmat _ | .mldac _ | .mclr _ => true
  | _ => false

/-- A recomputed accumulator value takes the place of the first execution's, in flight or landed. -/
def Core.replaceAcc (c : Core) (e : Eff) : Core :=
  match e with
  | .acc a seq v =>
    let put (f : Eff) : Eff := match f with | .acc b n _ => if b = a && n = seq then e else f | f => f
    { c with chainAcc := c.chainAcc.set a v,
             landings := c.landings.map fun l => if l.seq = seq then { l with effs := l.effs.map put } else l,
             acc := if c.accSeq[a] = seq && !(c.landings.any fun l => l.seq = seq) then c.acc.set a v else c.acc }
  | _ => c

/-- The window's tile steps and accumulator loads executed again, each with its own dispatch S-cycle (R163). -/
def State.reexecute (s : State) : List Retained → State
  | [] => s
  | r :: rs =>
    if !writesAcc r.entry.instr then s.reexecute rs
    else
      let x : Env := { s.env r.entry with sto := { s.stoSource with dsc := r.disp } }
      match dispatchOf r.entry.instr x s with
      | some d => (s.modCpu fun c => d.effs.foldl (fun c e => c.replaceAcc e) c).reexecute rs
      | none => s.reexecute rs

/-- A tile step reads a line that its window's loads have brought in and that has been written since: its window is unreplayable, as the worked
example of 20_reliability.md has it. DEDUCED (log entry 111). -/
def readsChanged (q : QEntry) (w : Window) (x : Env) : Bool :=
  match tileOperands q x with
  | some (_, us, _) => (linesOf (usesRanges q us)).any w.changed.contains
  | none => false

/-- The replay of a trigger's window. -/
def State.settle (s : State) (q : QEntry) : Settled :=
  match s.cpu.windowOf q.window with
  | none => .escalate s .unreplayable q.addr false
  | some w =>
    if !w.replayable || readsChanged q w (s.env q) then .escalate s .unreplayable q.addr false
    else
      let m := s.cpu.markedOperands q (s.env q)
      match s.settleLines w (m.1 ++ w.loadedLines s.cpu.marks m.2.2).eraseDups with
      | .escalate s k b p => .escalate s k b p
      | .ok s =>
        match s.settleSlots w q m.2.1 with
        | .escalate s k b p => .escalate s k b p
        | .ok s =>
          let s := s.modCpu fun c => w.saved.foldl (fun (c : Core) p => { c with chainAcc := c.chainAcc.set p.1 p.2.1 }) c
          let s := s.reexecute w.cmds
          if s.cpu.triggers q (s.env q) then .escalate s .poison (Config.poisonAddr q.seq) false else .ok s

/-- The end of a replay at the core in focus: thawed, or escalated at the next boundary between S-cycles (R121). -/
def State.replay (s : State) : State :=
  let s := s.modCpu fun c => { c with freeze := none }
  match s.cpu.headOf .mx with
  | none => s
  | some q =>
    match (s.countReplay s.cur q.addr.toNat).settle q with
    | .ok s => s
    | .escalate s k b p =>
      (s.countEscalation s.cur q.addr.toNat).pendTrap s.cur { cause := k, badaddr := b, eng := some .mx, addr := q.addr, slot := false, precise := p }

/-- REPLAY_REREAD_DONE (R219, R357): the granules of a load have been read again, or the window has been replayed. -/
def execReplayRereadDone (s : State) : Out :=
  match s.event with
  | .replayRereadDone c =>
    if (s.core c).freeze ≠ some .replay then .next s
    else
      .next (s.onCore c fun s =>
        if s.cpu.landings.any fun l => l.due ≤ s.cpu.sclk && rereads l.effs then
          let r := s.rereadLandings s.cpu.landings
          r.1.modCpu fun k => { k with landings := r.2, freeze := none }
        else
          match ([Engine.ld, .st].filterMap s.cpu.headOf).find? s.indexAbsent with
          | some q => (s.rereadIndex q).modCpu fun k => { k with freeze := none }
          | none => s.replay)
  | _ => .next s

end Sys2Proof.Machine
end

