-- ==== Sys2Proof/Machine/Walker.lean ====
section
/-! DEFINITION. The iteration walker (R9, R10, R16, R114, R318, R320): kernel records, the start of an iteration, the end of one at
HALT, and the end of a kernel. -/

namespace Sys2Proof.Machine

/-! ### The kernel record (R312) -/

/-- A loop level of the record: its number, its trip count, its KIND. -/
structure KLevel where
  lvl  : Nat
  trip : Nat
  kind : Nat
deriving DecidableEq, Repr

/-- The declared levels. -/
def levelsOf (record : List Byte) : List KLevel :=
  (List.range (bytesAt record 140 1)).map fun i =>
    { lvl := i, trip := bytesAt record (144 + 8 * i) 4, kind := bytesAt record (148 + 8 * i) 1 % 4 }

def Kernel.levels (k : Kernel) : List KLevel := levelsOf k.record

/-- The spatial levels in declared order (R318). -/
def Kernel.spatial (k : Kernel) : List KLevel := k.levels.filter (·.kind ≠ 0)

/-- The number of iterations. -/
def Kernel.total (k : Kernel) : Nat := (k.spatial.map (·.trip)).foldl (· * ·) 1

/-- Mixed-radix digits of n, the last fastest. -/
def digitsOf (n : Nat) : List Nat → List Nat
  | [] => []
  | _ :: rs => n / rs.foldl (· * ·) 1 :: digitsOf (n % rs.foldl (· * ·) 1) rs

/-- The spatial index of each level in iteration n. -/
def Kernel.indices (k : Kernel) (n : Nat) : List (KLevel × Nat) := k.spatial.zip (digitsOf n (k.spatial.map (·.trip)))

/-- The dies that hold cores of the placement, ascending. -/
def Kernel.dies (k : Kernel) : List DieId := diesOf k.cores

/-- The die that iteration n is dealt to where the kernel has DIES levels. -/
def Kernel.dealt (k : Kernel) (n : Nat) : Option DieId :=
  let ds := (k.indices n).filter fun p => p.1.kind = 2
  if ds.isEmpty then none
  else
    let lin := ds.foldl (fun a p => a * p.1.trip + p.2) 0
    k.dies[lin % k.dies.length]?

/-- The kernel of a KERNID. -/
def State.kernel (s : State) (kid : Nat) : Option Kernel := s.kernels.find? (·.kid = kid)

/-! ### Iteration start (R9, R16, R318) -/

/-- The X registers at the start of iteration n. -/
def Kernel.preload (k : Kernel) (n : Nat) : Vector Word 32 :=
  Vector.ofFn fun (r : Fin 32) =>
    let i := r.val
    if 17 ≤ i && i ≤ 22 then
      match k.levels[i - 17]? with
      | some l => if l.kind = 0 then BitVec.ofNat 64 l.trip else 0
      | none => 0
    else if i = 23 then k.argp
    else if 24 ≤ i && i ≤ 29 then
      match (k.indices n).find? fun p => p.1.lvl = i - 24 with
      | some p => BitVec.ofNat 64 p.2
      | none => 0
    else if i = 30 then BitVec.ofNat 64 n
    else 0

/-- Reservations of the EVQ that a core's reduction nodes hold (R338). -/
def Core.nodeReserved (c : Core) : Nat := (c.nodes.toList.map (·.reserved)).foldl (· + ·) 0

/-- The state of a core at the start of iteration n of a kernel (R9): what R9 marks as kept stays. -/
def Core.begin_ (c : Core) (k : Kernel) (n : Nat) (c1 c2 : Word) : Core :=
  let r := Core.reset
  { c with
    x := k.preload n, tx := r.tx, vw := Vector.ofFn fun (i : Fin 32) => k.views.getD i.val 0,
    shp := BitVec.ofNat 14 (k.field 126 2), masks := r.masks, perms := r.perms, acc := r.acc, accSeq := r.accSeq,
    chainAcc := r.chainAcc, wslots := r.wslots, ring := r.ring, ringPush := 0, tokens := r.tokens,
    streams := Vector.ofFn fun (i : Fin 32) => (k.binds.getD i.val none), evq := [], evqPend := c.nodeReserved,
    lc := r.lc, lb := r.lb, le := r.le, fc := r.fc, order := [], ft := r.ft, ftlvl := 0,
    mode := BitVec.ofNat 64 (k.field 128 2), utvec := BitVec.ofNat 64 (k.field 48 8), seg := Segment.none, tstatus := 0,
    unmapped := [], held := [], chain := ⟨BitVec.ofNat 64 (k.field 0 8), c1, c2, false, false, false, false, false, false⟩, activity := .running,
    sOpen := false, issued := false, draining := none, rttWait := false, traps := [], skipBreak := false, loopDeferred := none, iter := n,
    x30Start := BitVec.ofNat 64 n, haltedAt := none, seqNo := 0, queues := r.queues, engFree := r.engFree, burinFree := 0,
    divFree := 0, landings := [], globals := [], homeOps := [], copies := [], bankReads := [], ahead := [], posted := [], hReady := [], hSlots := [],
    hDivFree := 0, hLater := [], window := Window.fresh (c.window.number + 1), oldWindows := [] }

/-- The gang start of a die (R316). -/
def Kernel.gangStart (k : Kernel) (d : DieId) : Nat := ((k.gang.find? (·.1 = d)).map (·.2)).getD 0

/-- Iteration n starts on a core: it issues its first instruction at a die cycle, SCLK counting the die cycles since the HALT, or since
the die's gang start (R9, R38). -/
def State.startOn (s : State) (k : Kernel) (n : Nat) (c : CoreId) (at_ : Nat) : State :=
  let code : Word := BitVec.ofNat 64 (k.field 0 8)
  let waited := at_ - ((s.core c).haltedAt.getD (k.gangStart (dieOf c)))
  let len (s : State) (a : Word) : Word := a + BitVec.ofNat 64 (4 * s.lengthAt c a)
  let s := s.modCore c fun x => { x.begin_ k n 0 0 with sclk := x.sclk + waited, freeze := some (.untilCycle at_) }
  let c1 := len s code
  let c2 := len s c1
  s.modCore c fun x => { x with chain := { x.chain with c1 := c1, c2 := c2 } }

/-- The core that the next iteration goes to: the lowest-numbered one of the placement, on the dealt die, with no iteration. -/
def State.nextCore (s : State) (k : Kernel) : Option CoreId :=
  let d := k.dealt k.nextIter
  k.cores.find? fun c => (s.core c).activity = .idle && (match d with | some d => dieOf c = d | none => true)

/-- A core still waits for the gang start of its die. -/
def State.gangFirst (s : State) (k : Kernel) (c : CoreId) : Bool := (s.core c).haltedAt.isNone && s.now c ≤ k.gangStart (dieOf c)

/-- The die cycle of a core's die at which an iteration handed to it now issues: its die's gang start, or else 16 die cycles after the
HALT (R318). DEDUCED (log entry 80): gang starts stand where R316 puts them. -/
def State.startCycle (s : State) (k : Kernel) (c : CoreId) : Nat :=
  if s.gangFirst k c then k.gangStart (dieOf c) else max (((s.core c).haltedAt.map (· + 16)).getD 0) (s.now c)

/-- ITERATION_START (R318, R319): once the iterations before it have started, the next one goes to the lowest-numbered core that has none, in
enumeration order. -/
def execIterationStart (s : State) : Out :=
  match s.event with
  | .iterationStart kid =>
    match s.kernel kid with
    | none => .next s
    | some k =>
      if !k.started || k.fault.isSome || k.preempt.isSome || k.saved.isSome || k.total ≤ k.nextIter then .next s
      else
        match s.nextCore k with
        | none => .next s
        | some c =>
          if !s.gangFirst k c && s.now c < k.lastStart then .next (s.schedule (k.lastStart - s.now c) s.event)
          else
          let at_ := s.startCycle k c
          let s := s.startOn k k.nextIter c at_
          .next ((s.modKernel kid fun k =>
            { k with nextIter := k.nextIter + 1, lastStart := max k.lastStart at_ }).schedule 0 (.iterationStart kid))
  | _ => .next s

/-! ### HALT completes (R10, R114) -/

/-- All five queues are empty, nothing is in flight and every copy has written its record. -/
def Core.haltReady (c : Core) : Bool :=
  c.queues.toList.all List.isEmpty && c.landings.isEmpty && c.globals.isEmpty && c.homeOps.isEmpty && c.copies.isEmpty

/-- HALT_COMPLETE: a touch not yet reported is reported first and the HALT will issue again; otherwise the iteration has ended, its
records and tokens are discarded, and the walker goes on. -/
def execHaltComplete (s : State) : Out :=
  let c := s.cpu
  if c.draining ≠ some .halt || !c.haltReady then .next s
  else
    match c.guardReport with
    | some t =>
      let s := s.modCpu fun c => { c with draining := none, issued := false }
      let s := if s.cpu.sOpen then s.endCycle else s
      .next (s.takeTrap s.cur { t with slot := false })
    | none =>
      let kid := c.kernid.toNat
      let s := s.modCpu fun c =>
        { c with activity := .idle, draining := none, evq := [], posted := [], tokens := Vector.replicate 10 0, seg := Segment.none,
                 lc := Vector.replicate 4 0, order := [], sOpen := false, issued := false, haltedAt := some (s.now s.cur) }
      let s := s.modKernel kid fun k => { k with done := k.done + 1 }
      .next ({ s with curDone := true }.schedule 0 (.iterationStart kid) |>.schedule 0 (.kernelEnd kid) |>.schedule 0 (.preemptSave kid))

/-! ### The end of a kernel (R259, R275, R276, R287, R320, R338) -/

/-- The cores that a kernel has (a staged one has not got its cores yet). -/
def State.coresOf (s : State) (k : Kernel) : List CoreId := k.cores.filter fun c => (s.core c).kernid.toNat = k.kid

/-- No core of a kernel runs an iteration. DESIGN CHOICE (log entry 114): one that stands at a pre-emption point counts as stopped, also where the
kernel has been marked faulted since. -/
def State.allStopped (s : State) (k : Kernel) : Bool := (s.coresOf k).all fun c => (s.core c).activity ≠ .running

/-- The kernel ends: every iteration has completed its HALT, or it is faulted and every core has stopped. -/
def State.kernelOver (s : State) (k : Kernel) : Bool :=
  (k.started || k.fault.isSome) && s.allStopped k && (k.fault.isSome || (k.done = k.total && k.saved.isNone))

/-- Operations of a kernel are still to be serviced at their homes, or copies and stores that its cores have issued run on. DEDUCED (log entry
83): the kernel ends after both (R288, R321). -/
def State.unserviced (s : State) (k : Kernel) : Bool :=
  s.signalsOut k s.time || (s.coresOf k).any fun c => !(s.core c).copies.isEmpty || !(s.core c).globals.isEmpty

/-- A kernel's holdings in a pool are released: open slots become free unpublished, pins are dropped. -/
def PoolUnit.dropKernel (p : PoolUnit) (kid : Nat) : PoolUnit :=
  let hs := p.holders.filter (·.kid = kid)
  let p := hs.foldl (fun p h => p.unpin h.kid h.rank) p
  hs.foldl (fun p h =>
    match h.open_ with
    | some n => ({ p with opens := p.opens - 1 }.modSlot n fun x => { x with isOpen := false }).setHolder ⟨h.kid, h.rank, none, none⟩
    | none => p) p

/-- A core after the end of a kernel: its pools, rings and nodes, and its holdings in tenant pools, are gone. -/
def Core.forget (c : Core) (kid : Nat) : Core :=
  { c with
    pools := c.pools.map fun p => p.bind fun u => if u.kid = some kid then none else some (u.dropKernel kid),
    rings := c.rings.map fun r => r.filter fun u => u.kid ≠ kid,
    nodes := c.nodes.map fun n => if n.kid = kid then RedNode.idle else n }

/-- A placement core released. -/
def Core.leaveKernel (c : Core) : Core :=
  { c with activity := .idle, guards := [], guardst := 0, copies := [], posted := [], ahead := [], evqPend := 0, freeze := none, draining := none, rttWait := false, traps := [],
           sOpen := false, tstatus := 0, haltedAt := none, kernid := 0, groupid := 0 }

/-- The completion-log entry of a kernel that ends (R320). -/
def State.endEntry (s : State) (k : Kernel) : LogEntry :=
  let guards : List (BitVec 30) := match k.saved with
    | some ctx => ctx.map (·.guardst)
    | none => if k.started then k.cores.map fun c => (s.core c).guardst else []
  let g := (guards.map (·.toNat)).find? fun v => v / 2 ^ 28 % 2 = 1
  let d := s.now ((k.cores.head?).getD 0)
  let base := { LogEntry.plain k.act.node 0 0 with
    kid := k.kid, iters := k.done, preads := k.preads, guard := g.getD 0, dcycles := if k.started then d - k.startAt else 0 }
  match k.fault with
  | none => base
  | some f => if f.host then { base with status := 3 }
    else { base with status := 1, code := f.code, rank := f.rank, badaddr := f.badaddr.toNat, xpc := f.xpc.toNat }

/-- The successors of a node that has ended (R306, R307): NEXT and ALT, or ERR. -/
def State.successors (s : State) (a : Activation) (ok : Bool) : State :=
  match s.nodeBytes a.tenant a.gbase a.node with
  | none => s
  | some bs =>
    let go (s : State) (n : Nat) : State := if n = noNode then s else s.accept a.tenant n a.gbase a.gcount none 0 a.known
    if ok then go (go s (bytesAt bs 4 4)) (bytesAt bs 8 4) else go s (bytesAt bs 12 4)

/-- The kernels of a tenant that wait to be placed are looked at again, and then those that have been saved. -/
def State.wakeTenant (s : State) (t : TenantId) : State :=
  let s := (s.kernels.filter fun w => w.tenant = t && !w.started).foldl (fun s w => s.schedule 0 (.kernelPlacement w.kid)) s
  (s.kernels.filter fun w => w.tenant = t && w.saved.isSome).foldl (fun s w => s.schedule 1 (.resumption w.kid)) s

/-- A module that is closing shuts down once no kernel runs (R376): the life records are written. -/
def State.shutIfIdle (s : State) : State :=
  if s.hub.phase = .ready && s.hub.closing && s.kernels.all fun k => !k.started || k.saved.isSome then
    { s with hub := { s.hub with phase := .shutdown } }.schedule 0 .lifeRecordUpdate
  else s

/-- What the cores of a kernel release at its end (R308). -/
def State.endReleases (s : State) : List CoreId → State × List (List (CoreId × Nat))
  | [] => (s, [])
  | c :: cs =>
    let a := s.endRelease c
    let b := a.1.endReleases cs
    (b.1, a.2 :: b.2)

/-- KERNEL_END (R288, R320): a kernel marked faulted has its rings broken and its semaphores flagged once the operations issued by then
have been serviced. Once the kernel is over and all its operations have been serviced, cores, pools, rings, nodes and guard marks are
released, the log entry is written, and the node's successors, or its error successor, follow; successors that the kernel staged and
activations that wait may be placed. -/
def execKernelEnd (s : State) : Out :=
  match s.event with
  | .kernelEnd kid =>
    match s.kernel kid with
    | none => .next s
    | some k =>
      if k.fault.any (fun f => !k.broken && s.signalsOut k f.marked) then .next (s.schedule 1 s.event)
      else if k.fault.isSome && !k.broken then .next ((s.breakKernel k).schedule 0 s.event)
      else if !s.kernelOver k then .next s
      else if s.unserviced k then .next (s.schedule 1 s.event)
      else
        let e := s.endEntry k
        let r := s.endReleases (s.coresOf k)
        let act := { k.act with known := r.2.foldl mergeKnown k.act.known }
        let s := (s.coresOf k).foldl (fun s c => s.modCore c Core.leaveKernel) r.1
        let s := (List.finRange 128).foldl (fun s c => s.modCore c fun x => x.forget kid) s
        let s := { s with kernels := s.kernels.filter (·.kid ≠ kid) }
        let s := (s.logEntry k.tenant e).successors act k.fault.isNone
        .next ((s.wakeTenant k.tenant).shutIfIdle)
  | _ => .next s

end Sys2Proof.Machine
end

