-- ==== Sys2Proof/Machine/Launch.lean ====
section
/-! DEFINITION. KERN nodes (R305–R317): the check of a kernel record, pools and rings, placement and gang start, staging. -/

namespace Sys2Proof.Machine

/-! ### Nodes -/

/-- A node in error (R307): an entry of STATUS 4, and the error successor. -/
def State.nodeError (s : State) (a : Activation) (code : Nat) : State :=
  (s.logEntry a.tenant (LogEntry.plain a.node 4 code)).successors a false

/-- Bytes of a string from `lo` to the end are zero. -/
def zeroFrom (bs : List Byte) (lo n : Nat) : Bool := bytesAt bs lo n = 0

/-- What every node must have (R306): the reserved bits of its header zero. -/
def headerOk (bs : List Byte) : Bool := bytesAt bs 0 1 / 16 = 0 && zeroFrom bs 1 3

/-- An address field within 48 bits. -/
def vaField (bs : List Byte) (off : Nat) : Bool := bytesAt bs off 8 < 2 ^ 48

/-! ### The checks of a launch (R313) -/

/-- Every page of a byte range is mapped in a tenant's context. -/
def State.rangeMapped (s : State) (t : TenantId) (va n : Nat) : Bool :=
  (rangePieces va n).all fun p => (s.walk (Fin.ofNat 9 t.val) p.1).isSome

/-- Every page of a byte range has the target type of PLACE and the rights R and W (R272, R282). -/
def State.placeMapped (s : State) (t : TenantId) (place va n : Nat) : Bool :=
  (rangePieces va n).all fun p =>
    match s.walk (Fin.ofNat 9 t.val) p.1 with
    | some l => pteType l.pte = place - 1 && l.allows .read && l.allows .write
    | none => false

/-- Bytes of a table in a tenant's context; empty where a page is not readable. -/
def State.tableOf (s : State) (t : TenantId) (va n : Nat) : List Byte :=
  if n = 0 then [] else ((s.readVa t va n).map (·.1)).getD []

/-- CONTRACT is "W5A". -/
def contractW5A (r : List Byte) : Bool := (r.drop 96).take 8 = [0x57#8, 0x35#8, 0x41#8, 0#8, 0#8, 0#8, 0#8, 0#8]

/-- CONTRACT is "any". -/
def contractAny (r : List Byte) : Bool := (r.drop 96).take 8 = [0x61#8, 0x6E#8, 0x79#8, 0#8, 0#8, 0#8, 0#8, 0#8]

/-- Code 1: contract or MODE (R80). -/
def contractBad (r : List Byte) : Bool := !(contractW5A r || (contractAny r && bytesAt r 128 1 % 2 = 0))

/-- The loop levels are in range. -/
def levelsBad (r : List Byte) : Bool :=
  let n := bytesAt r 140 1
  n < 1 || 6 < n ||
  (List.range 6).any fun i =>
    if i < n then bytesAt r (144 + 8 * i) 4 = 0 || 2 < bytesAt r (148 + 8 * i) 4 else bytesAt r (144 + 8 * i) 8 ≠ 0

/-- The tables that a record points to, as address and length. DESIGN CHOICE (log entry 120): PIMG, GUARD or PROOF of 0 beside a length that is
not 0 names the table at address 0. -/
def recordTables (r : List Byte) : List (Nat × Nat) :=
  let p (off : Nat) : Nat := bytesAt r off 8
  [(p 0, 4), (p 8, bytesAt r 104 4), (p 16, 4 * bytesAt r 108 4), (p 24, if bytesAt r 112 4 = 0 then 0 else 512),
   (p 32, 16 * bytesAt r 124 2), (p 40, if p 40 = 0 then 0 else 4), (p 48, if p 48 = 0 then 0 else 4), (p 56, 32 * bytesAt r 130 1),
   (p 64, 32 * bytesAt r 131 1), (p 72, if bytesAt r 116 4 = 0 then 0 else 256), (p 192, 16 * bytesAt r 200 4)]

/-- Code 2: a field out of range, a reserved bit set, a pointer unmapped. -/
def State.recordBad (s : State) (t : TenantId) (r : List Byte) : Bool :=
  let b (off : Nat) : Nat := bytesAt r off 1
  let pointers := [0, 8, 16, 24, 32, 40, 48, 56, 64, 72, 192]
  pointers.any (fun o => 2 ^ 48 ≤ bytesAt r o 8) || 2 ^ 14 ≤ bytesAt r 126 2 || bytesAt r 128 2 / 2 ^ 9 ≠ 0 ||
  b 128 / 32 ≠ 0 || 32 < b 130 || 32 < b 131 || b 132 = 0 || 128 < b 132 || b 133 = 0 || 16 ≤ b 133 || 8 ≤ b 134 || 4 ≤ b 135 ||
  [136, 137, 138, 139].any (fun o => 64 < b o) || levelsBad r || bytesAt r 141 3 ≠ 0 || bytesAt r 204 52 ≠ 0 ||
  (recordTables r).any fun p => p.2 ≠ 0 && !s.rangeMapped t p.1 p.2

/-- The stream records that a record binds: none in place of an invalid one (R215, R312). -/
def State.bindsOf (s : State) (t : TenantId) (r : List Byte) : List (Option (Option StreamBinding)) :=
  let tab := s.tableOf t (bytesAt r 72 8) 256
  (List.range 32).map fun k =>
    if bytesAt r 116 4 / 2 ^ k % 2 = 0 then some none
    else
      match s.readVa t (bytesAt tab (8 * k) 8) 64 with
      | some (bs, false) =>
        let v : BitVec 512 := BitVec.ofNat 512 (bytesNat bs)
        if streamValid v then some (some (bindRecord v)) else none
      | _ => none

/-- The initial views (R312). -/
def State.viewsOf (s : State) (t : TenantId) (r : List Byte) : List (BitVec 128) :=
  let tab := s.tableOf t (bytesAt r 24 8) 512
  (List.range 32).map fun j =>
    if bytesAt r 112 4 / 2 ^ j % 2 = 1 then BitVec.ofNat 128 (bytesAt tab (16 * j) 16) else 0

/-- Entries of 32 bytes of a declaration table. -/
def State.declsOf (s : State) (t : TenantId) (va n : Nat) : List (List Byte) :=
  let tab := s.tableOf t va (32 * n)
  (List.range n).map fun i => (tab.drop (32 * i)).take 32

/-- An entry that the kernel does not use. -/
def unusedDecl (d : List Byte) : Bool := bytesNat d = 0

/-- A tenant pool of a number (R275). -/
def State.tenantPool (s : State) (t : TenantId) (n : Nat) : Bool :=
  n < 1024 &&
  match (s.core (Fin.ofNat 128 (n / 8))).pools[Fin.ofNat 8 n] with
  | some u => u.kid.isNone && u.tenant = t
  | none => false

/-- SHARED of a pool declaration. -/
def declShared (d : List Byte) : Bool := bytesAt d 19 1 / 128 = 1

/-- Where the slots or buffers of a declaration lie is valid. -/
def State.declPlace (s : State) (t : TenantId) (d : List Byte) (count : Nat) : Bool :=
  let base := bytesAt d 0 8
  let stride := bytesAt d 12 4
  let place := bytesAt d 19 1 % 4
  base < 2 ^ 48 && base % 256 = 0 && bytesAt d 8 4 ≤ 67108864 && 1 ≤ bytesAt d 8 4 && stride % 256 = 0 && bytesAt d 8 4 ≤ stride &&
  stride < 2 ^ 28 && place ≠ 3 &&
  if place = 0 then base + count * stride ≤ trapWindow else s.placeMapped t place base (count * stride)

/-- A private pool declaration apart from its home (R272). -/
def State.privatePoolOk (s : State) (t : TenantId) (d : List Byte) : Bool :=
  let n := bytesAt d 16 1
  let r := bytesAt d 17 1
  let w := bytesAt d 18 1
  2 ≤ n && n ≤ 64 && 1 ≤ r && r ≤ 62 && 1 ≤ w && w ≤ 62 && r + w + 1 ≤ n && bytesAt d 19 1 < 4 && bytesAt d 22 10 = 0 &&
  s.declPlace t d n

/-- A pool declaration is valid (R272, R275). -/
def State.poolDeclOk (s : State) (t : TenantId) (cores : Nat) (d : List Byte) : Bool :=
  if unusedDecl d then true
  else if declShared d then
    bytesAt d 0 19 = 0 && bytesAt d 19 1 = 128 && bytesAt d 22 10 = 0 && s.tenantPool t (bytesAt d 20 2)
  else s.privatePoolOk t d && bytesAt d 20 2 < 128 && bytesAt d 20 2 < cores

/-- A ring declaration is valid (R282). -/
def State.ringDeclOk (s : State) (t : TenantId) (cores : Nat) (d : List Byte) : Bool :=
  let n := bytesAt d 16 1
  unusedDecl d ||
  (2 ≤ n && n ≤ 64 && bytesAt d 17 1 ≠ bytesAt d 18 1 && bytesAt d 17 1 < cores && bytesAt d 18 1 < cores && bytesAt d 19 1 < 4 &&
   bytesAt d 20 12 = 0 && s.declPlace t d n)

/-- The records of a Plate image: offset and bytes (R79). -/
def plateRecords : (fuel : Nat) → List Byte → List (Nat × List Byte)
  | 0, _ => []
  | f + 1, bs =>
    if bs.length < 8 then []
    else
      let n := bytesAt bs 4 4
      (bytesAt bs 0 4, (bs.drop 8).take n) :: plateRecords f (bs.drop (8 + (n + 3) / 4 * 4))

/-- The Plate image of a record. -/
def State.plateImage (s : State) (t : TenantId) (r : List Byte) : List (Nat × List Byte) :=
  let bs := s.tableOf t (bytesAt r 8 8) (if bytesAt r 8 8 = 0 then 0 else bytesAt r 104 4)
  plateRecords (bs.length / 8 + 1) bs

/-- The guard granules of a record. -/
def State.guardList (s : State) (t : TenantId) (r : List Byte) : List Nat :=
  let n := if bytesAt r 16 8 = 0 then 0 else bytesAt r 108 4
  let bs := s.tableOf t (bytesAt r 16 8) (4 * n)
  (List.range n).map fun i => bytesAt bs (4 * i) 4

/-- Code 6: the Plate image or the guard list reaches the trap window. -/
def State.imageBad (s : State) (t : TenantId) (r : List Byte) : Bool :=
  (s.plateImage t r).any (fun p => trapWindow < p.1 + p.2.length) || (s.guardList t r).any fun g => trapWindow < g + 256

/-- The allowed dies of a record, ascending. -/
def allowedDies (r : List Byte) : List DieId := (List.finRange 4).filter fun d => bytesAt r 133 1 / 2 ^ d.val % 2 = 1

/-- The cores that a placement takes from each allowed die (R316). -/
def quotas (r : List Byte) : List (DieId × Nat) :=
  let ds := allowedDies r
  let n := bytesAt r 132 1
  ds.zipIdx.map fun d => (d.1, n / ds.length + if d.2 < n % ds.length then 1 else 0)

/-- The lowest-numbered cores of some dies that a test admits, as many as each is to give; none where some die has too few. -/
def placementOn (quota : List (DieId × Nat)) (ok : CoreId → Bool) : Option (List CoreId) :=
  let per := quota.map fun q =>
    (q.2, (((List.range 32).map fun l => coreAt q.1 l).filter ok).take q.2)
  if per.all fun p => p.2.length = p.1 then some (per.flatMap (·.2)) else none

/-- The lowest-numbered cores of each allowed die that a test admits; none where some die has too few (R316). -/
def placementOf (r : List Byte) (ok : CoreId → Bool) : Option (List CoreId) := placementOn (quotas r) ok

/-- The placements on some dies, ascending, that give on the k-th of them what a record takes from its k-th allowed die (R324). -/
def placementsLike (r : List Byte) (ok : CoreId → Bool) : List (List CoreId) :=
  let counts := (quotas r).map (·.2)
  let dies (m : Nat) : List DieId := (List.finRange 4).filter fun d => m / 2 ^ d.val % 2 = 1
  (List.range 16).filterMap fun m => if (dies m).length = counts.length then placementOn ((dies m).zip counts) ok else none

/-- A core of a tenant (R314). -/
def State.owns (s : State) (t : TenantId) (c : CoreId) : Bool := s.ownerOf c = some t

/-- A free core of a tenant (R315), the cores of kernel `but` counted as free. -/
def State.freeCore (s : State) (t : TenantId) (but : Option Nat) (c : CoreId) : Bool :=
  s.owns t c && !(s.kernels.any fun k => some k.kid ≠ but && k.cores.contains c)

/-- The entries of a slot table that a tenant owns. -/
def ownedSlots (t : TenantId) (tab : Vector Byte 64) : Nat :=
  (tab.toList.filter fun b => bitOf b 7 && bitsOf b 0 3 = t.val).length

/-- The least of some counts; 64 of none. -/
def leastOf (ns : List Nat) : Nat := ns.foldl min 64

/-- Code 8: the tenant's share of some class of port is below the record's, on the dies of a placement (R317). DESIGN CHOICE (log entry 106): a
die's weight-store ports are 56 and 57. -/
def State.shareBad (s : State) (t : TenantId) (r : List Byte) (ds : List DieId) : Bool :=
  let tab (d : DieId) (p : Port) : Nat := ownedSlots t (s.die d).outs[p].slots
  let hbm := leastOf (ds.flatMap fun d => (List.range 16).map fun k => tab d (Fin.ofNat 64 (32 + k)))
  let ws := leastOf (ds.flatMap fun d => [tab d 56, tab d 57])
  let cxl := leastOf (s.hub.cxlSlots.toList.map (ownedSlots t))
  let bir := leastOf ((List.finRange 4).flatMap fun d => (List.range 4).map fun k => tab d (Fin.ofNat 64 (52 + k)))
  hbm < bytesAt r 136 1 || ws < bytesAt r 137 1 || cxl < bytesAt r 138 1 || bir < bytesAt r 139 1

/-- The tenant pools homed at a core. -/
def Core.tenantPools (c : Core) : Nat := (c.pools.toList.filter fun p => p.any fun u => u.kid.isNone).length

/-- Code 9: a home core would home more than eight pools or eight rings, on the given cores. What other kernels home there is gone by
the time these cores are free. -/
def State.homesBad (s : State) (cores : List CoreId) (pools rings : List (List Byte)) : Bool :=
  let used := pools.filter fun d => !unusedDecl d && !declShared d
  let rings := rings.filter fun d => !unusedDecl d
  cores.zipIdx.any fun c =>
    8 < (s.core c.1).tenantPools + (used.filter fun d => bytesAt d 20 2 = c.2).length ||
    8 < (rings.filter fun d => bytesAt d 18 1 = c.2).length

/-- Addresses in strictly ascending order. -/
def ascending : List Nat → Bool
  | a :: b :: rest => a < b && ascending (b :: rest)
  | _ => true

/-- ADDR of each entry of the pre-emption table (R81). -/
def State.preemptPoints (s : State) (t : TenantId) (r : List Byte) : List Nat :=
  let n := bytesAt r 124 2
  let bs := s.tableOf t (bytesAt r 32 8) (16 * n)
  (List.range n).map fun i => bytesAt bs (16 * i) 6

/-- Code 11: the pre-emption table is unsorted or has duplicates, or PBOUND is above 50,000. -/
def State.preemptBad (s : State) (t : TenantId) (r : List Byte) : Bool :=
  !ascending (s.preemptPoints t r) || 50000 < bytesAt r 120 4

/-- The pool and ring declarations of a record. -/
def State.poolDecls (s : State) (t : TenantId) (r : List Byte) : List (List Byte) := s.declsOf t (bytesAt r 56 8) (bytesAt r 130 1)
def State.ringDecls (s : State) (t : TenantId) (r : List Byte) : List (List Byte) := s.declsOf t (bytesAt r 64 8) (bytesAt r 131 1)

/-- The placement that a launch would receive now: of free cores, those of its launcher counted as free where it is staged; where the
cores are busy, of the tenant's own (R311, R316). -/
def State.candidate (s : State) (t : TenantId) (r : List Byte) (staged : Option Nat) : Option (List CoreId) :=
  (placementOf r (s.freeCore t staged)).or (placementOf r (s.owns t))

/-- The first check of R313 that a record fails, in ascending order of the codes. -/
def State.refusal (s : State) (t : TenantId) (r : List Byte) (staged : Option Nat) : Option Nat :=
  let n := bytesAt r 132 1
  let pools := s.poolDecls t r
  let rings := s.ringDecls t r
  if contractBad r then some 1
  else if s.recordBad t r then some 2
  else if (s.bindsOf t r).any Option.isNone then some 3
  else if pools.any fun d => !s.poolDeclOk t n d then some 4
  else if rings.any fun d => !s.ringDeclOk t n d then some 5
  else if s.imageBad t r then some 6
  else
    match s.candidate t r staged with
    | none => some 7
    | some cs =>
      if s.shareBad t r (diesOf cs) then some 8
      else if s.homesBad cs pools rings then some 9
      else if bytesAt r 134 1 ≠ t.val then some 10
      else if s.preemptBad t r then some 11
      else none

/-! ### Pools and rings of a kernel (R275, R287) -/

/-- A pool as its home creates it. -/
def poolOfDecl (kid : Option Nat) (t : TenantId) (d : List Byte) : PoolUnit :=
  let n := bytesAt d 16 1
  { kid, tenant := t, base := bytesAt d 0 8, size := bytesAt d 8 4, stride := bytesAt d 12 4, s := n, r := bytesAt d 17 1,
    w := bytesAt d 18 1, place := bytesAt d 19 1 % 4, seq := 0, fresh := 0x7F, opens := 0, pins := 0,
    slots := List.replicate n { isOpen := false, pinc := 0, seq := 0, stamp := 0 }, holders := [] }

/-- A ring as its home creates it. -/
def ringOfDecl (kid entry : Nat) (d : List Byte) : RingUnit :=
  let n := bytesAt d 16 1
  { kid, entry, base := bytesAt d 0 8, size := bytesAt d 8 4, stride := bytesAt d 12 4, n, prod := bytesAt d 17 1,
    cons := bytesAt d 18 1, place := bytesAt d 19 1 % 4, bufs := List.replicate n .free, nextAcq := 0, nextPub := 0, nextTake := 0,
    nextFree := 0, taken := 0, cond := .open_, err := false, eos := none, eosTaken := false, waitProd := [], waitCons := [] }

/-- The first unit that is free. -/
def freeUnit {α : Type} (v : Vector (Option α) 8) : Fin 8 := Fin.ofNat 8 (v.toList.findIdx Option.isNone)

/-- The pools of a kernel created on its cores. -/
def State.makePools (s : State) (kid : Nat) (t : TenantId) (cores : List CoreId) : List (List Byte) → State × List (Option PoolRef)
  | [] => (s, [])
  | d :: ds =>
    if unusedDecl d then let r := s.makePools kid t cores ds; (r.1, none :: r.2)
    else if declShared d then
      let n := bytesAt d 20 2
      let r := s.makePools kid t cores ds
      (r.1, some { tenantPool := true, home := n / 8, unit := Fin.ofNat 8 n } :: r.2)
    else
      let rank := bytesAt d 20 2
      let c := cores.getD rank 0
      let u := freeUnit (s.core c).pools
      let r := ((s.modCore c fun k => { k with pools := k.pools.set u (some (poolOfDecl (some kid) t d)) }).overwritten (.pool c u)).makePools
        kid t cores ds
      (r.1, some { tenantPool := false, home := rank, unit := u } :: r.2)

/-- The rings of a kernel created on its cores, entry by entry. -/
def State.makeRings (s : State) (kid : Nat) (cores : List CoreId) : Nat → List (List Byte) → State × List (Option RingRef)
  | _, [] => (s, [])
  | i, d :: ds =>
    if unusedDecl d then let r := s.makeRings kid cores (i + 1) ds; (r.1, none :: r.2)
    else
      let c := cores.getD (bytesAt d 18 1) 0
      let u := freeUnit (s.core c).rings
      let r := ((s.modCore c fun k => { k with rings := k.rings.set u (some (ringOfDecl kid i d)) }).overwritten (.ring c u)).makeRings
        kid cores (i + 1) ds
      (r.1, some { prod := bytesAt d 17 1, cons := bytesAt d 18 1, unit := u } :: r.2)

/-! ### KERN nodes (R307, R313) -/

/-- A KERN node breaks R306 or R307. -/
def kernMalformed (bs : List Byte) : Bool :=
  !headerOk bs || !vaField bs 16 || bytesAt bs 16 8 % 64 ≠ 0 || bytesAt bs 32 32 ≠ 0

/-- A kernel instance that waits to be placed. -/
def State.instance_ (s : State) (a : Activation) (r : List Byte) (argp : Nat) : Kernel :=
  { kid := s.nextKid, group := 0, tenant := a.tenant, act := a, record := r, argp := BitVec.ofNat 64 argp,
    views := s.viewsOf a.tenant r, binds := (s.bindsOf a.tenant r).map fun b => b.getD none, pools := [], rings := [], cores := [],
    nextIter := 0, done := 0, gang := [], started := false, startAt := 0, lastStart := 0, staged := none, stagedReady := false, fault := none, broken := false,
    preads := 0, preempt := none, saved := none }

/-- A launch that passed every check: an instance, staged beside its launcher where LAUNCHS finds it a placement (R311), else waiting
to be placed. -/
def State.launch (s : State) (a : Activation) (r : List Byte) (argp : Nat) : State :=
  let k := s.instance_ a r argp
  let cores := a.staged.bind fun l =>
    if (s.kernel l).isSome then placementOf r (s.freeCore a.tenant (some l)) else none
  let s := { s with nextKid := if s.nextKid = 0xFFFFFFFF then 1 else s.nextKid + 1 }
  match cores with
  | some cs =>
    let t := { s with kernels := s.kernels ++ [{ k with cores := cs, staged := a.staged }] }
    t.chosen.schedule (1 + t.choice) (.stagingComplete k.kid)
  | none => ({ s with kernels := s.kernels ++ [k] }).schedule 0 (.kernelPlacement k.kid)

/-- KERN_NODE (R313): the record is checked, and an instance is launched or the launch refused. -/
def execKernNode (s : State) : Out :=
  match s.event with
  | .kernNode a =>
    let s := s.takeActivation a
    match s.nodeBytes a.tenant a.gbase a.node with
    | none => .next (s.nodeError a 1)
    | some bs =>
      if kernMalformed bs then .next (s.nodeError a 1)
      else
        let refuse (code : Nat) : State := (s.logEntry a.tenant (LogEntry.plain a.node 2 code)).successors a false
        match s.readVa a.tenant (bytesAt bs 16 8) 256 with
        | none => .next (refuse 2)
        | some (r, _) =>
          match s.refusal a.tenant r a.staged with
          | some code => .next (refuse code)
          | none => .next (s.launch a r (if bytesAt bs 24 8 = 0 then bytesAt r 80 8 else bytesAt bs 24 8))
  | _ => .next s

/-! ### Placement (R33, R259, R316) -/

/-- A group number that no placement has. -/
def State.freeGroup (s : State) : Nat :=
  ((List.range (s.kernels.length + 1)).find? fun g => s.kernels.all fun k => k.cores.isEmpty && k.saved.isNone || k.group ≠ g).getD 0

/-- PRIO of a kernel. -/
def Kernel.prio (k : Kernel) : Nat := k.field 135 1

/-- Kernel `a` is placed before kernel `b` (R309). -/
def Kernel.ahead (a b : Kernel) : Bool := b.prio < a.prio || (a.prio = b.prio && a.act.order < b.act.order)

/-- A kernel that waits for cores. -/
def Kernel.waits (k : Kernel) : Bool := !k.started && k.staged.isNone && k.fault.isNone

/-- No kernel of the tenant that waits stands before this one. -/
def State.firstWaiting (s : State) (k : Kernel) : Bool := !(s.kernels.any fun w => w.tenant = k.tenant && w.waits && w.ahead k)

/-- A WSTORE of the tenant is under way on a die (R262). -/
def State.wstoreOn (s : State) (t : TenantId) (d : DieId) : Bool := s.copyNodes.any fun h => h.act.tenant = t && h.dies.contains d

/-- A kernel cannot start on some cores yet: the module is shutting down, a WSTORE is under way on a die of theirs, or a core
would home too many pools (R262, R313, R376; log entry 81). -/
def State.startBarred (s : State) (k : Kernel) (cores : List CoreId) : Bool :=
  s.hub.closing || (diesOf cores).any (s.wstoreOn k.tenant) ||
    s.homesBad cores (s.poolDecls k.tenant k.record) (s.ringDecls k.tenant k.record)

/-- A placement core at kernel start (R9): what later iterations keep takes its first value, the Plate image is written and the guard
marks are set. -/
def Core.place (c : Core) (k : Kernel) (rank : Nat) (image : List (Nat × List Byte)) (guards : List Nat) : Core :=
  let c := { c with
    sems := Vector.replicate 32 ⟨0, false⟩, vstat := 0, detst := 0, guardst := 0, cause := 0, badaddr := 0, xpc0 := 0, xpc1 := 0,
    xpc2 := 0, tstatus := 0, sclk := 0, kernid := BitVec.ofNat 32 k.kid, tenant := k.tenant,
    groupid := BitVec.ofNat 64 (k.group + k.cores.length * 2 ^ 16 + rank * 2 ^ 24), activity := .idle, haltedAt := none,
    guards := [], freeze := none, traps := [], draining := none, rttWait := false, sOpen := false, nodes := Vector.replicate 8 RedNode.idle, evqPend := 0,
    known := k.act.known, fenced := [], heard := [] }
  let c := image.foldl (fun c p => c.writePlate (cellsFrom p.1 p.2) []) c
  { c with guards := guards.foldl (fun g o => g.insert (o / 256)) [] }

/-- The gang start of each die of a placement: within 600 ns (960 die cycles) of the activation, within 128 for a staged one (R309). -/
def State.gangStarts (s : State) (bound : Nat) : List DieId → State × List (DieId × Nat)
  | [] => (s, [])
  | d :: ds =>
    let at_ := (s.die d).dclk + 1 + s.choice % bound
    let r := s.chosen.gangStarts bound ds
    (r.1, (d, at_) :: r.2)

/-- Cores that begin a kernel: no release is left at their semaphores, and of the writes that earlier kernels lost there only those
that the activation covers still bar a release (R301, R308). -/
def State.freshCores (s : State) (cores : List CoreId) (known : List (CoreId × Nat)) : State :=
  let left (p : Published) : Bool := match p.obj with | .sem c _ => !cores.contains c | _ => true
  let bars (p : CoreId × Nat) : Bool := !cores.contains p.1 || p.2 < knownOf known p.1
  { s with synced := s.synced.filter left, links := s.links.map fun (l : PeerLink) => { l with lost := l.lost.filter bars } }

/-- A kernel placed on its cores: pools and rings, the cores' state with what the start acquires, the gang starts (R308, R369). -/
def State.placeKernel (s : State) (k : Kernel) (cores : List CoreId) (stagedImage : Bool) : State :=
  let t := k.tenant
  let image := if stagedImage then [] else s.plateImage t k.record
  let guards := s.guardList t k.record
  let k := { k with cores, group := if k.cores.isEmpty then s.freeGroup else k.group }
  let s := cores.zipIdx.foldl (fun s c => s.modCore c.1 fun x => x.place k c.2 image guards) s
  let s := s.freshCores cores k.act.known
  let p := s.makePools k.kid t cores (s.poolDecls t k.record)
  let r := p.1.makeRings k.kid cores 0 (s.ringDecls t k.record)
  let g := r.1.gangStarts (if stagedImage then 127 else 959) (diesOf cores)
  let first : Nat := match g.2 with | x :: _ => x.2 | [] => 0
  let k : Kernel := { k with pools := p.2, rings := r.2, gang := g.2, started := true, staged := none, startAt := first }
  let s : State := g.1
  ({ s with kernels := s.kernels.map fun (x : Kernel) => if x.kid = k.kid then k else x }).schedule 0 (.iterationStart k.kid)

/-- A running kernel of the tenant with a strictly lower PRIO, whose pre-emption a waiting kernel may ask for (R322). -/
def State.preemptable (s : State) (k : Kernel) : Option Kernel :=
  s.kernels.find? fun w => w.tenant = k.tenant && w.started && w.saved.isNone && w.fault.isNone && w.preempt.isNone && w.prio < k.prio

/-- KERNEL_PLACEMENT (R316): a kernel that has its turn and finds enough free cores is placed; a staged one starts on its cores once
its launcher has ended and staging is complete. -/
def execKernelPlacement (s : State) : Out :=
  match s.event with
  | .kernelPlacement kid =>
    match s.kernel kid with
    | none => .next s
    | some k =>
      if k.started || k.fault.isSome then .next s
      else
        match k.staged with
        | some l =>
          if !k.stagedReady || (s.kernel l).isSome then .next s
          else if s.startBarred k k.cores then .next (s.schedule 64 s.event)
          else .next (s.placeKernel k k.cores true)
        | none =>
          if !s.firstWaiting k then .next s
          else
            match placementOf k.record (s.freeCore k.tenant none) with
            | some cs =>
              if s.startBarred k cs then .next (s.schedule 64 s.event)
              else
                let s := s.placeKernel k cs false
                let rest := s.kernels.filter fun w => w.tenant = k.tenant && w.waits
                .next (rest.foldl (fun s w => s.schedule 0 (.kernelPlacement w.kid)) s)
            | none =>
              match s.preemptable k with
              | some w => .next (s.schedule 0 (.preemptRequest w.kid))
              | none => .next s
  | _ => .next s

/-- The pages of a kernel's code that staging installs: from CODE on, every page in a row that it may fetch from. DEDUCED (log entry
82): the record gives no code length; at most 64 pages. -/
def State.codePages (s : State) (t : TenantId) (va : Nat) : List Nat :=
  ((List.range 64).map fun i => va / 65536 * 65536 + 65536 * i).takeWhile fun p => (s.placeOf t p .fetch).isSome

/-- STAGING_COMPLETE (R311): the pages of the successor's code and Plate image are in the die TLBs and the image in the chosen cores'
Plates. -/
def execStagingComplete (s : State) : Out :=
  match s.event with
  | .stagingComplete kid =>
    match s.kernel kid with
    | none => .next s
    | some k =>
      if k.started || k.fault.isSome then .next s
      else
        let ctx : Fin 9 := Fin.ofNat 9 k.tenant.val
        let vas := s.codePages k.tenant (k.field 0 8) ++
          if k.field 8 8 = 0 then [] else (rangePieces (k.field 8 8) (k.field 104 4)).map (·.1)
        let image := s.plateImage k.tenant k.record
        let leaves := vas.filterMap (s.walk ctx)
        let s := (diesOf k.cores).foldl (fun s d => s.modDie d fun x => leaves.foldl (fun x l => x.tlbAdd (entryOf ctx l)) x) s
        let s := k.cores.foldl (fun s c => s.modCore c fun x => image.foldl (fun x p => x.writePlate (cellsFrom p.1 p.2) []) x) s
        let g := s.freeGroup
        let s := s.modKernel kid fun k => { k with stagedReady := true, group := g }
        .next (s.schedule 0 (.kernelPlacement kid))
  | _ => .next s

end Sys2Proof.Machine
end

