-- ==== Sys2Proof/Machine/Memories.lean ====
section
/-! DEFINITION. Activities of the memories and their failures (R263–R266, R353–R355, R361–R367): refresh, lane repair, scrub, ports,
headers, parity, error banks, life records. -/

namespace Sys2Proof.Machine

/-! ### Weight-store refresh (R263) -/

/-- The deadline of a bank group. -/
def BankGroup.deadline (g : BankGroup) : Nat := g.lastStart + 102400

/-- WS_BACKSTOP_REFRESH: a group that has reached its deadline is refreshed; a group refreshed meanwhile is looked at again at its new
deadline. -/
def execWsBackstopRefresh (s : State) : Out :=
  match s.event with
  | .wsBackstopRefresh d g =>
    let k := s.die d
    let x := k.groups[g]
    if k.dclk < x.deadline then .next (s.schedule (x.deadline - k.dclk) (.wsBackstopRefresh d g))
    else
      .next ((s.refreshGroup d g).schedule 102400 (.wsBackstopRefresh d g))
  | _ => .next s

/-- WS_REFRESH_END: the group serves reads again, or the next refresh that waits for it starts. -/
def execWsRefreshEnd (s : State) : Out :=
  match s.event with
  | .wsRefreshEnd d g =>
    let k := s.die d
    let x := k.groups[g]
    if k.dclk < x.busyUntil then .next s
    else if x.waiting = 0 then .next (s.modDie d fun k => { k with groups := k.groups.set g { x with busyUntil := 0 } })
    else .next ((s.modDie d fun k => { k with groups := k.groups.set g { x with waiting := x.waiting - 1 } }).refreshGroup d g)
  | _ => .next s

/-! ### HBM (R265, R353, R365) -/

/-- HBM_REFRESH: a bank of a slice is blocked for up to 448 die cycles. -/
def execHbmRefresh (s : State) : Out :=
  match s.event with
  | .hbmRefresh d k bank =>
    let n := 1 + s.choice % 448
    .next (s.chosen.modDie d fun x =>
      { x with refreshing := (k, bank, x.dclk + n) :: x.refreshing.filter fun r => x.dclk < r.2.2 && !(r.1 = k && r.2.1 = bank) })
  | _ => .next s

/-- Lane repairs of a channel in the life record: a count and two lanes. -/
def lifeLanes (m : Memory) (channel lane : Nat) : Memory :=
  let a := 0x1260 + 8 * channel
  let n := Memory.readNat m a 1
  Memory.writeNat (Memory.writeNat m a 1 (min (n + 1) 255)) (a + 1 + n % 2) 1 lane

/-- A channel is retired (R365): the pages of its frames are unmapped, in every TLB and in the walks under way, until the module OS has moved
them. -/
def State.retire (s : State) (d : DieId) (ch : Fin 64) : State :=
  let s := s.modDie d fun k => { k with retired := if k.retired.contains ch then k.retired else ch :: k.retired }
  let gone (e : TlbEntry) : Bool := s.inRetired { va := e.va, size := e.size, pte := e.pte }
  let walk (w : Walk) : Walk := { w with leaf := w.leaf.filter fun e => !gone e }
  let die (k : Die) : Die := { k with tlb := k.tlb.filter fun e => !gone e, walks := k.walks.map walk }
  let core (k : Core) : Core := { k with tlb := k.tlb.filter fun e => !gone e, held := k.held.filter fun e => !gone e }
  { s with dies := s.dies.map die, cores := s.cores.map core }

/-- HBM_LANE_REPAIR: the channel pauses for at most 20 µs, the lane is remapped and the repair map kept; with no redundant lane left the channel is
retired and the module OS notes it. -/
def execHbmLaneRepair (s : State) : Out :=
  match s.event with
  | .hbmLaneRepair d ch lane =>
    if 2 ≤ ((s.die d).laneMap.filter (·.1 = ch)).length then
      let s := s.retire d ch
      .next { s with hub := { s.hub with osLog := s.hub.osLog ++ [(365, ch.val)] } }
    else
      let n := 1 + s.choice % 32000
      let s := s.chosen.modDie d fun x =>
        { x with pausedUntil := x.pausedUntil.set ch (x.dclk + n), laneMap := x.laneMap ++ [(ch, lane)],
                 life := lifeLanes x.life ch.val lane }
      let s := s.dieError d (Fin.ofNat 16 (6 + ch.val / 16))
        { uc := false, kind := 8, unit := ch.val / 4, core := none, addr := ch.val, info := lane }
      let s := { s with hub := { s.hub with repairMaps := s.hub.repairMaps ++ [(d, ch, lane)] } }
      .next (s.schedule n (.hbmRepairPauseEnd d ch))
  | _ => .next s

/-- HBM_REPAIR_PAUSE_END: the channel resumes. -/
def execHbmRepairPauseEnd (s : State) : Out :=
  match s.event with
  | .hbmRepairPauseEnd d ch =>
    .next (s.modDie d fun x =>
      { x with pausedUntil := x.pausedUntil.set ch (if x.pausedUntil[ch] ≤ x.dclk then 0 else x.pausedUntil[ch]) })
  | _ => .next s

/-! ### Scrub, ports, headers, parity (R266, R354, R355, R361) -/

/-- Where the errors of a line of a memory are recorded: the die, its bank, the unit in the bank's class, and the unit of the life
record. -/
def scrubBank (sp : Space) (line : Nat) : Option (DieId × Fin 16 × Nat × Nat) :=
  match sp with
  | .plate c => some (dieOf c, Fin.ofNat 16 ((localOf c).val / 8), (localOf c).val, (localOf c).val)
  | .wstore d => let g := line * 64 / 2 ^ 25 % 32; some (d, Fin.ofNat 16 (4 + g / 16), g, 32 + g)
  | .hbm => let k := (hbmSlice (line * 64)).val; some (hbmHome (line * 64), Fin.ofNat 16 (6 + k / 4), k, 64 + k)
  | _ => none

/-- Weight-store retention failures of a bank group (R367). -/
def lifeRetention (g : Nat) : Nat := 0x1460 + 8 * g

/-- A line gains a poison mark. -/
def State.markLine (s : State) (sp : Space) (line : Nat) : State :=
  match sp with
  | .plate c => s.modCore c fun k => let m := remark k.marks k.wiped [] [line]; { k with marks := m.1, wiped := m.2 }
  | .hbm => { s with hbm := s.hbm.mark line }
  | .tier2 => { s with tier2 := s.tier2.mark line }
  | .wstore d => { s with wstore := s.wstore.set d (s.wstore[d].mark line) }
  | _ => s

/-- An error in the hub's L2 or its part of HBM (R354): after an uncorrectable one the module accepts no more launches. -/
def State.hubMemoryError (s : State) (line : Nat) (uc : Bool) : State :=
  let s := s.hubError 2 { uc, kind := 1, unit := 0, core := none, addr := 64 * line, info := 0 }
  if uc then { s with hub := { s.hub with accepting := false, osLog := s.hub.osLog ++ [(354, line)] } } else s

/-- A page of a flash copy no longer verifies (R354): its other copy is used. The place names copy 0 or 1 of the image, then the two copies of
each die's life record. -/
def State.spoilFlash (s : State) (place : Nat) : State :=
  let k : Fin 2 := Fin.ofNat 2 place
  let h := s.hub
  let bad (m : Memory) : Memory := Memory.writeNat m 0x3FF8 8 (Memory.readNat m 0x3FF8 8 ^^^ 1)
  if place < 2 then { s with hub := { h with flash := h.flash.set k ((h.flash[k]).map fun i => { i with verifies := false }) } }
  else
    let d : DieId := Fin.ofNat 4 (place / 2 - 1)
    { s with hub := { h with lifeFlash := h.lifeFlash.set d (h.lifeFlash[d].set k (bad h.lifeFlash[d][k])) } }

/-- The unit at a port is held up by a patrol-scrub access for at most 8 die cycles (R353). -/
def State.scrubAccess (s : State) (sp : Space) (line : Nat) : State :=
  match sp with
  | .tier2 | .host | .peer _ => s
  | sp =>
    match s.exitPort 0 sp (64 * line) with
    | some (d, o) => s.chosen.modDie d fun k => { k with scrubUntil := k.scrubUntil.set o (k.dclk + s.choice % 9) }
    | none => s

/-- An error that scrub, or a TIER2 expander, has found in a line: recorded in the bank of its memory, counted, and the line marked where it is
uncorrectable. `info` is its syndrome, failing symbol and data lane (R363). A weight-store line that has failed is a retention failure of
its group (R367; log entry 97). -/
def State.lineError (s : State) (sp : Space) (line : Nat) (uc : Bool) (info : Nat) : State :=
  let core := match sp with | .plate c => some c | _ => none
  let r (unit : Nat) : ErrorReport := { uc, kind := 1, unit, core, addr := 64 * line, info }
  let s :=
    match scrubBank sp line with
    | some (d, b, unit, life) =>
      let s := (s.dieError d b (r unit)).lifeAdd d (if uc then lifeUncorrectable life else lifeCorrectable life) 1
      match sp with | .wstore _ => s.lifeAdd d (lifeRetention unit) 1 | _ => s
    | none => if sp = .tier2 then s.hubError 1 (r (s.tier2Port (64 * line)).val) else s
  if uc then s.markLine sp line else s

/-- PATROL_SCRUB: a correctable error is corrected in place and counted and changes no value; an uncorrectable line reads as poisoned
from now on; one of the hub's own memory is a machine check of the module OS, and one of flash leaves the other copy (R354). In no memory, `info`
0 is the hub's own, and a larger one a place in flash. The access holds up its unit (R353). -/
def execPatrolScrub (s : State) : Out :=
  match s.event with
  | .patrolScrub none line o info =>
    match info, o with
    | _, .clean => .next s
    | 0, o => .next (s.hubMemoryError line (o = .uncorrectable))
    | k + 1, o =>
      let uc := o = .uncorrectable
      let s := s.hubError 3 { uc, kind := 1, unit := 1, core := none, addr := line, info := k }
      .next (if uc then s.spoilFlash k else s)
  | .patrolScrub (some sp) line o info =>
    let s := s.scrubAccess sp line
    match o with
    | .clean => .next s
    | o => .next (s.lineError sp line (o = .uncorrectable) info)
  | _ => .next s

/-- CXL_PORT_FAILURE: accesses to the frames behind the port fail from now on. -/
def execCxlPortFailure (s : State) : Out :=
  match s.event with
  | .cxlPortFailure p =>
    let s := s.hubError 1 { uc := true, kind := 10, unit := p.val, core := none, addr := p.val, info := 0 }
    .next { s with hub := { s.hub with failedPorts := if s.hub.failedPorts.contains p then s.hub.failedPorts
                                         else s.hub.failedPorts ++ [p] } }
  | _ => .next s

/-! ### Headers and payloads found bad on the way (R354, R361) -/

/-- The memory that a packet in the crossbars is for. -/
def struckSpace (op : AbandonedOp) : Option Space := match op with | .packet p _ | .beat p _ _ => some p.sp | _ => none

/-- An uncorrectable header (KIND 2) or beat (KIND 1) found at a port: the record names the physical port and nothing from the header. The
port is of the crossbar, a die-to-die or a Biryar port; behind the hub port it is the hub's PCIe or CXL port. -/
def State.headerRecord (s : State) (d : DieId) (port : Port) (kind : Nat) (sp : Option Space) : State :=
  let n := port.val
  let r (unit : Nat) : ErrorReport := { uc := true, kind, unit, core := none, addr := n, info := 0 }
  if n = 48 + d.val && sp = some .host then s.hubError 0 (r 0)
  else if n = 48 + d.val && sp = some .tier2 then s.hubError 1 (r 0)
  else if 48 ≤ n && n < 52 then (s.dieError d 11 (r (n - 48))).lifeAdd d (lifeUncorrectable (81 + (n - 48))) 1
  else if 52 ≤ n && n < 56 then (s.dieError d 12 (r (n - 52))).lifeAdd d (lifeUncorrectable (85 + (n - 52))) 1
  else (s.dieError d 10 (r n)).lifeAdd d (lifeUncorrectable 80) 1

/-- A packet changed wherever it stands in the crossbars and on the links between dies. -/
def State.mapPacket (s : State) (num : Nat) (f : Packet → Packet) : State :=
  let one (p : Packet) : Packet := if p.num = num then f p else p
  let out (o : OutPort) : OutPort := { o with waiting := o.waiting.map one, buffer := o.buffer.map fun b => (b.1, one b.2) }
  let item (a : AgendaItem) : AgendaItem := match a.what with | .d2dDelivery d p => { a with what := .d2dDelivery d (one p) } | _ => a
  { s with dies := s.dies.map fun (d : Die) => { d with outs := d.outs.map out }, agenda := s.agenda.map item }

/-- A packet that waits in a buffer is served no sooner than a die cycle, and those behind it no sooner than it. -/
def heldBack (num t : Nat) : List (Nat × Packet) → List (Nat × Packet)
  | [] => []
  | b :: bs => if b.2.num = num then (b :: bs).map fun x => (max x.1 t, x.2) else b :: heldBack num t bs

/-- Steps of the part that are due come some die cycles later. -/
def State.delaySteps (s : State) (n : Nat) (late : Event → Bool) : State :=
  (s.agenda.filter fun a => late a.what).foldl (fun s a => s.schedule (a.due + n - s.time) a.what)
    { s with agenda := s.agenda.filter fun a => !late a.what }

/-- The step by which an operation on its way takes effect. -/
def struckStep (op : AbandonedOp) (c : CoreId) (e : Event) : Bool :=
  match op, e with
  | .node p, .reductionPacketArrival q => p = q
  | .sem dst i sent, .semRemoteService a b j _ t _ => a = c && b = dst && j = i && t = sent
  | .home rid, .poolService q => q.rid = rid
  | .home rid, .ringService q | .home rid, .ringWaitServiced q => q.rid = rid
  | .home rid, .homeReplyArrival _ r _ => r = rid
  | _, _ => false

/-- A packet is dropped and sent once more by the port it came from: what it does comes later by as many die cycles as that takes, and
nothing else changes (R361). -/
def State.resentOnce (s : State) (c : CoreId) (op : AbandonedOp) : State :=
  let n := 1 + s.choice
  let s := s.chosen
  match op with
  | .packet p _ =>
    let late (q : Packet) : Packet := { q with notBefore := s.time + n }
    let t := s.mapPacket p.num late
    { t with dies := t.dies.map fun (d : Die) => { d with outs := d.outs.map fun (o : OutPort) =>
        if (o.buffer.find? fun b => b.2.num = p.num).isSome then { o with buffer := heldBack p.num (d.dclk + n) o.buffer } else o } }
  | .launch order =>
    let late (a : Activation) : Activation := if a.order = order then { a with readyAt := max a.readyAt (s.time + n) } else a
    s.modTenant (s.core c).tenant fun k => { k with pending := k.pending.map late, late := k.late.map late }
  | .beat _ _ _ => s
  | op => s.delaySteps n (struckStep op c)

/-- An operation of a write whose bytes are those of beat `k` carries a mark from there on; a store is cut where the beat begins and ends. -/
def markBeat (start k : Nat) (o : PortOp) : List PortOp :=
  let inBeat (a : Nat) : Bool := start + 256 * k ≤ a && a < start + 256 * (k + 1)
  match o with
  | .bytes sp cells marked =>
    [PortOp.bytes sp (cells.filter fun p => !inBeat p.1) marked, .bytes sp (cells.filter fun p => inBeat p.1) true].filter fun o =>
      match o with | .bytes _ cells _ => !cells.isEmpty | _ => true
  | .accum sp a f op v m => [.accum sp a f op v (m || inBeat a)]
  | .atom sp a f op v w m => [.atom sp a f op v w (m || inBeat a)]
  | o => [o]

/-- Uncorrectable data reaches a run of a load: its bytes from a virtual address on, by its poison policy (R219). A second read is made now, or
at the landing that waits for it. -/
def State.loseRun (s : State) (die : DieId) (atLanding : Bool) (p : Packet) (va lo n : Nat) (r : LoadRun) : State × LoadRun :=
  if r.va < lo + n && lo < r.va + r.n && va ≤ r.va && r.va < va + p.bytes then
    let zeros := List.replicate r.n (0#8)
    match r.pois with
    | 0 => (s, { r with src := none, data := if r.data.length = r.n then r.data else zeros, bad := true, again := false })
    | 1 => (s.lifeAdd die (lifeOther 0) 1, { r with src := none, data := zeros, again := false })
    | _ =>
      let q := { r with src := some ⟨p.sp, p.addr + (r.va - va)⟩, again := true }
      if atLanding then (s, q) else s.sampleRun die true q
  else (s, r)

/-- A state and a list changed together, in order. -/
def mapWith {α : Type} (f : State → α → State × α) (s : State) : List α → State × List α
  | [] => (s, [])
  | a :: as =>
    let x := f s a
    let y := mapWith f x.1 as
    (y.1, x.2 :: y.2)

/-- The landings that wait for a tile's packets. -/
def Landing.waitsFor (l : Landing) (num : Nat) : Bool := l.effs.any fun e => match e with | .waits k _ => k = num | _ => false

/-- Bytes that a read has asked for are uncorrectable, from a virtual address on: the value of a global load, or the bytes of a load, an index
tile, a copy's source or a read of another module (R94, R219). -/
def State.readLost (s : State) (p : Packet) (va lo n : Nat) : State :=
  let c := p.msg.src
  let now (s : State) (r : LoadRun) : State × LoadRun := s.loseRun (dieOf c) false p va lo n r
  let eff (s : State) (e : Eff) : State × Eff :=
    let x := mapWith (fun s r => s.loseRun (dieOf c) true p va lo n r) s e.runs
    (x.1, e.withRuns x.2)
  let landing (m : Nat) (s : State) (l : Landing) : State × Landing :=
    if l.waitsFor m then let x := mapWith eff s l.effs; (x.1, { l with effs := x.2 }) else (s, l)
  match p.msg.of_ with
  | .scalar m => s.modCore c fun k =>
      { k with globals := k.globals.map fun g => if g.num = m && g.isLoad then { g with done := true, poisoned := true } else g }
  | .tile m =>
    let x := mapWith (landing m) s (s.core c).landings
    x.1.modCore c fun k => { k with landings := x.2 }
  | .index m =>
    let x := mapWith (fun s (f : IndexFetch) => if f.num = m then let y := mapWith now s f.runs; (y.1, { f with runs := y.2 }) else (s, f)) s (s.core c).ahead
    x.1.modCore c fun k => { k with ahead := x.2 }
  | .copy id =>
    match (s.core c).copies.find? (·.id = id) with
    | some k => let x := mapWith now s k.got; x.1.modCore c fun k => k.modCopy id fun y => { y with got := x.2 }
    | none => s
  | .inbound id => { s with inbound := s.inbound.map fun (x : Inbound) => if x.id = id then { x with marked := true } else x }
  | .outside => s

/-- A beat of a packet's payload carries poison from there on (R354): the write's operations, or the data that a read brings back. -/
def State.beatBad (s : State) (p : Packet) (va k : Nat) : State :=
  match p.msg.ops with
  | .back :: _ => s.readLost p va (va + 256 * k) 256
  | .read _ _ _ _ :: _ => s
  | _ => s.mapPacket p.num fun q => { q with msg := { q.msg with ops := q.msg.ops.flatMap (markBeat p.addr k) } }

/-- HEADER_ERROR: the packet is dropped unapplied and the port it came from resends it once. A beat of payload found uncorrectable is marked
poisoned (R354). -/
def execHeaderError (s : State) : Out :=
  match s.event with
  | .headerError d port c op =>
    match op with
    | .beat p va k => .next ((s.headerRecord d port 1 (struckSpace op)).beatBad p va.toNat k)
    | op => .next ((s.headerRecord d port 2 (struckSpace op)).resentOnce c op)
  | _ => .next s

/-- A packet leaves the crossbars, the links and the paths to other modules, wherever it stands. -/
def State.dropPacket (s : State) (num : Nat) : State :=
  let out (o : OutPort) : OutPort := { o with waiting := o.waiting.filter (·.num ≠ num), buffer := o.buffer.filter (·.2.num ≠ num) }
  let die (d : Die) : Die := { d with outs := d.outs.map out }
  let gone (a : AgendaItem) : Bool := match a.what with | .d2dDelivery _ p => p.num = num | _ => false
  let s := { s with dies := s.dies.map die, agenda := s.agenda.filter fun a => !gone a }
  let sent := s.links.flatMap fun (l : PeerLink) => (l.unacked.filter (·.num = num)).map fun p => (l.module, p.pairSeq)
  let s := { s with links := s.links.map fun (l : PeerLink) => { l with held := l.held.filter (·.1.num ≠ num) } }
  sent.foldl (fun s x => s.acked x.1 x.2) s

/-- A destination that the data of a multicast does not reach applies nothing of it. -/
def State.castLost (s : State) (id : Nat) (c : CoreId) : State :=
  let s := { s with casts := (s.casts.map fun (m : Multicast) =>
      if m.id = id then { m with owed := m.owed.filter (· ≠ c), dsts := m.dsts.filter (· ≠ c) } else m).filter fun m => !m.dsts.isEmpty }
  s.postWaiting.wakeCast c

/-- A packet from another module cannot be performed here: it is refused (R352). -/
def State.inboundFailed (s : State) (id : Nat) : State :=
  { s with inbound := s.inbound.map fun (x : Inbound) => if x.id = id then { x with failed := true } else x }

/-- What becomes of an abandoned packet at its issuer (R361). -/
def State.packetLost (s : State) (p : Packet) (va : Word) : State :=
  let c := p.msg.src
  match p.msg.ops, p.msg.of_ with
  | .read _ _ _ _ :: _, .inbound id | _, .inbound id => (s.inboundFailed id).settled c p.msg.of_ p.num
  | .read _ _ _ _ :: _, _ | .back :: _, _ => (s.readLost p va.toNat va.toNat p.bytes).settled c p.msg.of_ p.num
  | .cast id d :: _, .copy k => (((s.copyStatus c k 1).castLost id d).copyPart c k 0).settled c p.msg.of_ p.num
  | _, .copy id => (s.copyStatus c id 1).settled c p.msg.of_ p.num
  | _, .scalar m =>
    let s := s.modCore c fun k => { k with globals := k.globals.map fun g => if g.num = m then { g with done := true } else g }
    (s.pendTrap c (poisonTrap va va)).settled c p.msg.of_ p.num
  | _, _ => (s.pendTrap c { poisonTrap va va with eng := some .st }).settled c p.msg.of_ p.num

/-- The step of a packet, or of a home operation, is not coming. -/
def State.forgetEvent (s : State) (p : Event → Bool) : State := { s with agenda := s.agenda.filter fun a => !p a.what }

/-- PACKET_ABANDON: a second uncorrectable header on a hop; the issuer's tenant takes the outcome. -/
def execPacketAbandon (s : State) : Out :=
  match s.event with
  | .packetAbandon d port c op =>
    let s := (s.headerRecord d port 2 (struckSpace op)).lifeAdd d (lifeOther 4) 1
    match op with
    | .packet p va | .beat p va _ => .next ((s.dropPacket p.num).packetLost p va)
    | .node p =>
      let s := s.forgetEvent (struckStep op c)
      match p.copy.bind fun id => (s.core p.srcCore).copies.find? (·.id = id) with
      | some k => .next (s.finishCopy p.srcCore k 1 0 k.reserved)
      | none => .next (s.lifeAdd (dieOf p.srcCore) (lifeOther 3) 1)
    | .sem _ _ sent =>
      .next ((s.forgetEvent (struckStep op c)).pendTrap c (poisonTrap (Config.poisonAddr sent) 0))
    | .launch order =>
      let drop (t : Tenant) : Tenant := { t with pending := t.pending.filter (·.order ≠ order), late := t.late.filter (·.order ≠ order) }
      .next ((s.modTenant (s.core c).tenant drop).pendTrap c (poisonTrap (Config.poisonAddr order) 0))
    | .home rid =>
      let s := (s.forgetEvent (struckStep op c)).modCore c fun k =>
        { k with homeOps := k.homeOps.filter (·.rid ≠ rid),
                 landings := k.landings.map fun l => { l with effs := l.effs.filter fun e => e ≠ .reply rid },
                 freeze := if k.freeze = some (.reply rid) then none else k.freeze }
      .next (s.pendTrap c (poisonTrap (Config.poisonAddr rid) 0))
  | _ => .next s

/-- CORE_STATE_PARITY: an accumulator or a weight slot is a marked operand for the tile step that reads it; an error anywhere else is
an imprecise poison fault with BADADDR 0. -/
def execCoreStateParity (s : State) : Out :=
  match s.event with
  | .coreStateParity c u =>
    let uc := u = .other
    let s := s.dieError (dieOf c) 13 { uc, kind := 4, unit := (localOf c).val, core := some c, addr := 0, info := 0 }
    let n := 89 + (localOf c).val
    let s := s.lifeAdd (dieOf c) (if uc then lifeUncorrectable n else lifeCorrectable n) 1
    match u with
    | .accumulator a =>
      .next (s.modCore c fun k =>
        { k with acc := k.acc.set a { k.acc[a] with marked := true }, chainAcc := k.chainAcc.set a { k.chainAcc[a] with marked := true } })
    | .weightSlot w =>
      .next (s.modCore c fun k => { k with wslots := k.wslots.set w { k.wslots[w] with marks := k.wslots[w].marks.insert 0 } })
    | .other => .next (s.pendTrap c (poisonTrap 0 0))
  | _ => .next s

/-! ### Error banks and life records (R363, R367) -/

/-- EBSTAT written: VALID clears the record apart from EBCE, OVF clears itself. -/
def ErrorBank.writeStat (b : ErrorBank) (v : Word) : ErrorBank :=
  if bitOf v 0 then { ErrorBank.empty with ce := b.ce }
  else if bitOf v 2 then { b with stat := b.stat &&& ~~~4#64 }
  else b

/-- EBCE written: any 1 clears CECNT. -/
def ErrorBank.writeCe (b : ErrorBank) (v : Word) : ErrorBank := if bitsOf v 0 32 ≠ 0 then { b with ce := 0 } else b

/-- One error bank changed: a compute die's, or the hub's four. -/
def State.modBank (s : State) (die : Fin 5) (bank : Fin 16) (f : ErrorBank → ErrorBank) : State :=
  if h : die.val < 4 then
    s.modDie ⟨die.val, h⟩ fun k => { k with banks := k.banks.set bank (f k.banks[bank]) }
  else if h : bank.val < 4 then
    { s with hub := { s.hub with banks := s.hub.banks.set bank.val (f s.hub.banks[bank.val]) } }
  else s

/-- EBSTAT_WRITE. -/
def execEbstatWrite (s : State) : Out :=
  match s.event with
  | .ebstatWrite d b v => .next (s.modBank d b fun x => x.writeStat v)
  | _ => .next s

/-- EBCE_WRITE. -/
def execEbceWrite (s : State) : Out :=
  match s.event with
  | .ebceWrite d b v => .next (s.modBank d b fun x => x.writeCe v)
  | _ => .next s

/-- The die cycles of a second. -/
def second : Nat := 1600000000

/-- The first 64 bytes of a life record: magic, version, die, update count, powered seconds, last update time. -/
def lifeHeader (die updates seconds time : Nat) : List Byte :=
  natBytes 4 0x4645494C ++ natBytes 4 1 ++ natBytes 8 die ++ natBytes 8 updates ++ natBytes 8 seconds ++ natBytes 8 time

/-- A die's life record as it is written to flash: its counters, header and CRC-32C. The powered seconds go on from those of the record
that was loaded at boot. -/
def lifeImage (die updates time : Nat) (m : Memory) : Memory :=
  let m := Memory.writeCells m (cellsFrom 0 (lifeHeader die updates (Memory.readNat m 24 8 + time / second) time))
  Memory.writeNat m 0x3FF8 8 (~~~(crcBytes 0xFFFFFFFF#32 (Memory.readBytes m 0 0x3FF8))).toNat

/-- The CRC of a stored life record is right. -/
def lifeGood (m : Memory) : Bool := Memory.readNat m 0x3FF8 8 = (~~~(crcBytes 0xFFFFFFFF#32 (Memory.readBytes m 0 0x3FF8))).toNat

/-- The life record of a die in flash: its first copy, or its second where the first does not verify (R354, R367). -/
def Hub.lifeStored (h : Hub) (d : DieId) : Memory :=
  let x := h.lifeFlash[d]
  if lifeGood x[0] then x[0] else x[1]

/-- Ten minutes of die cycles. -/
def tenMinutes : Nat := 600 * 1600000000

/-- The seconds since they were last counted go to the bin of the die's temperature (R367). -/
def State.countSeconds (s : State) (d : DieId) : State :=
  let k := s.die d
  let n := (s.time - k.celsiusAt) / second
  (s.lifeAdd d (0xB40 + 8 * min (k.celsius + 20).toNat 159) n).modDie d fun k => { k with celsiusAt := k.celsiusAt + n * second }

/-- Every die's life record written to flash, two copies each. -/
def State.writeLife (s : State) : State :=
  let s := (List.finRange 4).foldl State.countSeconds s
  { s with hub := { s.hub with
      lifeFlash := Vector.ofFn fun (d : Fin 4) => Vector.replicate 2 (lifeImage d.val (s.hub.lifeUpdates[d] + 1) s.time (s.die d).life),
      lifeUpdates := s.hub.lifeUpdates.map (· + 1) } }

/-- LIFE_RECORD_UPDATE, at least every ten minutes of service. -/
def execLifeRecordUpdate (s : State) : Out := .next (s.writeLife.schedule tenMinutes .lifeRecordUpdate)

end Sys2Proof.Machine
end

