-- ==== Sys2Proof/Machine/Biryar.lean ====
section
/-! DEFINITION. The Biryar ports of this module (R300, R337, R348–R352): flits and their CRC, admission of packets from other
modules, retries, lane fallback, ports going down and coming up, and re-sending over another path. -/

namespace Sys2Proof.Machine

/-! ### Port status (R352) -/

/-- A status field replaced. -/
def putField (w : Word) (lo n v : Nat) : Word :=
  BitVec.ofNat 64 (w.toNat % 2 ^ lo + v % 2 ^ n * 2 ^ lo + w.toNat / 2 ^ (lo + n) * 2 ^ (lo + n))

/-- A saturating 16-bit field of the status raised. -/
def bumpField (w : Word) (lo n : Nat) : Word := putField w lo 16 (min (bitsOf w lo 16 + n) 65535)

/-! ### Packets taken from another module (R300, R351, R352) -/

/-- The source tenant of a packet. -/
def msgTenant : PeerMsg → Nat
  | .write t _ _ _ | .reduce t _ | .read t _ _ | .accum t _ _ _ _ _ | .atom t _ _ _ _ _ _ => t
  | .data _ _ => 0

/-- A part of an access of another module: where it goes, its bytes, and its operation. -/
structure InPart where
  sp : Space
  addr : Nat
  n : Nat
  op : PortOp
deriving DecidableEq, Repr

/-- The parts of a byte range in a tenant's context, each in one packet; none where some page does not allow the access (R341, R352).
DEDUCED (log entry 109): a page of a third module is refused. -/
def State.inRange (s : State) (t : TenantId) (va n : Nat) (r : Right) (op : Space → Nat → Nat → Nat → PortOp) : Option (List InPart) :=
  let one (p : Nat × Nat) : Option (List InPart) :=
    match s.movePlace t p.1 r with
    | some ⟨.peer _, _⟩ | none => none
    | some l => some ((packetPieces (p.2 / 2048 + 2) l.addr p.2).map fun q => ⟨l.sp, q.1, q.2, op l.sp q.1 (p.1 - va + (q.1 - l.addr)) q.2⟩)
  ((rangePieces va n).mapM one).map List.flatten

/-- What an admitted packet does here in the context of its local tenant; none where it is refused. -/
def State.inParts (s : State) (t : TenantId) (m : PeerMsg) : Option (List InPart) :=
  let elem (va : Nat) (f : BitVec 5) (op : Space → Nat → PortOp) : Option (List InPart) :=
    match fmtOf f.toNat, s.movePlace t va .read with
    | some k, some _ => s.inRange t va k.size .write fun sp a _ _ => op sp a
    | _, _ => none
  match m with
  | .write _ va bytes bad => s.inRange t va bytes.length .write fun sp a off k => .bytes sp (cellsFrom a ((bytes.drop off).take k)) bad
  | .read _ va n => s.inRange t va n .read fun sp a _ k => .read sp a k false
  | .accum _ va f op v bad => elem va f fun sp a => .accum sp a f op v bad
  | .atom _ va f op v w bad => elem va f fun sp a => .atom sp a f op v w bad
  | .reduce _ _ | .data _ _ => none

/-- A part enters the crossbar by the Biryar port (R351). -/
def State.sendPart (s : State) (port : Fin 16) (t : TenantId) (id : Nat) (x : InPart) : State :=
  let isRead := match x.op with | .read _ _ _ _ => true | _ => false
  match s.packetFrom (portDie port) (Fin.ofNat 64 (52 + port.val % 4)) t.val x.sp x.addr x.n isRead { src := 0, of_ := .inbound id, ops := [x.op] } with
  | none => s
  | some q =>
    let put (y : Inbound) : Inbound := if y.id = id then { y with out := y.out ++ [q.num] } else y
    { s with nextPacket := s.nextPacket + 1, inbound := s.inbound.map put }.request (portDie port) q

/-- A pair sequence number has been taken, and those far from it are forgotten. -/
def PeerLink.took (l : PeerLink) (seq : Nat) : PeerLink := { l with seen := NatSet.insert (l.seen.filter (nearSeq seq)) seq }

/-- An admitted packet is taken: its parts cross this module, and it is answered once they have been performed. A reduction packet goes to
its node in the order of R331, in the die cycles that a packet takes from the port's die (R335, R351). -/
def State.takeIn (s : State) (port : Fin 16) (m seq : Nat) (t : TenantId) (p : PeerMsg) : State :=
  let s := s.modLink m fun l => l.took seq
  match p with
  | .reduce _ p =>
    let steps := (if dieOf p.dstCore = portDie port then 12 else 28) + (p.tile.length + 255) / 256
    let s := s.chosen.schedule (steps + s.choice)
      (.reductionPacketArrival { p with srcNode := some (p.srcNode.getD 0), copy := none, known := [] })
    s.answerPacket port m seq (some ([], false))
  | p =>
    let parts := (s.inParts t p).getD []
    let id := s.nextPacket
    let x : Inbound := { id, port, module := m, seq, tenant := t, out := [], data := [], marked := false, failed := false }
    let s := parts.foldl (fun s x => s.sendPart port t id x) { s with nextPacket := id + 1, inbound := s.inbound ++ [x] }
    if parts.isEmpty then s.inboundBack id 0 else s

/-- A tenant's context lets a packet in; a reduction packet where a kernel of that tenant has the node's core (R337). -/
def State.lets (s : State) (t : TenantId) (p : PeerMsg) : Bool :=
  match p with
  | .reduce _ p => (s.core p.dstCore).tenant = t
  | p => (s.inParts t p).isSome

/-- A completed packet taken, or refused: the pairing table does not let it in, or its tenant's context does not allow the access (R352). One
that has been taken before does nothing and is answered as it was (R300). -/
def State.takePeerPacket (s : State) (port : Fin 16) (m seq : Nat) (p : PeerMsg) : State :=
  match s.linkTo m with
  | none => s.answerPacket port m seq none
  | some l =>
    if l.seen.contains seq then
      if s.inbound.any fun x => x.module = m && x.seq = seq then
        { s with inbound := s.inbound.map fun (x : Inbound) => if x.module = m && x.seq = seq then { x with port } else x }
      else s.answerPacket port m seq (some (((l.answers.find? (·.1 = seq)).map (·.2)).getD ([], false)))
    else
      match (l.pairing.find? (·.1 = msgTenant p)).filter fun q => s.lets q.2 p with
      | some q => s.takeIn port m seq q.2 p
      | none => s.answerPacket port m seq none

/-! ### What a port does with a flit (R348, R349, R350) -/

/-- A flit for another module goes on over the first path that is up, unapplied, under a link sequence number of its own. -/
def State.relay (s : State) (f : Flit) : State :=
  match s.pathPort f.dstMod.toNat with
  | none => s
  | some q =>
    let g := { f with lseq := (s.ports[q]).txSeq }
    s.pushFlits q [{ g with crc := flitCrc g }]

/-- The bytes with which another module answers a packet of this one are what its memory holds there when the packet is performed. -/
def State.peerAnswers (s : State) (m seq : Nat) (bytes : List Byte) (marked : Bool) : State :=
  match ((s.linkTo m).bind fun l => l.unacked.find? (·.pairSeq = seq)).bind (·.ops.head?) with
  | some (.read sp a n _) => s.writeSpace sp (cellsFrom a (bytes.take n)) marked
  | some (.atom sp a f _ _ _ _) => s.writeSpace sp (cellsFrom a (bytes.take (((fmtOf f.toNat).map Fmt.size).getD 0))) marked
  | _ => s

/-- The last flit of a packet for this module has come. -/
def State.packetIn (s : State) (port : Fin 16) (f : Flit) (m : PeerMsg) : State :=
  match m with
  | .data bytes marked => s.peerAnswers f.srcMod.toNat f.pairSeq.toNat bytes marked
  | m => s.takePeerPacket port f.srcMod.toNat f.pairSeq.toNat m

/-- The acknowledgement of a packet of this module: performed, or refused, so that its copy reports STATUS 1 (R352). Log entry 20. -/
def State.ackFlit (s : State) (f : Flit) : State :=
  let m := f.srcMod.toNat
  let seq := f.pairSeq.toNat
  match (s.linkTo m).bind fun l => l.unacked.find? (·.pairSeq = seq) with
  | none => s
  | some p =>
    if f.payload.headD 0 = 0 then s.schedule 0 (.endToEndAck m seq)
    else
      let s := s.acked m seq
      match p.copy, p.ops with
      | some (c, id), .read sp a n _ :: _ => (s.readFailed c id 1 sp a n).settled c (.copy id) p.num
      | some (c, id), _ => (s.copyStatus c id 1).settled c (.copy id) p.num
      | none, _ => s

/-- A data flit in sequence: acknowledged on the link, and relayed, or kept until its packet is complete. -/
def State.dataFlit (s : State) (port : Fin 16) (f : Flit) (m : Option PeerMsg) : State :=
  let s := (s.modPort port fun p => { p with rxSeq := p.rxSeq + 1 }).control port 1 f.lseq f.srcMod f.pairSeq []
  let last := bitOf f.last 0
  if f.dstMod.toNat ≠ s.hub.moduleNo then s.relay f
  else
    let s := s.modLink f.srcMod.toNat fun l => { l with beats := if last then [] else l.beats ++ [f] }
    match m with
    | some m => if last then s.packetIn port f m else s
    | none => s

/-- BIRYAR_FLIT_RECEIVE (R348–R350): a flit whose CRC is wrong is NACKed, with the link sequence number that is due; one out of sequence
is not taken; one for another module is relayed. -/
def execBiryarFlitReceive (s : State) : Out :=
  match s.event with
  | .biryarFlitReceive port f m =>
    if flitCrc f ≠ f.crc then .next (s.control port 2 (s.ports[port]).rxSeq 0 0 [])
    else
      match f.kind.toNat with
      | 0 => if f.lseq ≠ (s.ports[port]).rxSeq then .next s else .next (s.dataFlit port f m)
      | 1 =>
        .next (s.modPort port fun p =>
          { p with unacked := p.unacked.filter fun u => (f.lseq - u.lseq).toNat ≥ 32768, lastAck := s.time, retries := 0 })
      | 2 => .next (s.schedule 0 (.biryarNack port f.lseq))
      | 3 => if f.dstMod.toNat ≠ s.hub.moduleNo then .next (s.relay f) else .next (s.ackFlit f)
      | _ => .next s
  | _ => .next s

/-! ### Ports that go down, and paths (R349, R350) -/

/-- Acknowledgements that were on their way over a path that goes down do not arrive, and its packets are sent again. `on` selects its packets,
by module. -/
def State.cutPath (s : State) (on : Nat → PeerPacket → Bool) : State :=
  let mine (l : PeerLink) : List PeerPacket := l.unacked.filter (on l.module)
  let gone (a : AgendaItem) : Bool :=
    match a.what with
    | .endToEndAck m seq => s.links.any fun l => l.module = m && (mine l).any (·.pairSeq = seq)
    | _ => false
  let ms := (s.links.filter fun l => !(mine l).isEmpty).map (·.module)
  ms.foldl (fun s m => s.schedule 0 (.pathResend m)) { s with agenda := s.agenda.filter fun a => !gone a }

/-- A port goes down. -/
def State.downPort (s : State) (port : Fin 16) : State :=
  (s.modPort port fun p => { p with status := putField (putField p.status 0 1 0) 3 1 1, retries := 0, unacked := [] }).cutPath
    fun _ p => p.port = port

/-- PORT_DOWN (R349): a port goes down where no link acknowledgement has arrived for 20 µs while it has kept flits. -/
def execPortDown (s : State) : Out :=
  match s.event with
  | .portDown port =>
    let p := s.ports[port]
    if p.unacked.isEmpty then .next s
    else if s.time < p.lastAck + 32000 then .next (s.schedule (p.lastAck + 32000 - s.time) s.event)
    else .next (s.downPort port)
  | _ => .next s

/-- The die that a packet toward a module was sent from. -/
def senderDie (p : PeerPacket) : DieId := dieOf (((p.copy.map (·.1)).or (p.red.map (·.srcCore))).getD 0)

/-- The bytes with which a packet toward a module is timed: none for a read. -/
def PeerPacket.len (p : PeerPacket) : Nat :=
  match p.red, p.ops with
  | some r, _ => r.tile.length
  | none, .read _ _ _ _ :: _ => 0
  | none, _ => p.bytes

/-- One packet sent again on the next path that is up, with its sequence number; with no path it is lost, and may or may not have
been applied (R301). -/
def State.resend (s : State) (m : Nat) (p : PeerPacket) : State :=
  if s.pathUp m p.port p.via then s
  else
    match (s.livePaths m).head? with
    | some q =>
      let r := { p with port := q.port, via := q.via }
      let s := s.modLink m fun l => { l with unacked := l.unacked.map fun x => if x.pairSeq = p.pairSeq then r else x }
      (s.modPort p.port fun x => { x with status := bumpField x.status 32 1 }).launchPacket m r 0 r.len
    | none =>
      let s := s.modLink m fun l => { l with unacked := l.unacked.filter (·.pairSeq ≠ p.pairSeq) }
      let w : PortWrite := { src := (p.copy.map (·.1)).getD 0, of_ := match p.copy with | some q => .copy q.2 | none => .outside, ops := p.ops }
      let applied := s.choice % 2 = 1
      let s := if applied then p.ops.foldl (fun s o => s.portOp w o) s else s
      s.chosen.peerLost m p (senderDie p)

/-- Packets that wait for a place toward a module to which no path is left are lost. -/
def State.loseHeld (s : State) (m : Nat) (held : List (PeerPacket × Nat × Nat)) : State :=
  if (s.pathPort m).isSome then s
  else held.foldl (fun s h => s.peerLost m h.1 (senderDie h.1)) (s.modLink m fun l => { l with held := [] })

/-- PATH_RESEND (R350). -/
def execPathResend (s : State) : Out :=
  match s.event with
  | .pathResend m =>
    match s.linkTo m with
    | some l => .next ((l.unacked.foldl (fun s p => s.resend m p) s).loseHeld m l.held)
    | none => .next s
  | _ => .next s

/-- Offset in a die's life record of the retries of a lane (R367). -/
def lifeLane (port : Fin 16) (lane : Nat) : Nat := 0x1140 + 8 * (port.val % 4 * 8 + lane)

/-- The lanes that a port runs on: the first, and how many. -/
def portLanes (w : Word) : Nat × Nat := if !bitOf w 1 then (0, 8) else if bitOf w 2 then (4, 4) else (0, 4)

/-- BIRYAR_NACK (R349, R352): the port resends from that flit on, and counts what it resends; a flit that has failed 8 successive retries, after
its first failure, takes the port down, and a lane above its threshold makes the port fall back. The lane that a retry is counted on is a
choice: log entry 21. -/
def execBiryarNack (s : State) : Out :=
  match s.event with
  | .biryarNack port lseq =>
    let p := s.ports[port]
    let again := (p.unacked.filter fun u => (u.lseq - lseq).toNat < 32768).length
    if again = 0 then .next s
    else
      let run := portLanes p.status
      let lane : Fin 8 := Fin.ofNat 8 (run.1 + s.choice % run.2)
      let n := p.laneRetries[lane] + 1
      let fails := if p.retries = 0 || p.failing ≠ lseq then 1 else p.retries + 1
      let s := s.chosen.modPort port fun p =>
        { p with failing := lseq, retries := fails, laneRetries := p.laneRetries.set lane n, status := bumpField p.status 16 again }
      let s := s.lifeAdd (portDie port) (lifeLane port lane.val) 1
      let s := if s.hub.laneLimit.any (· < n) then s.schedule 0 (.laneFallback port lane) else s
      if fails ≤ 8 then .next s
      else
        .next (((s.dieError (portDie port) 12
          { uc := true, kind := 3, unit := port.val % 4, core := none, addr := port.val, info := lseq.toNat }).lifeAdd (portDie port)
            (lifeUncorrectable (85 + port.val % 4)) 1).downPort port)
  | _ => .next s

/-- Every lane of a half passed training. -/
def halfOk (lanes : Nat) (high : Bool) : Bool := lanes / (if high then 16 else 1) % 16 = 15

/-- The status of a port that runs on the lanes that passed training; none where neither half did. -/
def trainedStatus (w : Word) (lanes : Nat) : Option Word :=
  let w := putField w 8 8 lanes
  if lanes % 256 = 255 then some (putField w 0 3 1)
  else if halfOk lanes false then some (putField w 0 3 3)
  else if halfOk lanes true then some (putField w 0 3 7)
  else none

/-- LANE_FALLBACK (R349): the port retrains onto a half that does not hold the lane; its flits are held for the pause of at most
2 µs, and none is lost. -/
def execLaneFallback (s : State) : Out :=
  match s.event with
  | .laneFallback port lane =>
    let d := portDie port
    let s := (s.dieError d 12 { uc := false, kind := 8, unit := port.val % 4, core := none, addr := port.val, info := lane.val }).lifeAdd d
      (lifeCorrectable (85 + port.val % 4)) 1
    let w := (s.ports[port]).status
    let lanes := bitsOf w 8 8
    let left := if lanes / 2 ^ lane.val % 2 = 1 then lanes - 2 ^ lane.val else lanes
    match trainedStatus w left with
    | none => .next (s.downPort port)
    | some st =>
      let s := s.modPort port fun p => { p with status := st, laneRetries := Vector.replicate 8 0 }
      let o := Fin.ofNat 64 (52 + port.val % 4)
      let pause := min s.choice 3200
      .next (s.chosen.modDie d fun x => { x with outs := x.outs.set o { x.outs[o] with freeAt := max x.outs[o].freeAt x.dclk + pause } })
  | _ => .next s

/-- BIRYAR_PORT_TRAINED (R349, R350): the port is up on the lanes that passed; packets not yet sent again use it. -/
def execBiryarPortTrained (s : State) : Out :=
  match s.event with
  | .biryarPortTrained port lanes =>
    match trainedStatus (s.ports[port]).status lanes.toNat with
    | none => .next (s.modPort port fun p => { p with status := putField (putField p.status 8 8 lanes.toNat) 0 1 0 })
    | some st => .next (s.modPort port fun p => { p with status := st, retries := 0, laneRetries := Vector.replicate 8 0 })
  | _ => .next s

/-- The link to a module, made where there is none yet. -/
def State.withLink (s : State) (m : Nat) : State :=
  if (s.linkTo m).isSome then s
  else { s with links := s.links ++ [PeerLink.fresh m] }

/-- A Biryar port's status after a write: DOWN, RETRY and REROUTE are cleared by ones (R352). -/
def clearStatus (w v : Word) : Word :=
  let w := if bitOf v 3 then putField w 3 1 0 else w
  let w := if bitsOf v 16 16 ≠ 0 then putField w 16 16 0 else w
  if bitsOf v 32 16 ≠ 0 then putField w 32 16 0 else w

/-- A slot table of 64 bytes. -/
def slotTable (bs : List Byte) : Vector Byte 64 := Vector.ofFn fun (i : Fin 64) => bs.getD i.val 0

/-- Bytes written by the module OS through a tenant's context, whatever the rights of the pages. -/
def State.osWrite (s : State) (t : TenantId) (va : Nat) (bs : List Byte) : State :=
  (rangePieces va bs.length).foldl (fun s p =>
    match ((s.walk (Fin.ofNat 9 t.val) p.1).bind fun l => l.loc p.1).filter fun l => !s.tier2Down l.sp l.addr with
    | some l => s.writeSpace l.sp (cellsFrom l.addr ((bs.drop (p.1 - va)).take p.2)) false
    | none => s) s

/-! ### Capability records (R375) -/

/-- One record: ID, version 1, LEN, NEXT and the body. -/
def capability (id : Nat) (last : Bool) (body : List Byte) : List Byte :=
  let n := 8 + body.length
  natBytes 2 id ++ natBytes 1 1 ++ natBytes 1 n ++ natBytes 2 (if last then 0 else n) ++ natBytes 2 0 ++ body

/-- The Biryar ports that are up, as a mask. -/
def State.portMask (s : State) : Nat :=
  ((List.finRange 16).map fun p => if s.portUp p then 2 ^ p.val else 0).foldl (· + ·) 0

/-- The records that CAPPTR leads to. DESIGN CHOICE (log entry 99): a number in a body takes 8 bytes; the first body is the ISA version
in 4 bytes and the contract's name in 4. -/
def State.capabilityRecords (s : State) : List Byte :=
  capability 1 false (natBytes 4 1 ++ natBytes 4 0x413557) ++ capability 2 false [] ++ capability 3 false (natBytes 8 256)
    ++ capability 4 false (natBytes 8 8) ++ capability 5 false (natBytes 8 8) ++ capability 6 false (natBytes 8 (65536 * s.tier2Frames))
    ++ capability 7 false (natBytes 8 1024) ++ capability 8 false (natBytes 8 s.portMask) ++ capability 9 false (natBytes 8 (2 ^ 32))
    ++ capability 10 true []

/-- A path toward a module is down, or up, beyond this module's port; what was sent on one that goes down is sent again (R350). -/
def State.setPath (s : State) (m k : Nat) (up : Bool) : State :=
  match ((s.linkTo m).bind fun l => l.paths[k]?) with
  | none => s
  | some x =>
    let s := s.modLink m fun l => { l with paths := l.paths.set k { x with down := !up } }
    if up then s else s.cutPath fun n p => n = m && p.port = x.port && p.via = x.via

/-- Some running kernel's tenant would have less than the record's SHARE (R317). -/
def State.shareBroken (s : State) : Bool :=
  s.kernels.any fun k => k.started && k.saved.isNone && s.shareBad k.tenant k.record (diesOf k.cores)

/-- A slot table written: the module OS never lowers an owner's entries below the SHARE of a running kernel of that owner (R317). -/
def State.putTable (s t : State) : State := if t.shareBroken then s else t

/-! ### The hub's management window (R352, R362, R363) -/

/-- What an offset of the window names: the status of a port, or a register of an error bank: die 4 is the hub. -/
inductive WindowReg
  | status (port : Fin 16)
  | bank (die : Fin 5) (bank : Fin 16) (reg : Fin 5)
deriving DecidableEq, Repr

/-- The register at an offset of the window. -/
def windowReg (off : Nat) : Option WindowReg :=
  if off % 8 ≠ 0 then none
  else if 0x1000 ≤ off && off < 0x1080 then some (.status (Fin.ofNat 16 ((off - 0x1000) / 8)))
  else
    let n := (off - 0x2000) / 0x40
    let r := (off - 0x2000) % 0x40 / 8
    if 0x2000 ≤ off && n < 68 && r < 5 then some (.bank (Fin.ofNat 5 (n / 16)) (Fin.ofNat 16 (n % 16)) (Fin.ofNat 5 r)) else none

/-- An error bank. -/
def State.bankOf (s : State) (die : Fin 5) (bank : Fin 16) : ErrorBank :=
  if h : die.val < 4 then (s.die ⟨die.val, h⟩).banks[bank]
  else if h : bank.val < 4 then s.hub.banks[bank.val] else ErrorBank.empty

/-- What the module OS reads there; nothing stands elsewhere. -/
def State.windowRead (s : State) (off : Nat) : Word :=
  match windowReg off with
  | some (.status p) => (s.ports[p]).status
  | some (.bank d b r) =>
    let x := s.bankOf d b
    match r.val with
    | 0 => x.stat | 1 => x.addr | 2 => x.info | 3 => x.time | _ => x.ce.setWidth 64
  | none => 0

/-- A write there. -/
def State.windowWrite (s : State) (off : Nat) (v : Word) : State :=
  match windowReg off with
  | some (.status p) => s.modPort p fun x => { x with status := clearStatus x.status v }
  | some (.bank d b r) =>
    if r = 0 then s.modBank d b fun x => x.writeStat v
    else if r = 4 then s.modBank d b fun x => x.writeCe v
    else s
  | none => s

/-! ### HBM frames of a retired channel (R365) -/

/-- A frame of HBM copied to another, with its marks, and its leaf led there. -/
def State.moveFrame (s : State) (src dst pte : Nat) : State :=
  let bs := s.readSpace .hbm (65536 * src) 65536
  let marked := s.hbm.marks.filter fun g => g / 1024 = src
  let s := s.writeSpace .hbm (cellsFrom (65536 * dst) bs) false
  let s := marked.foldl (fun s g => s.markLine .hbm (1024 * dst + g % 1024)) s
  let w := Memory.readNat s.hbm.mem pte 8
  s.installPtes [(pte, BitVec.ofNat 64 (w % 65536 + dst * 65536))]

/-- A write of the module OS (R126, R267, R317, R323, R349, R350, R352, R362, R365, R370, R375): a module has at most four paths, and a page is
open to the host of the tenant in whose context it lies. -/
def State.osPut (s : State) (w : OsWrite) : State :=
  match w with
  | .status port v => s.modPort port fun p => { p with status := clearStatus p.status v }
  | .pairing m pairs => (s.withLink m).modLink m fun l => { l with pairing := pairs }
  | .paths m ports => (s.withLink m).modLink m fun l => { l with paths := (ports.take 4).map fun p => ⟨p.1, p.2, false⟩ }
  | .slots d out table => s.putTable (s.modOut d out fun o => { o with slots := slotTable table })
  | .cxlSlots port table => s.putTable { s with hub := { s.hub with cxlSlots := s.hub.cxlSlots.set port (slotTable table) } }
  | .pte addr v => s.installPtes [(addr, v)]
  | .visible t va on => s.modTenant t fun k =>
      { k with visible := if on then k.visible.insert (va / 65536) else k.visible.remove (va / 65536) }
  | .breakpoints c l => s.modCore c fun k => { k with breakpoints := l }
  | .laneLimit n => { s with hub := { s.hub with laneLimit := some n } }
  | .pathState m k up => s.setPath m k up
  | .capabilities t => s.osWrite t Config.capPtr.toNat s.capabilityRecords
  | .saveArea t base => s.modTenant t fun k => { k with saveArea := base }
  | .mmio off v => s.windowWrite off v
  | .readWindow off => { s with hub := { s.hub with windowData := s.windowRead off } }
  | .moveFrame src dst pte => s.moveFrame src dst pte
  | .root ctx base => if h : ctx.val < 8 then s.modTenant ⟨ctx.val, h⟩ fun k => { k with root := base } else { s with osRoot := base }

/-- BIRYAR_STATUS_WRITE (R126, R267, R317, R323, R349, R350, R352, R362, R365, R370, R375): the module OS writes the hub's management window, or a
table that it owns, or reads the window. -/
def execBiryarStatusWrite (s : State) : Out :=
  match s.event with
  | .biryarStatusWrite w => .next (s.osPut w)
  | _ => .next s

end Sys2Proof.Machine
end

