-- ==== Sys2Proof/Machine/Branch.lean ====
section
/-! DEFINITION. Branches, jumps and hardware loops: S majors 0x16, 0x17, 0x1D, L majors 0x06–0x08, LBRK (R101–R112). -/

namespace Sys2Proof.Machine

/-- The close of a branch-class issue: the chain takes the target, or seq(c2), and the slots' annulment (R105). -/
def State.endBranch (s : State) (i : Instr) (target : Option Word) (annul : Bool) : State :=
  let c0 := s.cpu.chain.c0
  let r := match target with | some t => (t, s) | none => s.seq s.cpu.chain.c2
  let guess := target.isNone && s.guesses
  r.2.modCpu fun c => c.passed r.1 annul true guess (c0.toNat + 4 * (encode i).length - 4)

/-- A target in signed parcels from the branch's own address. -/
def relTarget {n : Nat} (c : Core) (disp : BitVec n) : Word := c.chain.c0 + disp.signExtend 64 * 4#64

/-- The annulment of NUL (R105). -/
def annuls (nul : Nul) (taken : Bool) : Bool :=
  match nul with | .none => false | .notTaken => !taken | .taken => taken

/-- A conditional branch; its outcome is one further parcel of the signature (R118), except for BRA. -/
def branchIssue {n : Nat} (i : Instr) (cond : Core → Bool) (nul : Nul) (disp : BitVec n) (feeds : Bool) (s : State) : Out :=
  match issueCheck i s.cpu with
  | some (k, b) => .next (s.preciseTrap k b)
  | none =>
    let s := s.beginIssue i
    let taken := cond s.cpu
    let s := if feeds then s.modCpu fun c => c.feed (if taken then 1 else 0) else s
    .next (s.endBranch i (if taken then some (relTarget s.cpu disp) else none) (annuls nul taken))

/-- A branch that compares two registers (R103). -/
def brIssue (i : Instr) (f : Word → Word → Bool) (a b : Reg) (nul : Nul) (disp : BitVec 9) (s : State) : Out :=
  branchIssue i (fun c => f (c.readX a) (c.readX b)) nul disp true s

/-- A branch that compares with a 16-bit literal (R104). -/
def briIssue (i : Instr) (f : Word → Word → Bool) (a : Reg) (v : Word) (nul : Nul) (disp : BitVec 16) (s : State) : Out :=
  branchIssue i (fun c => f (c.readX a) v) nul disp true s

def execBeq (a b : Reg) (nul : Nul) (disp : BitVec 9) (s : State) : Out :=
  brIssue (.beq a b nul disp) (fun x y => x = y) a b nul disp s
def execBne (a b : Reg) (nul : Nul) (disp : BitVec 9) (s : State) : Out :=
  brIssue (.bne a b nul disp) (fun x y => x ≠ y) a b nul disp s
def execBlt (a b : Reg) (nul : Nul) (disp : BitVec 9) (s : State) : Out :=
  brIssue (.blt a b nul disp) (fun x y => x.slt y) a b nul disp s
def execBge (a b : Reg) (nul : Nul) (disp : BitVec 9) (s : State) : Out :=
  brIssue (.bge a b nul disp) (fun x y => !x.slt y) a b nul disp s
def execBltu (a b : Reg) (nul : Nul) (disp : BitVec 9) (s : State) : Out :=
  brIssue (.bltu a b nul disp) (fun x y => x.ult y) a b nul disp s
def execBgeu (a b : Reg) (nul : Nul) (disp : BitVec 9) (s : State) : Out :=
  brIssue (.bgeu a b nul disp) (fun x y => !x.ult y) a b nul disp s
def execBra (nul : Nul) (disp : BitVec 9) (s : State) : Out :=
  branchIssue (.bra nul disp) (fun _ => true) nul disp false s

def execBeqi (a : Reg) (nul : Nul) (v disp : BitVec 16) (s : State) : Out :=
  briIssue (.beqi a nul v disp) (fun x y => x = y) a (v.signExtend 64) nul disp s
def execBnei (a : Reg) (nul : Nul) (v disp : BitVec 16) (s : State) : Out :=
  briIssue (.bnei a nul v disp) (fun x y => x ≠ y) a (v.signExtend 64) nul disp s
def execBlti (a : Reg) (nul : Nul) (v disp : BitVec 16) (s : State) : Out :=
  briIssue (.blti a nul v disp) (fun x y => x.slt y) a (v.signExtend 64) nul disp s
def execBgei (a : Reg) (nul : Nul) (v disp : BitVec 16) (s : State) : Out :=
  briIssue (.bgei a nul v disp) (fun x y => !x.slt y) a (v.signExtend 64) nul disp s
def execBltui (a : Reg) (nul : Nul) (v disp : BitVec 16) (s : State) : Out :=
  briIssue (.bltui a nul v disp) (fun x y => x.ult y) a (v.setWidth 64) nul disp s
def execBgeui (a : Reg) (nul : Nul) (v disp : BitVec 16) (s : State) : Out :=
  briIssue (.bgeui a nul v disp) (fun x y => !x.ult y) a (v.setWidth 64) nul disp s

/-- A jump: the link seq(c2) lands in XD one S-cycle later (R105); the target is formed first (R106). -/
def jumpEffect (i : Instr) (d : Reg) (target : Word) (s : State) : State :=
  let s := s.beginIssue i
  let link := (s.seq s.cpu.chain.c2).1
  (s.resultX 1 d link).endBranch i (some target) false

/-- JAL (R106). -/
def execJal (d : Reg) (disp : BitVec 32) (s : State) : Out :=
  let i := Instr.jal d disp
  match issueCheck i s.cpu with
  | some (k, b) => .next (s.preciseTrap k b)
  | none => .next (jumpEffect i d (relTarget s.cpu disp) s)

/-- JALR (R106): a target that is no multiple of 4 is a misaligned access, precise. -/
def execJalr (d a : Reg) (imm : BitVec 14) (s : State) : Out :=
  let i := Instr.jalr d a imm
  let target := s.cpu.readX a + imm.signExtend 64
  match issueCheck i s.cpu with
  | some (k, b) => .next (s.preciseTrap k b)
  | none =>
    if target.toNat % 4 ≠ 0 then .next (s.preciseTrap .misaligned target)
    else .next (jumpEffect i d target s)

/-! ### Hardware loops (R108–R112) -/

/-- The loop registers of one level written by LOOP or LOOPI, with FTI's write of FTLVL (R109). -/
def Core.openLevel (c : Core) (lvl : Fin 4) (count : Word) (first last : Nat) (rot fti : Bool) : Core :=
  { c with
    lc := c.lc.set lvl count, fc := c.fc.set lvl count.toNat,
    lb := c.lb.set lvl (BitVec.ofNat 64 (first % 2 ^ 48)),
    le := c.le.set lvl (BitVec.ofNat 64 (last % 2 ^ 48 + if rot then 2 ^ 48 else 0)),
    order := c.order.filter (· ≠ lvl) ++ [lvl],
    ftlvl := if fti then BitVec.ofNat 8 (lvl.val + 4) else c.ftlvl }

/-- A new body nests: its level is closed and it lies within every open level's body (R109). -/
def Core.nests (c : Core) (lvl : Fin 4) (first last : Nat) : Bool :=
  !c.levelOpen lvl && c.innermost.all fun k => c.levelBegin k ≤ first && last ≤ c.levelEnd k

/-- LOOP and LOOPI (R109). The checks come before any effect; the levels that this issue leaves close first (R112). The entries of
the chain are dropped, and with them the loop-backs that they held (R101). -/
def loopIssue (i : Instr) (lvl : Fin 4) (rot fti : Bool) (count : Word) (len : Nat) (s : State) : Out :=
  match issueCheck i s.cpu with
  | some (k, b) => .next (s.preciseTrap k b)
  | none =>
    let c0 := s.cpu.chain.c0
    let own := 4 * (encode i).length
    let first := c0.toNat + own
    let last := first + 4 * len - 4
    if count ≠ 0 && !(s.cpu.closeExited c0).nests lvl first last then .next (s.preciseTrap .loopNesting c0)
    else
      let s := s.beginIssue i
      let s := if count = 0 then s else s.modCpu fun c => c.openLevel lvl count first last rot fti
      let n1 := BitVec.ofNat 64 (if count = 0 then last + 4 else first)
      let s := s.modCpu Core.refill
      let r1 := s.seq n1
      let r2 := r1.2.seq r1.1
      let u := !s.reads s.cur n1
      .next (r2.2.modCpu fun c =>
        { ({ c with chain := ⟨n1, r1.1, r2.1, false, false, false, c.chain.prior1, u, u || !s.reads s.cur r1.1⟩ } : Core).finishBody
            (c0.toNat + own - 4) with
          issued := true, seqNo := c.seqNo + 1, skipBreak := false })

def execLoop (lvl : Fin 4) (rot fti : Bool) (a : Reg) (len : BitVec 14) (s : State) : Out :=
  loopIssue (.loop lvl rot fti a len) lvl rot fti (s.cpu.readX a) len.toNat s

def execLoopi (lvl : Fin 4) (rot fti : Bool) (len : BitVec 9) (count : BitVec 32) (s : State) : Out :=
  loopIssue (.loopi lvl rot fti len count) lvl rot fti (count.setWidth 64) len.toNat s

/-- LBRK: level `lvl` and every open level whose body lies within its body close (R112). -/
def Core.breakLevel (c : Core) (lvl : Fin 4) : Core :=
  if !c.levelOpen lvl then c
  else
    let inside (k : Fin 4) : Bool :=
      k = lvl || (c.levelOpen k && c.levelBegin lvl ≤ c.levelBegin k && c.levelEnd k ≤ c.levelEnd lvl)
    { c with lc := Vector.ofFn fun k => if inside k then 0 else c.lc[k], order := c.order.filter fun k => !inside k }

def execLbrk (lvl : Fin 4) (s : State) : Out :=
  s.issue (.lbrk lvl) noFault fun s => s.modCpu fun c => c.breakLevel lvl

end Sys2Proof.Machine
end

