-- ==== Sys2Proof/Machine/Cfg.lean ====
section
/-! DEFINITION. Configuration instructions, SX major 0x22 (R146–R148). -/

namespace Sys2Proof.Machine

def execVwset (i a b : Reg) (s : State) : Out :=
  s.issue (.vwset i a b) noFault fun s => s.modCpu fun c => { c with vw := c.vw.set i (c.readX b ++ c.readX a) }

/-- VWGET returns the 128 bits that VWSET has stored (R146). DEDUCED (log entry 116): the reserved bits among them, too, read as they were
written. -/
def execVwget (d i : Reg) (s : State) : Out :=
  s.issue (.vwget d i) noFault fun s =>
    let v := s.cpu.vw[i]
    s.resultXs 2 [(d, v.setWidth 64), (regPlus d 1, (v >>> 64).setWidth 64)]

/-- SHPSET faults on XA[63:14] ≠ 0. -/
def execShpset (a : Reg) (s : State) : Out :=
  s.issue (.shpset a)
    (fun s => if bitsOf (s.cpu.readX a) 14 50 ≠ 0 then some (.shapeLimit, s.cpu.readX a) else none)
    fun s => s.modCpu fun c => { c with shp := (c.readX a).setWidth 14 }

def execFtset (i : Fin 16) (a : Reg) (s : State) : Out :=
  s.issue (.ftset i a) noFault fun s =>
    s.modCpu fun c => { c with ft := c.ft.set i ((c.readX a).setWidth 29 |>.setWidth 32) }

/-- The mask with bits `lo` to `lo + n − 1` set. -/
def maskRun (lo n : Nat) : BitVec 4096 := BitVec.ofNat 4096 ((2 ^ n - 1) * 2 ^ lo)

/-- MSET: lands at issue + 1. -/
def execMset (i a b : Reg) (s : State) : Out :=
  s.issue (.mset i a b)
    (fun s => if (s.cpu.readX a).toNat + (s.cpu.readX b).toNat > 4096 then some (.shapeLimit, s.cpu.readX a) else none)
    fun s =>
      let k := Fin.ofNat 8 i.val
      let v := maskRun (s.cpu.readX a).toNat (s.cpu.readX b).toNat
      if s.cpu.trapMode then s.modCpu fun c => { c with masks := c.masks.set k v }
      else s.modCpu fun c => c.landLater 1 [.mask k v] [.mask k]

/-- ROFF of a view replaced (R13). -/
def setRoff (v : BitVec 128) (r : Nat) : BitVec 128 :=
  BitVec.ofNat 128 (v.toNat % 2 ^ 103 + r % 2 ^ 12 * 2 ^ 103 + v.toNat / 2 ^ 115 * 2 ^ 115)

/-- ROTSET faults on a view without rotation, XA[63:12] ≠ 0, or XA ≥ RWIN. -/
def execRotset (i a : Reg) (s : State) : Out :=
  s.issue (.rotset i a)
    (fun s =>
      let rwin := bitsOf s.cpu.vw[i] 77 12
      if rwin = 0 || (s.cpu.readX a).toNat ≥ 4096 || (s.cpu.readX a).toNat ≥ rwin
      then some (.viewBounds, BitVec.ofNat 64 i.val) else none)
    fun s => s.modCpu fun c => { c with vw := c.vw.set i (setRoff c.vw[i] (c.readX a).toNat) }

end Sys2Proof.Machine
end

