-- ==== Sys2Proof/Machine/Csr.lean ====
section
/-! DEFINITION. Control registers: the map of R32–R37, R110, R124 and the CSR instructions (R97–R100). -/

namespace Sys2Proof.Machine

/-- The control registers of R32. -/
inductive Csr
  | sclk | dclk | coreid | groupid | kernid | tenant | mode | shp | vstat | detst | guardst
  | lc (k : Fin 4) | lb (k : Fin 4) | le (k : Fin 4) | ftlvl | segcnt | segsig | cause | badaddr
  | xpc (k : Fin 3) | tvec | utvec | tstatus | wrcal | ft (k : Fin 16) | tokst | evqst | xsav (k : Fin 8) | capptr
deriving DecidableEq, Repr

/-- The register of an index; none where R32 lists none. -/
def csrOf (i : BitVec 10) : Option Csr :=
  let n := i.toNat
  if n = 0x000 then some .sclk
  else if n = 0x001 then some .dclk
  else if n = 0x002 then some .coreid
  else if n = 0x003 then some .groupid
  else if n = 0x004 then some .kernid
  else if n = 0x005 then some .tenant
  else if n = 0x008 then some .mode
  else if n = 0x009 then some .shp
  else if n = 0x00A then some .vstat
  else if n = 0x00B then some .detst
  else if n = 0x00C then some .guardst
  else if 0x010 ≤ n && n < 0x014 then some (.lc (Fin.ofNat 4 n))
  else if 0x014 ≤ n && n < 0x018 then some (.lb (Fin.ofNat 4 n))
  else if 0x018 ≤ n && n < 0x01C then some (.le (Fin.ofNat 4 n))
  else if n = 0x01C then some .ftlvl
  else if n = 0x020 then some .segcnt
  else if n = 0x021 then some .segsig
  else if n = 0x030 then some .cause
  else if n = 0x031 then some .badaddr
  else if 0x032 ≤ n && n < 0x035 then some (.xpc (Fin.ofNat 3 (n - 0x032)))
  else if n = 0x035 then some .tvec
  else if n = 0x036 then some .utvec
  else if n = 0x038 then some .tstatus
  else if n = 0x040 then some .wrcal
  else if 0x050 ≤ n && n < 0x060 then some (.ft (Fin.ofNat 16 n))
  else if n = 0x060 then some .tokst
  else if n = 0x070 then some .evqst
  else if 0x0C0 ≤ n && n < 0x0C8 then some (.xsav (Fin.ofNat 8 n))
  else if n = 0x3F0 then some .capptr
  else none

/-- SEGCNT (R117): S-cycles since SEGB in bits 15:0, and bit 16 once the count has passed 65,535. -/
def segCount (n : Nat) : Nat := n % 65536 + (if n > 65535 then 65536 else 0)

/-- SCLK as a program reads it: the S-cycle of issue, frozen in trap mode (R38, R100). -/
def Core.readSclk (c : Core) : Nat := c.sclk - (if c.trapMode && !c.sOpen then 1 else 0)

/-- Die cycles until a bank group's deadline (R263). -/
def untilDeadline (d : Die) (g : BankGroup) : Nat := g.lastStart + 102400 - d.dclk

/-- WRCAL of a die (R36, R263). -/
def Die.wrcal (d : Die) : Nat :=
  let left := d.groups.toList.map (untilDeadline d)
  let due := left.foldl min (102400 + d.dclk)
  let next := left.findIdx (· = due)
  let soon := (left.zipIdx.filter fun p => p.1 ≤ 8192).foldl (fun n p => n + 2 ^ p.2) 0
  next + min due (2 ^ 24 - 1) * 2 ^ 8 + soon * 2 ^ 32

/-- STATUS of a completion record (R233). -/
def EvRecord.status (r : EvRecord) : Nat := bitsOf r.lo 52 4

/-- EVQST of a core (R36). -/
def Core.evqst (c : Core) : Nat :=
  c.evq.length % 128 + c.evqPend % 128 * 2 ^ 8 + (if c.evq.any fun r => r.status ≠ 0 then 2 ^ 16 else 0)

/-- TOKST of a core: ten nibbles from bits 3:0 upward (R36). -/
def Core.tokst (c : Core) : Nat := c.tokens.toList.zipIdx.foldl (fun n p => n + p.1.toNat * 16 ^ p.2) 0

/-- COREID of a core (R33). -/
def coreIdWord (c : CoreId) : Nat := c.val % 32 + c.val / 32 * 32 + c.val * 128

/-- What a control register reads as, for the core in focus. -/
def State.csrRead (s : State) (r : Csr) : Word :=
  let c := s.cpu
  match r with
  | .sclk => BitVec.ofNat 64 c.readSclk
  | .dclk => BitVec.ofNat 64 (s.now s.cur)
  | .coreid => BitVec.ofNat 64 (coreIdWord s.cur)
  | .groupid => c.groupid
  | .kernid => c.kernid.setWidth 64
  | .tenant => BitVec.ofNat 64 c.tenant.val
  | .mode => c.mode
  | .shp => c.shp.setWidth 64
  | .vstat => c.vstat.setWidth 64
  | .detst => c.detst
  | .guardst => c.guardst.setWidth 64
  | .lc k => c.lc[k]
  | .lb k => c.lb[k]
  | .le k => c.le[k]
  | .ftlvl => c.ftlvl.setWidth 64
  | .segcnt => if c.seg.open_ then BitVec.ofNat 64 (segCount (c.readSclk - c.seg.start)) else c.seg.count.setWidth 64
  | .segsig => if c.seg.open_ then (~~~c.seg.crc).setWidth 64 else c.seg.sig.setWidth 64
  | .cause => c.cause
  | .badaddr => c.badaddr
  | .xpc k => if k = 0 then c.xpc0 else if k = 1 then c.xpc1 else c.xpc2
  | .tvec => c.tvec
  | .utvec => c.utvec
  | .tstatus => c.tstatus.setWidth 64
  | .wrcal => BitVec.ofNat 64 (s.die (dieOf s.cur)).wrcal
  | .ft k => c.ft[k].setWidth 64
  | .tokst => BitVec.ofNat 64 c.tokst
  | .evqst => BitVec.ofNat 64 c.evqst
  | .xsav k => c.x[Fin.ofNat 32 (24 + k.val)]
  | .capptr => Config.capPtr.setWidth 64

/-- The RW bits of a register, in and outside trap mode (R32, R34–R36, R110, R124). -/
def csrRw (r : Csr) (trap : Bool) : Word :=
  match r with
  | .mode => 0x118
  | .shp => 0x3FFF
  | .lc _ => if trap then BitVec.allOnes 64 else 0
  | .lb _ => if trap then 0xFFFFFFFFFFFF else 0
  | .le _ => if trap then 0x1FFFFFFFFFFFF else 0
  | .ftlvl => 0xF7
  | .xpc _ => if trap then 0xFFFFFFFFFFFF else 0
  | .tvec | .utvec | .xsav _ => BitVec.allOnes 64
  | .tstatus => if trap then 0x780 else 0
  | .ft _ => 0x1FFFFFFF
  | _ => 0

/-- The W1C bits of a register (R35). -/
def csrW1c : Csr → Word
  | .vstat => 0x1F
  | .detst => 0x3
  | .guardst => 0x30000000
  | _ => 0

/-- A loop count written by a handler opens or closes its level (R110). -/
def Core.setCount (c : Core) (k : Fin 4) (v : Word) : Core :=
  { c with lc := c.lc.set k v,
           order := if v = 0 then c.order.filter (· ≠ k) else if c.order.contains k then c.order else c.order ++ [k] }

/-- A register given a whole new value. A chain that a handler has written stands as written (R127). -/
def Core.csrPut (c : Core) (r : Csr) (v : Word) : Core :=
  match r with
  | .mode => { c with mode := v }
  | .shp => { c with shp := v.setWidth 14 }
  | .vstat => { c with vstat := v.setWidth 5 }
  | .detst => { c with detst := v }
  | .guardst => { c with guardst := v.setWidth 30 }
  | .lc k => c.setCount k v
  | .lb k => { c with lb := c.lb.set k v }
  | .le k => { c with le := c.le.set k v }
  | .ftlvl => { c with ftlvl := v.setWidth 8 }
  | .xpc k =>
    let c := { c with xguess := (false, false) }
    if k = 0 then { c with xpc0 := v } else if k = 1 then { c with xpc1 := v } else { c with xpc2 := v }
  | .tvec => { c with tvec := v }
  | .utvec => { c with utvec := v }
  | .tstatus => { c with tstatus := v.setWidth 11 }
  | .ft k => { c with ft := c.ft.set k (v.setWidth 32) }
  | .xsav k => { c with x := c.x.set (Fin.ofNat 32 (24 + k.val)) v }
  | _ => c

/-- The kinds of a CSR access. -/
inductive CsrOp | read | write | set | clear
deriving DecidableEq, Repr

/-- The new value of a register (R98): RW bits take the operation, W1C bits written as 1 are cleared except by CSRC, and a 1
written to GUARDST.VALID clears BANK and OFFSET too (R35). -/
def csrNew (r : Csr) (trap : Bool) (op : CsrOp) (old a : Word) : Word :=
  let rw := csrRw r trap
  let f := match op with | .read => old | .write => a | .set => old ||| a | .clear => old &&& ~~~a
  let w1c := match op with | .write | .set => a &&& csrW1c r | _ => 0
  let v := ((old &&& ~~~rw) ||| (f &&& rw)) &&& ~~~w1c
  if r = .guardst && bitOf w1c 28 then v &&& ~~~0xFFFFFFF else v

/-- The operation does write: CSRS and CSRC with X0 do not (R98). -/
def csrWrites (op : CsrOp) (a : Reg) : Bool :=
  match op with | .read => false | .write => true | .set | .clear => a ≠ 0

/-- The faults of R98. -/
def csrFault (idx : BitVec 10) (op : CsrOp) (a : Reg) (s : State) : Option (Cause × Word) :=
  let c := s.cpu
  let bad := some (.illegalInstruction, c.chain.c0)
  match csrOf idx with
  | none => bad
  | some .tvec => if !c.trapMode || c.userHandler then bad else none
  | some (.xsav _) => if !c.trapMode then bad else none
  | some (.lc _) | some (.lb _) | some (.le _) => if csrWrites op a && !c.trapMode then bad else none
  | _ => none

/-- A CSR instruction: XD receives the old value at issue + 2, the write takes effect for what issues after it. -/
def csrIssue (i : Instr) (op : CsrOp) (d a : Reg) (idx : BitVec 10) (s : State) : Out :=
  s.issue i (csrFault idx op a) fun s =>
    match csrOf idx with
    | none => s
    | some r =>
      let old := s.csrRead r
      let v := s.cpu.readX a
      let s := if csrWrites op a then s.modCpu fun c => c.csrPut r (csrNew r c.trapMode op old v) else s
      s.resultX 2 d old

def execCsrr (d : Reg) (idx : BitVec 10) (s : State) : Out := csrIssue (.csrr d idx) .read d 0 idx s
def execCsrw (d a : Reg) (idx : BitVec 10) (s : State) : Out := csrIssue (.csrw d a idx) .write d a idx s
def execCsrs (d a : Reg) (idx : BitVec 10) (s : State) : Out := csrIssue (.csrs d a idx) .set d a idx s
def execCsrc (d a : Reg) (idx : BitVec 10) (s : State) : Out := csrIssue (.csrc d a idx) .clear d a idx s

end Sys2Proof.Machine
end

