-- ==== Sys2Proof/Machine/Nodes.lean ====
section
/-! DEFINITION. The other graph nodes (R262, R307, R308) and the choice of the next activation (R309). -/

namespace Sys2Proof.Machine

/-- A node's fields, taken from the pending activations; none where its 64 bytes cannot be read. DESIGN CHOICE (log entry 112): such a node is
malformed. -/
def State.openNode (s : State) (a : Activation) : State × Option (List Byte) :=
  let s := s.takeActivation a
  (s, s.nodeBytes a.tenant a.gbase a.node)

/-- A node that has ended without error. -/
def State.nodeDone (s : State) (a : Activation) : State := s.successors a true

/-! ### COND and LOOP -/

/-- An aligned, mapped and unmarked 8-byte word; none otherwise (R307). -/
def State.graphWord (s : State) (t : TenantId) (va : Nat) : Option Word :=
  if va % 8 ≠ 0 then none
  else
    match s.readVa t va 8 with
    | some (bs, false) => some (BitVec.ofNat 64 (bytesNat bs))
    | _ => none

/-- The condition of a COND node. -/
def condHolds (op : Nat) (w imm : Word) : Bool :=
  match op with
  | 0 => w = imm
  | 1 => w ≠ imm
  | 2 => w.toInt < imm.toInt
  | 3 => imm.toInt ≤ w.toInt
  | 4 => w.toNat < imm.toNat
  | 5 => imm.toNat ≤ w.toNat
  | _ => w &&& imm ≠ 0

/-- One successor of a COND or LOOP node, where there is one: ready within 40 ns, 64 die cycles (R309). -/
def State.follow (s : State) (a : Activation) (n : Nat) (known : List (CoreId × Nat)) : State :=
  if n = noNode then s else s.chosen.accept a.tenant n a.gbase a.gcount none (s.choice % 65) known

/-- What the acquire of a COND or LOOP node takes: the releases at DEVICE scope or wider that its word carries (R294, R295). -/
def State.wordGain (s : State) (a : Activation) (va : Nat) : List (CoreId × Nat) :=
  match s.placeOf a.tenant va .read with
  | some l => ((s.heardAt l.sp l.addr 8).filter fun r => 4 ≤ scopeCode r.2.scope).foldl (fun m r => mergeKnown m r.2.known) a.known
  | none => a.known

/-- A node's release: bytes that it has written carry everything that it has acquired (R294, R308). A node is no core; at these scopes every
core is reached. -/
def State.nodeRelease (s : State) (l : Loc) (n : Nat) (sc : Scope) (known : List (CoreId × Nat)) : State :=
  s.setFlags l.sp l.addr n 0 [⟨sc, known⟩]

def condMalformed (bs : List Byte) : Bool := !headerOk bs || !vaField bs 16 || 6 < bytesAt bs 32 1 || bytesAt bs 33 31 ≠ 0

/-- COND_NODE: NEXT where the condition holds, else ALT. -/
def execCondNode (s : State) : Out :=
  match s.event with
  | .condNode a =>
    match s.openNode a with
    | (s, none) => .next (s.nodeError a 1)
    | (s, some bs) =>
      if condMalformed bs then .next (s.nodeError a 1)
      else
        match s.graphWord a.tenant (bytesAt bs 16 8) with
        | none => .next (s.nodeError a 2)
        | some w =>
          let yes := condHolds (bytesAt bs 32 1) w (BitVec.ofNat 64 (bytesAt bs 24 8))
          .next (s.follow a (bytesAt bs (if yes then 4 else 8) 4) (s.wordGain a (bytesAt bs 16 8)))
  | _ => .next s

def loopMalformed (bs : List Byte) : Bool := !headerOk bs || !vaField bs 16 || bytesAt bs 24 40 ≠ 0

/-- LOOP_NODE: a non-zero counter is decremented and the body is taken, else the exit; the counter goes on carrying what it carried, and carries the
node's release. -/
def execLoopNode (s : State) : Out :=
  match s.event with
  | .loopNode a =>
    match s.openNode a with
    | (s, none) => .next (s.nodeError a 1)
    | (s, some bs) =>
      let va := bytesAt bs 16 8
      if loopMalformed bs then .next (s.nodeError a 1)
      else
        match s.graphWord a.tenant va, s.placeOf a.tenant va .write with
        | some w, some l =>
          let known := s.wordGain a va
          if w = 0 then .next (s.follow a (bytesAt bs 8 4) known)
          else
            let carried := s.heardAt l.sp l.addr 8
            let s := s.writeVa a.tenant va (natBytes 8 (w.toNat - 1))
            let s := carried.foldl (fun (s : State) r => s.setFlags l.sp l.addr 8 r.1 [r.2]) s
            .next ((s.nodeRelease l 8 .device known).follow a (bytesAt bs 4 4) known)
        | _, _ => .next (s.nodeError a 2)
  | _ => .next s

/-! ### JOIN, SIGNAL, END -/

def joinMalformed (bs : List Byte) : Bool :=
  !headerOk bs || bytesAt bs 16 4 = 0 || 65535 < bytesAt bs 16 4 || bytesAt bs 24 40 ≠ 0

/-- What the activations that a JOIN has counted so far release (R308). -/
def State.joined (s : State) (a : Activation) : List (CoreId × Nat) :=
  ((s.joins.find? fun j => j.1 = (a.tenant, a.gbase, a.node)).map (·.2)).getD []

/-- That record replaced; none where the JOIN starts anew. -/
def State.setJoined (s : State) (a : Activation) (known : Option (List (CoreId × Nat))) : State :=
  let key := (a.tenant, a.gbase, a.node)
  { s with joins := (known.map fun m => (key, m)).toList ++ s.joins.filter fun j => j.1 ≠ key }

/-- JOIN_NODE: the COUNT-th activation succeeds, sets ARRIVED back to 0 and acquires them all; the others are counted in the node. -/
def execJoinNode (s : State) : Out :=
  match s.event with
  | .joinNode a =>
    match s.openNode a with
    | (s, none) => .next (s.nodeError a 1)
    | (s, some bs) =>
      if joinMalformed bs then .next (s.nodeError a 1)
      else
        let n := bytesAt bs 20 4 + 1
        let put (s : State) (n : Nat) : State := s.writeVa a.tenant (a.gbase + 64 * a.node + 20) (natBytes 4 n)
        let known := mergeKnown (s.joined a) a.known
        if n = bytesAt bs 16 4 then .next (((put s 0).setJoined a none).nodeDone { a with known }) else .next ((put s n).setJoined a (some known))
  | _ => .next s

def signalMalformed (bs : List Byte) : Bool :=
  !headerOk bs || !vaField bs 16 || 3 < bytesAt bs 32 1 || 2047 < bytesAt bs 33 2 || bytesAt bs 35 29 ≠ 0

/-- The target of a SIGNAL: HOST or HBM, mapped for writing. -/
def State.signalPlace (s : State) (t : TenantId) (va : Nat) : Option Loc :=
  (s.placeOf t va .write).filter fun l => l.sp = .host || l.sp = .hbm

/-- The store of a SIGNAL, a release of HOST scope. -/
def State.signalStore (s : State) (a : Activation) (va : Nat) (bs : List Byte) : State :=
  let t := s.writeVa a.tenant va bs
  match s.signalPlace a.tenant va with
  | some l => t.nodeRelease l 8 .host a.known
  | none => t

/-- The function whose MSI-X vectors are a tenant's: its virtual function, or the physical function while virtual function 1 is disabled
(R368). -/
def State.functionOf (s : State) (t : TenantId) : Fin 9 := if t = 0 && !(s.tenantOf 0).vf then 0 else Fin.ofNat 9 (t.val + 1)

/-- SIGNAL_NODE: the store as a HOST release, then the interrupt. -/
def execSignalNode (s : State) : Out :=
  match s.event with
  | .signalNode a =>
    match s.openNode a with
    | (s, none) => .next (s.nodeError a 1)
    | (s, some bs) =>
      let va := bytesAt bs 16 8
      let f := bytesAt bs 32 1
      let v := bytesAt bs 33 2
      if signalMalformed bs then .next (s.nodeError a 1)
      else if f % 2 = 1 && (s.signalPlace a.tenant va).isNone then .next (s.nodeError a 5)
      else
        let s := if f % 2 = 1 then s.signalStore a va ((bs.drop 24).take 8) else s
        if f / 2 = 0 then .next (s.nodeDone a)
        else if (s.hub.vectors[s.functionOf a.tenant]).contains v then
          .next ((s.modTenant a.tenant fun t => { t with msix := t.msix ++ [v] }).nodeDone a)
        else .next (s.nodeError a 5)
  | _ => .next s

def endMalformed (bs : List Byte) : Bool :=
  !headerOk bs || nodeType bs ≠ 7 || bytesAt bs 4 4 ≠ noNode || bytesAt bs 8 4 ≠ noNode || bytesAt bs 16 48 ≠ 0

/-- END_NODE ends a path; a node of reserved TYPE is malformed and ends here too. -/
def execEndNode (s : State) : Out :=
  match s.event with
  | .endNode a =>
    match s.openNode a with
    | (s, none) => .next (s.nodeError a 1)
    | (s, some bs) => if endMalformed bs then .next (s.nodeError a 1) else .next s
  | _ => .next s

/-! ### COPY nodes (R231, R262, R307) -/

/-- CMD of a COPY node. -/
def copyCmd (bs : List Byte) : Nat := bytesAt bs 36 1

def copyMalformed (bs : List Byte) : Bool :=
  let c := copyCmd bs
  !headerOk bs || !vaField bs 16 || !vaField bs 24 || bytesAt bs 32 4 = 0 || (c ≠ 0 && c ≠ 4 && c ≠ 7) || bytesAt bs 37 1 = 0 ||
  7 < bytesAt bs 37 1 || bytesAt bs 38 2 ≠ 0 || bytesAt bs 44 20 ≠ 0

/-- A stream record in a tenant's memory; none where it is invalid (R307). -/
def State.recordAt (s : State) (t : TenantId) (va : Nat) : Option StreamBinding :=
  match s.readVa t va 64 with
  | some (bs, false) =>
    let r : BitVec 512 := BitVec.ofNat 512 (bytesNat bs)
    if va % 64 = 0 && streamValid r then some (bindRecord r) else none
  | _ => none

/-- A place that the hub's copy engine cannot reach: behind a failed root port (R266), or in a module every path to which is down (R350). -/
def State.hubDown (s : State) (l : Loc) : Bool :=
  s.tier2Down l.sp l.addr || match l.sp with | .peer m => (s.pathPort m).isNone | _ => false

/-- A row of a tile as the hub reads it: its bytes, none where a byte has no place or one that cannot be reached (R256, R266). -/
def State.hubRead (s : State) (t : TenantId) (b : StreamBinding) (row : Nat) : State × Option (List Elem) :=
  let pad : List Elem := (List.range (srTrb b.record)).map fun x => ⟨srPad b.record x, false⟩
  match b.rowRun none row with
  | none => (s, some pad)
  | some run =>
    let segs := (rangePieces run.addr run.n).map fun p => (p, s.movePlace t p.1 .read)
    if segs.any fun p => !(p.2.any fun l => !s.hubDown l) then (s, none)
    else
      let runs := segs.flatMap fun p =>
        match p.2 with
        | some l => granuleRuns (srPois b.record) p.1.2 (p.1.1 - run.addr) p.1.1 l p.1.2
        | none => []
      let r := (s.touchRuns runs).sampleRuns 0 true runs
      (r.1, some (overlayRuns pad r.2))

/-- Where a command of the hub writes an address: WSTORE through a WSTORE page, which has no right to write; the others through a page of
another kind with that right (R256, R262, R268). None where it cannot be reached. -/
def State.hubTarget (s : State) (t : TenantId) (cmd va : Nat) : Option Loc :=
  let l := if cmd = 7 then (s.walk (Fin.ofNat 9 t.val) va).bind fun l => l.loc va else s.movePlace t va .write
  l.filter fun p => !s.hubDown p && match p.sp with | .wstore _ => cmd = 7 | _ => cmd ≠ 7

/-- Bytes of a row written by the hub, carrying the release that the command is (R294); false where a byte has no place that the command may
write. -/
def State.hubWrite (s : State) (t : TenantId) (rel : Covered) (cmd pois : Nat) (run : Option RowRun) (data : List Elem) : State × Bool :=
  match run with
  | none => (s, true)
  | some run =>
    let segs := (rangePieces run.addr run.n).map fun p => (p, s.hubTarget t cmd p.1)
    if segs.any fun p => p.2.isNone then (s, false)
    else
      (segs.foldl (fun s p =>
        match p.2 with
        | some l =>
          let cells : List (Nat × Elem) := ((data.drop (p.1.1 - run.addr)).take p.1.2).zipIdx.map fun e =>
            (l.addr + e.2, if e.1.bad && pois = 1 then Elem.zero else e.1)
          let put (s : State) (bad : Bool) : State :=
            s.writeSpace l.sp ((cells.filter fun c => c.2.bad = bad).map fun c => (c.1, BitVec.ofNat 8 c.2.bits)) bad
          let s := put s false
          let s := if cells.any fun c => c.2.bad then put s true else s
          s.nodeRelease l p.1.2 rel.scope rel.known
        | none => s) s, true)

/-- The rows of one command of a COPY node: STATUS 1 after a row that faults, 4 where marked data is carried (R233). -/
def State.hubRows (s : State) (t : TenantId) (rel : Covered) (cmd : Nat) (pattern : Nat) (src dst : StreamBinding) : List Nat → Nat → State × Nat
  | [], st => (s, st)
  | r :: rs, st =>
    let n := srTrb dst.record
    let got := if cmd = 4 then (s, some ((List.range n).map fun x => (⟨pattern / 2 ^ (8 * (x % 4)) % 256, false⟩ : Elem)))
      else s.hubRead t src r
    match got.2 with
    | none => (got.1, 1)
    | some data =>
      let w := got.1.hubWrite t rel cmd (srPois dst.record) (dst.rowRun none r) data
      if !w.2 then (w.1, 1)
      else w.1.hubRows t rel cmd pattern src dst rs (if st = 0 && data.any (·.bad) then 4 else st)

/-- One command of a COPY node: a release at the node's scope, of what the node has acquired; one that covers writes which were lost toward a
module performs nothing (R294, R301). -/
def State.hubCommand (s : State) (t : TenantId) (rel : Covered) (cmd pattern : Nat) (src dst : StreamBinding) : State × Nat :=
  let t1 := srTrows dst.record
  if cmd ≠ 4 && (srTrows src.record ≠ t1 || srTrb src.record ≠ srTrb dst.record) then (s, 8)
  else if ((if cmd = 4 then none else src.boundsFault noIndex t1).or (dst.boundsFault noIndex t1)).isSome then (s, 8)
  else if s.releaseLost rel then (s, 3)
  else s.hubRows t rel cmd pattern src dst (List.range t1) 0

/-- The die cycles of one command: at most 256 bytes in each, and no stated bound. -/
def hubTime (b : StreamBinding) : Nat := max 1 (cdiv (tileSize b) 256)

/-- The dies whose weight store one tile lies in. -/
def State.tileDies (s : State) (t : TenantId) (dst : StreamBinding) : List DieId :=
  (List.range (srTrows dst.record)).flatMap fun r =>
    match dst.rowRun none r with
    | some run => (rangePieces run.addr run.n).filterMap fun p =>
        (s.hubTarget t 7 p.1).bind fun l => match l.sp with | .wstore d => some d | _ => none
    | none => []

/-- The dies whose weight store the tiles of a COPY node lie in, tile after tile (R262). -/
def State.wstoreDies (s : State) (t : TenantId) : (tiles : Nat) → StreamBinding → List DieId → List DieId
  | 0, _, ds => ds
  | n + 1, b, ds => if 4 ≤ ds.length then ds else s.wstoreDies t n (b.advance 1) (ds ++ s.tileDies t b).eraseDups

/-- A kernel of the tenant runs on one of some dies (R262). -/
def State.runsOn (s : State) (t : TenantId) (dies : List DieId) : Bool :=
  s.kernels.any fun k => k.tenant = t && k.started && k.saved.isNone && k.cores.any fun c => dies.contains (dieOf c)

/-- A COPY node begins: its records are read once. One of WSTORE waits while a kernel of its tenant runs on a die that it writes
(R262). -/
def State.copyBegin (s : State) (a : Activation) (bs : List Byte) : State :=
  let t := a.tenant
  let cmd := copyCmd bs
  match s.recordAt t (bytesAt bs 24 8), (if cmd = 4 then s.recordAt t (bytesAt bs 24 8) else s.recordAt t (bytesAt bs 16 8)) with
  | some dst, some src =>
    let dies := if cmd = 7 then s.wstoreDies t (bytesAt bs 32 4) dst [] else []
    if s.runsOn t dies then s.schedule 64 (.copyNode a)
    else
      let h : HubCopy := { act := a, id := a.order, left := bytesAt bs 32 4, src, dst, dies }
      let s := { s with copyNodes := s.copyNodes ++ [h] }
      s.chosen.schedule (hubTime dst + s.choice) (.copyNode a)
  | _, _ => s.nodeError a 3

/-- COPY_NODE (R307): begins the node, or performs its next command. -/
def execCopyNode (s : State) : Out :=
  match s.event with
  | .copyNode a =>
    match s.openNode a with
    | (s, none) => .next (s.nodeError a 1)
    | (s, some bs) =>
      match s.copyNodes.find? (·.id = a.order) with
      | none => if copyMalformed bs then .next (s.nodeError a 1) else .next (s.copyBegin a bs)
      | some h =>
        let r := s.hubCommand a.tenant ⟨scopeOfCode (bytesAt bs 37 1 % 8), a.known⟩ (copyCmd bs) (bytesAt bs 40 4) h.src h.dst
        let s := r.1
        let drop (s : State) : State := { s with copyNodes := s.copyNodes.filter (·.id ≠ a.order) }
        if r.2 ≠ 0 then .next ((drop s).nodeError a 4)
        else if h.left ≤ 1 then .next ((drop s).nodeDone a)
        else
          let h := { h with left := h.left - 1, src := h.src.advance 1, dst := h.dst.advance 1 }
          let s := { s with copyNodes := s.copyNodes.map fun (x : HubCopy) => if x.id = h.id then h else x }
          .next (s.chosen.schedule (hubTime h.dst + s.choice) (.copyNode a))
  | _ => .next s

/-! ### The order of activations (R309) -/

/-- The step that performs an activation. -/
def State.nodeEvent (s : State) (a : Activation) : Event :=
  match s.nodeBytes a.tenant a.gbase a.node with
  | none => .endNode a
  | some bs =>
    match nodeType bs with
    | 1 => .kernNode a
    | 2 => .copyNode a
    | 3 => .condNode a
    | 4 => .loopNode a
    | 5 => .joinNode a
    | 6 => .signalNode a
    | _ => .endNode a

/-- An activation is held back by a kernel that waits for cores: a KERN node of its priority or lower. -/
def State.heldBack (s : State) (a : Activation) : Bool :=
  (match s.nodeEvent a with | .kernNode _ => true | _ => false) &&
  s.kernels.any fun k => k.tenant = a.tenant && k.waits && (a.prio < k.prio || (a.prio = k.prio && k.act.order < a.order))

/-- The better of two activations: higher priority, then earlier arrival. -/
def betterActivation (a b : Activation) : Bool := b.prio < a.prio || (a.prio = b.prio && a.order < b.order)

/-- The activation of a tenant that is taken next. -/
def State.nextOf (s : State) (t : TenantId) : Option Activation :=
  ((s.tenantOf t).pending.filter fun a => a.readyAt ≤ s.time && !s.heldBack a).foldl
    (fun b a => match b with | none => some a | some c => if betterActivation a c then some a else some c) none

/-- The next activation that the Easel takes, tenant by tenant. -/
def State.nextActivation (s : State) : Option Event :=
  ((List.finRange 8).findSome? s.nextOf).map s.nodeEvent

end Sys2Proof.Machine
end

