-- ==== Sys2Proof/Machine/Host.lean ====
section
/-! DEFINITION. The host and the module OS (R11, R79, R80, R275, R305, R321, R367–R376): tenant control blocks, boot, management, kernel
images, tenant pools, ownership of cores. -/

namespace Sys2Proof.Machine

/-! ### Tenant control blocks (R368, R369) -/

/-- The tenant that a function's block acts for: function k is virtual function k; the physical function's block acts for tenant 0
while virtual function 1 is disabled. No tenant function appears before the module OS runs, and none of a virtual function that is not
enabled (R372, R373). -/
def State.blockOf (s : State) (fn : Fin 9) : Option TenantId :=
  if s.hub.phase = .off || s.hub.phase = .updateOnly then none
  else if fn = 0 then (if (s.tenantOf 0).vf then none else some 0)
  else
    let t : TenantId := Fin.ofNat 8 (fn.val - 1)
    if (s.tenantOf t).vf then some t else none

/-- What a tenant control block reads as at an offset. -/
def State.blockRead (s : State) (fn : Fin 9) (off : Nat) : Word :=
  if fn = 0 && s.hub.phase = .updateOnly then BitVec.allOnes 64
  else
    match s.blockOf fn with
    | none => 0
    | some t =>
      let k := s.tenantOf t
      match off with
      | 0x00 => k.gbase
      | 0x08 => k.gcount.setWidth 64
      | 0x18 => BitVec.ofNat 64 k.pending.length
      | 0x20 => k.logbase
      | 0x28 => k.loglen.setWidth 64
      | 0x30 => BitVec.ofNat 64 (k.loghead.toNat % max 1 k.loglen.toNat)
      | _ => 0

/-- An entry of the module OS's own log. -/
def State.osNote (s : State) (what arg : Nat) : State := { s with hub := { s.hub with osLog := s.hub.osLog ++ [(what, arg)] } }

/-- The Easel takes activations. -/
def State.accepting (s : State) : Bool := s.hub.phase = .ready && s.hub.accepting

/-- ACTIVATE: taken with the GBASE and GCOUNT in force; discarded and logged before boot has ended or after acceptance has stopped. -/
def execActivate (s : State) : Out :=
  match s.event with
  | .activate fn node =>
    match s.blockOf fn with
    | none => .next s
    | some t =>
      if !s.accepting then .next (s.osNote 373 node.toNat)
      else
        let k := s.tenantOf t
        .next (s.accept t node.toNat k.gbase.toNat k.gcount.toNat none 0 [])
  | _ => .next s

/-- CANCEL: the named kernel of the function's tenant is marked faulted by the host. -/
def execCancel (s : State) : Out :=
  match s.event with
  | .cancel fn kid =>
    match s.blockOf fn, s.kernel kid.toNat with
    | some t, some k =>
      if k.tenant = t then .next (s.markFaulted k.kid { code := 0, rank := 0xFF, badaddr := 0, xpc := 0, host := true, marked := 0 }) else .next s
    | _, _ => .next s
  | _ => .next s

/-- A control register's RW fields written. -/
def Tenant.writeReg (t : Tenant) (off : Nat) (v : Word) : Tenant :=
  match off with
  | 0x00 => { t with gbase := v &&& 0xFFFFFFFFFFC0 }
  | 0x08 => { t with gcount := v.setWidth 32 }
  | 0x20 => { t with logbase := v &&& 0xFFFFFFFFFFC0 }
  | 0x28 => { t with loglen := v.setWidth 16 }
  | _ => t

/-- Every page of a byte range is open to the host of a tenant (R370). -/
def State.hostVisible (s : State) (t : TenantId) (va n : Nat) : Bool :=
  (rangePieces va n).all fun p => (s.tenantOf t).visible.contains (p.1 / 65536)

/-- What the host's read returns. -/
def State.hostReturns (s : State) (bs : List Byte) : State := { s with hub := { s.hub with hostData := bs } }

/-- HOST_REGISTER_WRITE: an access of the host. GBASE, GCOUNT, LOGBASE and LOGLEN are written and anything else of the block discarded;
BAR 2 reads and writes the tenant's memory where its pages are host-visible; the host also changes its own memory (R368, R370). Log entry
84. -/
def execHostRegisterWrite (s : State) : Out :=
  match s.event with
  | .hostRegisterWrite fn a =>
    match a, s.blockOf fn with
    | .readReg off, _ => .next (s.hostReturns (natBytes 8 (s.blockRead fn off).toNat))
    | .writeReg off v, some t => .next (s.modTenant t fun k => k.writeReg off v)
    | .read va n, some t =>
      match s.hostVisible t va n, s.readVa t va n with
      | true, some r => .next (s.hostReturns r.1)
      | _, _ => .next (s.hostReturns (List.replicate n 0xFF))
    | .write va bs, some t => if s.hostVisible t va bs.length then .next (s.writeVa t va bs) else .next s
    | .vectors l, _ => .next { s with hub := { s.hub with vectors := s.hub.vectors.set fn (l.filter (· < 2048)) } }
    | .memory addr bs, _ => .next (s.writeSpace .host (cellsFrom addr bs) false)
    | .read _ n, none => .next (s.hostReturns (List.replicate n 0xFF))
    | _, none => .next s
  | _ => .next s

/-- VF_ENABLE: tenant 0's block is reached only through virtual function 1. -/
def execVfEnable (s : State) : Out := .next (s.modTenant 0 fun k => { k with vf := true })

/-- VF_DISABLE: the physical function's block acts for tenant 0 again. -/
def execVfDisable (s : State) : Out := .next (s.modTenant 0 fun k => { k with vf := false })

/-! ### Boot (R372, R373) -/

/-- A flash copy that the boot ROM accepts: its signature verifies and its security version is not below the recorded one. -/
def State.bootable (s : State) (k : Fin 2) : Option FlashImage :=
  (s.hub.flash[k]).filter fun i => i.verifies && s.hub.minVersion ≤ i.version

/-- The backstop deadline of every bank group. -/
def State.armBackstops (s : State) : State :=
  (List.finRange 4).foldl (fun s d => (List.finRange 32).foldl (fun s g => s.schedule 102400 (.wsBackstopRefresh d g)) s) s

/-- POWER_ON: the first flash copy that verifies starts the module OS; with none, only a firmware update is accepted. -/
def execPowerOn (s : State) : Out :=
  if s.hub.phase ≠ .off then .next s
  else
    match (s.bootable 0).or (s.bootable 1) with
    | some i => .next { s with hub := { s.hub with phase := .osStarted, booted := some i } }.armBackstops
    | none => .next { s with hub := { s.hub with phase := .updateOnly } }

/-- A Plate cleared by the module OS. -/
def Core.clearPlate (c : Core) : Core := { c with plate := [], marks := [], wiped := [], flags := [], guards := [] }

/-- The owners that a configuration image gives. -/
def ownersFrom (l : List (CoreId × TenantId)) : Vector (Option TenantId) 128 :=
  Vector.ofFn fun c => (l.find? (·.1 = c)).map (·.2)

/-- What the configuration image holds, as its digest is taken of it: core ownership, power limit, slot tables (R373, R374). -/
def configWords (owners : List (CoreId × TenantId)) (power : Nat) (tables : List OsWrite) : List Nat :=
  power :: (owners.flatMap fun p => [p.1.val, p.2.val]) ++ tables.flatMap fun w =>
    match w with
    | .slots d o bs => d.val :: o.val :: bs.map BitVec.toNat
    | .cxlSlots p bs => p.val :: bs.map BitVec.toNat
    | _ => []

/-- The expanders found at the root ports: those of type 3 are used, the others logged (R371). -/
def State.enumerate (s : State) (found : List (Fin 4 × Bool × Nat)) : State :=
  { s with hub := { s.hub with
      expanders := (found.filter (·.2.1)).map fun e => (e.1, e.2.2)
      osLog := s.hub.osLog ++ (found.filter fun e => !e.2.1).map fun e => (371, e.1.val) } }

/-- A power limit that the module OS takes: 1,500 to 3,600 W (R1, R374); another leaves the limit as it is. -/
def State.limitPower (s : State) (w : Nat) : State :=
  if 1500 ≤ w && w ≤ 3600 then { s with hub := { s.hub with powerLimit := w } } else s

/-- MODULE_OS_INIT: repair maps, configuration, Plates cleared, expanders enumerated, page tables, slot tables and pairings written, the
capability records written in each tenant's context (R375), the virtual functions enabled and the Easel started (R373). -/
def execModuleOsInit (s : State) : Out :=
  match s.event with
  | .moduleOsInit repair owners power tables found =>
    if s.hub.phase ≠ .osStarted then .next s
    else
      let maps := s.hub.repairMaps ++ repair
      let s := (List.finRange 4).foldl (fun s d => s.modDie d fun k =>
        { k with laneMap := (maps.filter (·.1 = d)).map (·.2), life := s.hub.lifeStored d }) s
      let s := { s with
        cores := s.cores.map Core.clearPlate,
        hub := { s.hub with repairMaps := maps, owners := ownersFrom owners,
                                configDigest := Config.configDigest (configWords owners power tables) } }
      let s := tables.foldl State.osPut ((s.limitPower power).enumerate found)
      let s := (List.finRange 8).foldl (fun s t => s.osPut (.capabilities t)) s
      let s : State := { s with tenants := s.tenants.map fun (t : Tenant) => { t with vf := true }, hub := { s.hub with phase := .ready } }
      .next (s.schedule tenMinutes .lifeRecordUpdate)
  | _ => .next s

/-- POWER_LOSS: only flash survives. -/
def execPowerLoss (s : State) : Out :=
  let h := s.hub
  .next { State.reset with
    hub := { Hub.reset with flash := h.flash, minVersion := h.minVersion, configDigest := h.configDigest, repairMaps := h.repairMaps,
                            lifeFlash := h.lifeFlash, lifeUpdates := h.lifeUpdates },
    oracle := s.oracle, fresh := s.fresh }

/-! ### Management (R367, R374, R376) -/

/-- A measurement by its index (R374). -/
def State.measurement (s : State) (index : Nat) : List Nat :=
  match index with
  | 1 => [Config.romDigest]
  | 2 => (s.hub.booted.map (·.digest)).toList
  | 3 => [s.hub.configDigest]
  | 4 => s.hub.repairMaps.flatMap fun r => [r.1.val, r.2.1.val, r.2.2]
  | 5 => s.hub.owners.toList.map fun o => match o with | some t => t.val | none => 8
  | _ => []

/-- What PLDM reports: temperatures in °C above −273, power, summaries of the error banks, life records (R374). -/
def State.pldmWords (s : State) : List Nat :=
  (s.dies.toList.map fun d => (d.celsius + 273).toNat) ++ [s.hub.watts]
    ++ (s.dies.toList.flatMap fun d => d.banks.toList.map fun b => b.stat.toNat) ++ s.hub.banks.toList.map (fun b => b.stat.toNat)
    ++ (List.finRange 4).flatMap fun d => (s.hub.lifeStored d).flatMap fun c => [c.1, c.2.toNat]

/-- A management request is answered. -/
def State.answered (s : State) (a : List Nat) : State := { s with hub := { s.hub with reports := s.hub.reports + 1, answer := a } }

/-- The module OS runs: before that only an image update is accepted (R372). -/
def State.osRuns (s : State) : Bool := s.hub.phase ≠ .off && s.hub.phase ≠ .updateOnly

/-- SPDM_REQUEST: the module answers with the measurement asked for. -/
def execSpdmRequest (s : State) : Out :=
  match s.event with
  | .spdmRequest index => if s.osRuns then .next (s.answered (s.measurement index)) else .next s
  | _ => .next s

/-- PLDM_REPORT. -/
def execPldmReport (s : State) : Out := if s.osRuns then .next (s.answered s.pldmWords) else .next s

/-- The other flash copy. -/
def otherCopy (k : Fin 2) : Fin 2 := if k = 0 then 1 else 0

/-- PLDM_FW_UPDATE: a copy is written, unless it is the only valid one; it takes effect at the next boot. -/
def execPldmFwUpdate (s : State) : Out :=
  match s.event with
  | .pldmFwUpdate k img =>
    if (s.bootable k).isSome && (s.bootable (otherCopy k)).isNone then .next s
    else .next { s with hub := { s.hub with flash := s.hub.flash.set k (some img) } }
  | _ => .next s

/-- POWER_LIMIT_SET: 1,500 to 3,600 W. -/
def execPowerLimitSet (s : State) : Out :=
  match s.event with
  | .powerLimitSet w => if s.osRuns then .next (s.limitPower w) else .next s
  | _ => .next s

/-- The cores of a die that run freeze for some die cycles, each counted as a droop event. -/
def State.throttle (s : State) (d : DieId) (n : Nat) : State :=
  ((List.range 32).map (coreAt d)).foldl (fun s c =>
    let k := s.core c
    if k.activity = .running && k.freeze.isNone then
      (s.setCore c { k with freeze := some (.untilCycle (s.now c + n)) }).lifeAdd d (0x1040 + 8 * (localOf c).val) 1
    else s) s

/-- The module shuts down in order: no activations, no kernel starts or resumes, the running ones are pre-empted (R376). -/
def State.close (s : State) : State :=
  let s := { s with hub := { s.hub with accepting := false, closing := true } }
  ((s.kernels.filter fun k => k.started && k.saved.isNone).foldl (fun s k => s.schedule 0 (.preemptRequest k.kid)) s).shutIfIdle

/-- THERMAL_LIMIT: the module OS measures a die's temperature and the power drawn. At 105 °C the die's cores, and above the power limit
every core, freeze in die time; at 120 °C the module shuts down in order. -/
def execThermalLimit (s : State) : Out :=
  match s.event with
  | .thermalLimit d c watts =>
    let s := (s.countSeconds d).modDie d fun k => { k with celsius := c }
    let s := { s with hub := { s.hub with watts } }
    let hot := if s.hub.powerLimit < watts then List.finRange 4 else if 105 ≤ c then [d] else []
    let s := hot.foldl (fun s d => s.chosen.throttle d (1 + s.choice)) s
    if c < 120 || s.hub.phase ≠ .ready then .next s else .next s.close
  | _ => .next s

/-! ### Kernel images (R79, R81) -/

/-- A section of an image: its type, size and offset. -/
structure Section where
  type_ : Nat
  size  : Nat
  off   : Nat
deriving DecidableEq, Repr

/-- The section directory. -/
def sectionsOf (img : List Byte) : List Section :=
  (List.range (bytesAt img 24 2)).map fun i =>
    { type_ := bytesAt img (64 + 16 * i) 2, size := bytesAt img (68 + 16 * i) 4, off := bytesAt img (72 + 16 * i) 8 }

/-- No type occurs twice. -/
def distinct : List Nat → Bool
  | [] => true
  | t :: ts => !ts.contains t && distinct ts

/-- The part's capabilities (R375): identifiers 1 to 10. -/
def capabilities : Nat := 0x3FF

/-- The bytes of a section of an image. -/
def sectionBytes (img : List Byte) (t : Nat) : List Byte :=
  match (sectionsOf img).find? (·.type_ = t) with
  | some x => (img.drop x.off).take x.size
  | none => []

/-- ADDR of each entry of an image's pre-emption table (R81). -/
def imagePoints (img : List Byte) : List Nat :=
  let bs := sectionBytes img 6
  (List.range (bs.length / 16)).map fun i => bytesAt bs (16 * i) 6

/-- The module OS refuses an image; one whose pre-emption table is unsorted or has duplicates among them (R81). -/
def imageRefused (img : List Byte) : Bool :=
  let ss := sectionsOf img
  bytesAt img 0 4 ≠ 0x4D494B57 || bytesAt img 4 2 ≠ 1 || bytesAt img 6 2 ≠ 1 ||
  ss.any (fun x => x.type_ = 0 || 10 < x.type_ || img.length < x.off + x.size) || !distinct (ss.map (·.type_)) ||
  bytesAt img 20 4 &&& capabilities ≠ bytesAt img 20 4 || 50000 < bytesAt img 16 4 || !ascending (imagePoints img)

/-- A field of a byte string replaced. -/
def putBytes (bs : List Byte) (off n v : Nat) : List Byte := bs.take off ++ natBytes n v ++ bs.drop (off + n)

/-- Sections one after another from an address, each at a multiple of 64: type and address. -/
def layOut : Nat → List (Nat × List Byte) → List (Nat × Nat × List Byte)
  | _, [] => []
  | va, (t, bs) :: rest => (t, va, bs) :: layOut ((va + bs.length + 63) / 64 * 64) rest

/-- A pre-emption table with the code base added to every ADDR. -/
def relocate (code : Nat) (n : Nat) (tab : List Byte) : List Byte :=
  (List.range n).flatMap fun i =>
    let e := (tab.drop (16 * i)).take 16
    putBytes e 0 6 (bytesAt e 0 6 + code)

/-- HBM bases for the `place=hbm` declarations of a table, from an address upward (R273, R283). -/
def assignBases : Nat → List (List Byte) → List Byte × Nat
  | va, [] => ([], va)
  | va, d :: ds =>
    if bytesAt d 19 1 = 1 && bytesAt d 0 8 = 0 then
      let r := assignBases (va + bytesAt d 16 1 * bytesAt d 12 4) ds
      (putBytes d 0 8 va ++ r.1, r.2)
    else let r := assignBases va ds; (d ++ r.1, r.2)

/-- A table of 32-byte declarations. -/
def declTable (bs : List Byte) (off n : Nat) : List (List Byte) := (List.range n).map fun i => (bs.drop (off + 32 * i)).take 32

/-- A template pointer into the read-only data, linked; 0 stays 0 where the table is empty. -/
def linkData (r : List Byte) (field count rodata : Nat) : List Byte :=
  if count = 0 then r else putBytes r field 8 (bytesAt r field 8 + rodata)

/-- The kernel record that the loader builds from a template (R312): pointers linked, lengths from the sections. Log entry 24. -/
def linkRecord (r : List Byte) (code rodata : Nat) (at_ : Nat → Nat) (size : Nat → Nat) : List Byte :=
  let r := putBytes r 0 8 (bytesAt r 0 8 + code)
  let r := if bytesAt r 48 8 = 0 then r else putBytes r 48 8 (bytesAt r 48 8 + code)
  let r := putBytes (putBytes r 8 8 (at_ 2)) 104 4 (size 2)
  let r := putBytes (putBytes r 16 8 (at_ 9)) 108 4 (size 9 / 4)
  let r := putBytes (putBytes r 32 8 (at_ 6)) 124 2 (size 6 / 16)
  let r := putBytes r 40 8 (at_ 7)
  let r := putBytes (putBytes r 192 8 (at_ 8)) 200 4 (size 8 / 16)
  let r := linkData r 24 (bytesAt r 112 4) rodata
  let r := linkData r 56 (bytesAt r 130 1) rodata
  let r := linkData r 64 (bytesAt r 131 1) rodata
  linkData r 72 (bytesAt r 116 4) rodata

/-- KERNEL_IMAGE_LOAD: the image is refused and noted, or its sections, tables and linked record are put in the tenant's memory. -/
def execKernelImageLoad (s : State) : Out :=
  match s.event with
  | .kernelImageLoad t img recordVa codeVa dataVa rodataVa hbmVa =>
    if !s.osRuns then .next s
    else if imageRefused img then .next (s.osNote 79 t.val)
    else
      let tmpl := sectionBytes img 5
      let ro := sectionBytes img 3
      let pools := assignBases hbmVa (declTable ro (bytesAt tmpl 56 8) (bytesAt tmpl 130 1))
      let rings := assignBases pools.2 (declTable ro (bytesAt tmpl 64 8) (bytesAt tmpl 131 1))
      let patch (bs : List Byte) (off : Nat) (new : List Byte) : List Byte :=
        if new.isEmpty then bs else bs.take off ++ new ++ bs.drop (off + new.length)
      let ro := patch (patch ro (bytesAt tmpl 56 8) pools.1) (bytesAt tmpl 64 8) rings.1
      let pre := sectionBytes img 6
      let tabs := layOut ((rodataVa + ro.length + 63) / 64 * 64)
        [(2, sectionBytes img 2), (6, relocate codeVa (pre.length / 16) pre), (7, sectionBytes img 7), (8, sectionBytes img 8),
         (9, sectionBytes img 9)]
      let at_ (k : Nat) : Nat := match tabs.find? (·.1 = k) with | some x => if x.2.2.isEmpty then 0 else x.2.1 | none => 0
      let size (k : Nat) : Nat := match tabs.find? (·.1 = k) with | some x => x.2.2.length | none => 0
      let s := s.osWrite t codeVa (sectionBytes img 1)
      let s := (s.osWrite t dataVa (sectionBytes img 4)).osWrite t rodataVa ro
      let s := tabs.foldl (fun s x => s.osWrite t x.2.1 x.2.2) s
      .next (s.osWrite t recordVa (linkRecord tmpl codeVa rodataVa at_ size))
  | _ => .next s

/-! ### Tenant pools and core ownership (R11, R275, R314) -/

/-- TENANT_POOL_CREATE: refused where the tenant does not own the home, the declaration is invalid or lies in the home's Plate, or the
unit is taken. -/
def execTenantPoolCreate (s : State) : Out :=
  match s.event with
  | .tenantPoolCreate t home u decl =>
    if !s.owns t home || !s.privatePoolOk t decl || bytesAt decl 19 1 = 0 || ((s.core home).pools[u]).isSome then .next (s.osNote 275 home.val)
    else .next ((s.modCore home fun c => { c with pools := c.pools.set u (some (poolOfDecl none t decl)) }).overwritten (.pool home u))
  | _ => .next s

/-- TENANT_POOL_DESTROY: the home's service of the pool ends. -/
def execTenantPoolDestroy (s : State) : Out :=
  match s.event with
  | .tenantPoolDestroy n =>
    let home : CoreId := Fin.ofNat 128 (n / 8)
    let u : Fin 8 := Fin.ofNat 8 n
    let gone := ((s.core home).pools[u]).filter fun p => p.kid.isNone
    if 1024 ≤ n then .next s
    else
      match gone with
      | none => .next s
      | some p => .next ((s.modCore home fun c => { c with pools := c.pools.set u none }).wakeTenant p.tenant)
  | _ => .next s

/-- CORE_OWNERSHIP_CHANGE: a core of no kernel goes to another tenant, its Plate cleared; a kernel on it is asked to leave first (R322). -/
def execCoreOwnershipChange (s : State) : Out :=
  match s.event with
  | .coreOwnershipChange c t =>
    if s.ownerOf c = t then .next s
    else
      match s.kernels.find? fun k => k.cores.contains c with
      | some k => .next ((s.schedule 0 (.preemptRequest k.kid)).schedule 64 (.coreOwnershipChange c t))
      | none =>
        let s := s.modCore c Core.clearPlate
        let s : State := { s with hub := { s.hub with owners := s.hub.owners.set c t } }
        .next (match t with | some t => s.wakeTenant t | none => s)
  | _ => .next s

end Sys2Proof.Machine
end

