-- ==== Sys2Proof/Machine/Immediate.lean ====
section
/-! DEFINITION. The immediate and literal forms: S majors 0x01–0x0A (R89) and L majors 0x00–0x05 (R90). All land at
issue + 1. -/

namespace Sys2Proof.Machine

/-- An immediate operation at 64 bits. -/
def immIssue (i : Instr) (f : Word → Word → Word) (d a : Reg) (v : Word) (s : State) : Out :=
  s.issueX i 1 d fun c => f (c.readX a) v

def execAddi (d a : Reg) (imm : BitVec 14) (s : State) : Out :=
  immIssue (.addi d a imm) (· + ·) d a (imm.signExtend 64) s

def execAndi (d a : Reg) (imm : BitVec 14) (s : State) : Out :=
  immIssue (.andi d a imm) (· &&& ·) d a (imm.signExtend 64) s

def execOri (d a : Reg) (imm : BitVec 14) (s : State) : Out :=
  immIssue (.ori d a imm) (· ||| ·) d a (imm.signExtend 64) s

def execXori (d a : Reg) (imm : BitVec 14) (s : State) : Out :=
  immIssue (.xori d a imm) (· ^^^ ·) d a (imm.signExtend 64) s

def execSlli (d a : Reg) (sh : Fin 64) (s : State) : Out :=
  s.issueX (.slli d a sh) 1 d fun c => c.readX a <<< sh.val

def execSrli (d a : Reg) (sh : Fin 64) (s : State) : Out :=
  s.issueX (.srli d a sh) 1 d fun c => c.readX a >>> sh.val

def execSrai (d a : Reg) (sh : Fin 64) (s : State) : Out :=
  s.issueX (.srai d a sh) 1 d fun c => (c.readX a).sshiftRight sh.val

def execSlti (d a : Reg) (imm : BitVec 14) (s : State) : Out :=
  immIssue (.slti d a imm) (opSlt 64) d a (imm.signExtend 64) s

def execSltiu (d a : Reg) (imm : BitVec 14) (s : State) : Out :=
  immIssue (.sltiu d a imm) (opSltu 64) d a (imm.signExtend 64) s

def execSeqi (d a : Reg) (imm : BitVec 14) (s : State) : Out :=
  immIssue (.seqi d a imm) (opSeq 64) d a (imm.signExtend 64) s

def execLi (d : Reg) (v : BitVec 32) (s : State) : Out := s.issueX (.li d v) 1 d fun _ => v.signExtend 64

/-- LIH keeps the low half that XD holds at issue. -/
def execLih (d : Reg) (v : BitVec 32) (s : State) : Out :=
  s.issueX (.lih d v) 1 d fun c => v ++ (c.readX d).setWidth 32

def execAddil (d a : Reg) (v : BitVec 32) (s : State) : Out :=
  immIssue (.addil d a v) (· + ·) d a (v.signExtend 64) s

def execAndil (d a : Reg) (v : BitVec 32) (s : State) : Out :=
  immIssue (.andil d a v) (· &&& ·) d a (v.setWidth 64) s

def execOril (d a : Reg) (v : BitVec 32) (s : State) : Out :=
  immIssue (.oril d a v) (· ||| ·) d a (v.setWidth 64) s

def execXoril (d a : Reg) (v : BitVec 32) (s : State) : Out :=
  immIssue (.xoril d a v) (· ^^^ ·) d a (v.setWidth 64) s

end Sys2Proof.Machine
end

