-- ==== Sys2Proof/Machine/Preempt.lean ====
section
/-! DEFINITION. Pre-emption (R81, R213, R276, R287, R299, R322–R324, R338): request, stop, save, withdrawal and resumption. -/

namespace Sys2Proof.Machine

/-! ### Request and stop (R322) -/

/-- 1 ms in die cycles. -/
def preemptLimit : Nat := 1600000

/-- PREEMPT_REQUEST: from now on the walker starts no iteration, and the request is withdrawn after 1 ms unless it has completed. -/
def execPreemptRequest (s : State) : Out :=
  match s.event with
  | .preemptRequest kid =>
    match s.kernel kid with
    | none => .next s
    | some k =>
      if !k.started || k.saved.isSome || k.fault.isSome || k.preempt.isSome then .next s
      else
        let s := s.modKernel kid fun k => { k with preempt := some s.time }
        .next ((s.schedule 0 (.preemptSave kid)).schedule preemptLimit (.preemptWithdraw kid))
  | _ => .next s

/-- The entries of a kernel's pre-emption table (R81). -/
def State.preemptTable (s : State) (k : Kernel) : List (BitVec 128) :=
  let n := k.field 124 2
  let bs := s.tableOf k.tenant (k.field 32 8) (16 * n)
  (List.range n).map fun i => BitVec.ofNat 128 (bytesAt bs (16 * i) 16)

/-- The entry for an address. -/
def State.preemptEntry (s : State) (k : Kernel) (addr : Word) : Option (BitVec 128) :=
  (s.preemptTable k).find? fun e => bitsOf e 0 48 = addr.toNat

/-- Every node that a core armed is idle, with no record still to be written (R338). -/
def Core.nodesIdle (c : Core) : Bool := c.nodes.toList.all fun n => n.state = .idle && n.owed.isEmpty

/-- The core in focus is about to issue the instruction at a listed point of a kernel that is to be pre-empted, with nothing in flight
and every node that it armed idle. -/
def State.atStop (s : State) : Bool :=
  let c := s.cpu
  match s.kernelOf s.cur with
  | none => false
  | some k =>
    k.preempt.isSome && k.fault.isNone && !c.trapMode && c.draining.isNone && !c.chain.annul0 && c.quiet &&
    c.nodesIdle && (s.preemptEntry k c.chain.c0).isSome

/-- The core in focus stops at a pre-emption point. -/
def State.stopHere (s : State) : State :=
  let s := s.modCpu fun c => { c with activity := .preempted, sOpen := false, issued := false }
  { s with curDone := true }.schedule 0 (.preemptSave s.cpu.kernid.toNat)

/-! ### Save (R323) -/

/-- A live bit of an entry. -/
def live (e : BitVec 128) (k : Nat) : Bool := bitOf e k

/-- The Plate-range set of a number, set by set from an address on: offsets and lengths (R79 section 7). -/
def State.rangeSet (s : State) (t : TenantId) : (fuel : Nat) → Nat → Nat → List (Nat × Nat)
  | 0, _, _ => []
  | f + 1, va, k =>
    let n := bytesNat (s.tableOf t va 4)
    if k ≤ 1 then
      let bs := s.tableOf t (va + 4) (8 * n)
      (List.range n).map fun i => (bytesAt bs (8 * i) 4, bytesAt bs (8 * i + 4) 4)
    else s.rangeSet t f (va + 4 + 8 * n) (k - 1)

/-- The Plate ranges that an entry saves: the whole Plate below the trap window, or a set. -/
def State.savedRanges (s : State) (k : Kernel) (pset : Nat) : List (Nat × Nat) :=
  if pset = 0 then [(0, trapWindow)] else s.rangeSet k.tenant pset (k.field 40 8) pset

/-- An offset lies in some ranges. -/
def inRanges (rs : List (Nat × Nat)) (off : Nat) : Bool := rs.any fun r => r.1 ≤ off && off < r.1 + r.2

/-- The part of a flag that lies in a range (R295). -/
def Flag.kept (f : Flag) (r : Nat × Nat) : List Flag :=
  let lo := max f.lo r.1
  let hi := min (f.lo + f.n) (r.1 + r.2)
  if lo < hi then [{ f with lo, n := hi - lo }] else []

/-- The releases left at the semaphores of a core and at its pools and rings of a kernel (R299). -/
def State.leftAt (s : State) (kid : Nat) (c : CoreId) : List Published :=
  let x := s.core c
  s.synced.filter fun p =>
    match p.obj with
    | .sem d _ => d = c
    | .pool d u => d = c && (x.pools[Fin.ofNat 8 u]).any fun p => p.kid = some kid
    | .ring d u => d = c && (x.rings[Fin.ofNat 8 u]).any fun r => r.kid = kid

/-- SCLK of a core that stands still: where it runs no iteration it has counted on since the HALT, or since the gang start (R38). -/
def State.savedSclk (s : State) (k : Kernel) (c : CoreId) : Nat :=
  let x := s.core c
  if x.activity = .preempted then x.sclk else x.sclk + (s.now c - x.haltedAt.getD (k.gangStart (dieOf c)))

/-- The saved context of one core, with what the save releases: an entry for a core that runs an iteration, everything R9 keeps for one
that does not. -/
def State.saveCore (s : State) (k : Kernel) (c : CoreId) (rank : Nat) (known : List (CoreId × Nat)) (area : Nat) : SavedCore :=
  let x := s.core c
  let running := x.activity = .preempted
  let e := if running then (s.preemptEntry k x.chain.c0).getD 0 else BitVec.allOnes 128
  let ranges := if running then s.savedRanges k (bitsOf e 122 6) else [(0, trapWindow)]
  { rank, running, addr := x.chain.c0, sclk := s.savedSclk k c,
    x := ((List.finRange 32).filter fun r => r ≠ 0 && live e (47 + r.val)).map fun r => (r, x.x[r]),
    vw := ((List.finRange 32).filter fun j => live e (79 + j.val / 2)).map fun j => (j, x.vw[j]),
    perms := ((List.finRange 16).filter fun p => live e (95 + p.val)).map fun p => (p, x.perms[p].n, x.perms[p].idx),
    masks := ((List.finRange 8).filter fun m => m ≠ 0 && live e (110 + m.val)).map fun m => (m, x.masks[m]),
    sems := ((List.finRange 32).filter fun i => live e (118 + i.val / 8)).map fun i => (i, x.sems[i].value),
    faults := x.sems.toList.map (·.fault), shp := x.shp, mode := x.mode, utvec := x.utvec, ftlvl := x.ftlvl, ft := x.ft, lc := x.lc,
    lb := x.lb, le := x.le, order := x.order, streams := x.streams, guards := x.guards,
    plate := x.plate.filter fun p => inRanges ranges p.1, vstat := x.vstat, detst := x.detst, guardst := x.guardst, iter := x.iter,
    x30 := x.x30Start, savedAt := s.now c, pools := x.pools.map fun p => p.filter fun u => u.kid = some k.kid,
    rings := x.rings.map fun r => r.filter fun u => u.kid = k.kid, cause := x.cause, badaddr := x.badaddr,
    xpc := (x.xpc0, x.xpc1, x.xpc2), marks := x.marks.filter fun l => inRanges ranges (64 * l), ranges, known, fenced := x.fenced,
    heard := x.heard, synced := s.leftAt k.kid c, wiped := x.wiped.filter (inRanges ranges),
    flags := x.flags.flatMap fun f => ranges.flatMap (f.kept ·), area }

/-- A core freed by a save: the kernel's pools and rings leave with it. -/
def Core.saved (c : Core) (kid : Nat) : Core :=
  { c.leaveKernel with
    pools := c.pools.map fun p => p.filter fun u => u.kid ≠ some kid, rings := c.rings.map fun r => r.filter fun u => u.kid ≠ kid }

/-- Bytes of HBM that the saved context of one core takes, and those that the contexts of one kernel take (DESIGN CHOICE, log entry 113). -/
def areaSize : Nat := 2 ^ 23
def kernelArea : Nat := 2 ^ 30

/-- The area in which a kernel's contexts are saved: the first of its tenant's that no other saved kernel holds. -/
def State.areaFor (s : State) (k : Kernel) : Nat :=
  let base := (s.tenantOf k.tenant).saveArea
  let used := s.kernels.flatMap fun w => if w.tenant = k.tenant then (w.saved.getD []).map (·.area / kernelArea) else []
  let n := s.kernels.length
  (((List.range (n + 1)).map fun j => base + kernelArea * j).find? fun a => !used.contains (a / kernelArea)).getD base

/-- What a save writes of a core, by its offset in the area: ADDR, SCLK, the walker's next iteration number, the live registers, the state
that is saved whole, the guard marks and the Plate bytes (R81, R323). DESIGN CHOICE (log entry 113): the offsets are the model's. -/
def SavedCore.image (v : SavedCore) (next : Nat) : List (Nat × Byte) :=
  let put (off n x : Nat) : List (Nat × Byte) := cellsFrom off (natBytes n x)
  let each {α : Type} (off n k : Nat) (l : List α) (f : α → Nat) : List (Nat × Byte) := (l.zipIdx.take k).flatMap fun p => put (off + n * p.2) n (f p.1)
  put 0 8 v.addr.toNat ++ put 8 8 v.sclk ++ put 16 8 next ++ put 24 8 v.rank ++ put 32 2 v.shp.toNat ++ put 40 8 v.mode.toNat ++ put 48 8 v.utvec.toNat
    ++ put 56 1 v.ftlvl.toNat ++ each 64 4 16 v.ft.toList (·.toNat) ++ each 0x80 8 4 v.lc.toList (·.toNat) ++ each 0xA0 8 4 v.lb.toList (·.toNat)
    ++ each 0xC0 8 4 v.le.toList (·.toNat) ++ each 0xE0 1 32 v.faults (fun b => if b then 1 else 0)
    ++ v.x.flatMap (fun p => put (0x100 + 8 * p.1.val) 8 p.2.toNat) ++ v.vw.flatMap (fun p => put (0x200 + 16 * p.1.val) 16 p.2.toNat)
    ++ v.masks.flatMap (fun p => put (0x400 + 512 * p.1.val) 512 p.2.toNat)
    ++ v.perms.flatMap (fun p => put (0x1400 + 512 * p.1.val) 2 p.2.1 ++ cellsFrom (0x1402 + 512 * p.1.val) (p.2.2.map (BitVec.ofNat 8 ·)))
    ++ v.sems.flatMap (fun p => put (0x3400 + 4 * p.1.val) 4 p.2.toNat)
    ++ v.streams.toList.zipIdx.flatMap (fun p => match p.1 with
        | some b => put (0x4000 + 128 * p.2) 64 b.record.toNat ++ put (0x4040 + 128 * p.2) 8 b.cursor.toNat ++ put (0x4048 + 128 * p.2) 1 1
        | none => [])
    ++ v.guards.map (fun g => (0x8000 + g, 1#8)) ++ v.plate.map fun p => (plateSize + p.1, p.2)

/-- A saved context written to its area of HBM, with the marks of its Plate lines. -/
def State.writeContext (s : State) (v : SavedCore) (next : Nat) : State :=
  let s := { s with hbm := { s.hbm with mem := Memory.clear s.hbm.mem v.area areaSize } }
  let s := s.writeSpace .hbm ((v.image next).map fun p => (v.area + p.1, p.2)) false
  { s with hbm := v.marks.foldl (fun m l => m.mark ((v.area + plateSize) / 64 + l)) s.hbm }

/-- The cores of a kernel saved, rank by rank: each a SYSTEM-scope release of every access of the core (R299). -/
def State.saveCores (s : State) (k : Kernel) (area : Nat) : List (CoreId × Nat) → State × List SavedCore
  | [] => (s, [])
  | c :: cs =>
    let r := (s.performAll c.1).endRelease c.1
    let v := r.1.saveCore k c.1 c.2 r.2 (area + areaSize * c.2)
    let t : State := { r.1 with synced := r.1.synced.filter fun p => !v.synced.contains p }
    let b := ((t.modCore c.1 fun x => x.saved k.kid).writeContext v k.nextIter).saveCores k area cs
    (b.1, v :: b.2)

/-- A core of the kernel has armed nodes, or records of them are still to be written (R338). -/
def State.nodesBusy (s : State) (k : Kernel) : Bool := k.cores.any fun c => !(s.core c).nodesIdle

/-- PREEMPT_SAVE: once every core has stopped with its nodes idle and its operations have been serviced at their homes (R276, R299,
R338), each core's context is saved, in the tenant's area of HBM too, and the cores are free. DESIGN CHOICE (log entry 114): a core that stands at its
stop when its kernel is marked faulted counts as stopped. -/
def execPreemptSave (s : State) : Out :=
  match s.event with
  | .preemptSave kid =>
    match s.kernel kid with
    | none => .next s
    | some k =>
      if k.preempt.isNone || k.saved.isSome || k.fault.isSome || k.done = k.total || !s.allStopped k then .next s
      else if s.unserviced k || s.nodesBusy k || k.cores.any fun c => !(s.stuckStores c).isEmpty then .next (s.schedule 1 s.event)
      else
        let r := s.saveCores k (s.areaFor k) k.cores.zipIdx
        let s := r.1.modKernel kid fun k => { k with saved := some r.2, cores := [], preempt := none }
        .next ((s.wakeTenant k.tenant).shutIfIdle)
  | _ => .next s

/-- PREEMPT_WITHDRAW: a request that has not completed 1 ms after it was made is withdrawn and logged, and the stopped cores go on. -/
def execPreemptWithdraw (s : State) : Out :=
  match s.event with
  | .preemptWithdraw kid =>
    match s.kernel kid with
    | none => .next s
    | some k =>
      match k.preempt with
      | none => .next s
      | some t =>
        if s.time < t + preemptLimit || k.saved.isSome then .next s
        else
          let s := s.modKernel kid fun k => { k with preempt := none }
          let s := k.cores.foldl (fun s c =>
            s.modCore c fun x => if x.activity = .preempted then { x with activity := .running } else x) s
          let s := { s with hub := { s.hub with osLog := s.hub.osLog ++ [(322, kid)] } }
          .next (s.schedule 0 (.iterationStart kid))
  | _ => .next s

/-! ### Resumption (R213, R324) -/

/-- A pool at its new home: the age of every published slot goes on from the save. -/
def PoolUnit.rebase (p : PoolUnit) (savedAt now : Nat) : PoolUnit :=
  { p with slots := p.slots.map fun x => { x with stamp := now - (savedAt - x.stamp) } }

/-- The pools and rings of a rank put at its new home; the units where they now stand. -/
def Core.rehome (c : Core) (v : SavedCore) (now : Nat) : Core × List (Fin 8 × Fin 8) × List (Fin 8 × Fin 8) :=
  let pool (a : Core × List (Fin 8 × Fin 8)) (u : Fin 8) : Core × List (Fin 8 × Fin 8) :=
    match v.pools[u] with
    | none => a
    | some p =>
      let n := freeUnit a.1.pools
      ({ a.1 with pools := a.1.pools.set n (some (p.rebase v.savedAt now)) }, a.2 ++ [(u, n)])
  let ring (a : Core × List (Fin 8 × Fin 8)) (u : Fin 8) : Core × List (Fin 8 × Fin 8) :=
    match v.rings[u] with
    | none => a
    | some p =>
      let n := freeUnit a.1.rings
      ({ a.1 with rings := a.1.rings.set n (some p) }, a.2 ++ [(u, n)])
  let a := (List.finRange 8).foldl pool (c, [])
  let b := (List.finRange 8).foldl ring (a.1, [])
  (b.1, a.2, b.2)

/-- A permutation register as it resumes: its index vector, with its settings and summary derived again; the identity on 256 where it
was not saved. -/
def SavedCore.perm (v : SavedCore) (k : Fin 16) : PermReg :=
  match v.perms.find? (·.1 = k) with
  | some p => if p.2.2 = List.range 256 then PermReg.identity256 else makePerm p.2.2
  | none => PermReg.identity256

/-- The registers of a core after its context is restored. -/
def Core.restored (c : Core) (k : Kernel) (v : SavedCore) : Core :=
  let r := Core.reset
  let plate := Memory.writeCells (c.plate.filter fun p => !inRanges v.ranges p.1) v.plate
  let marks := v.marks.foldl NatSet.insert (c.marks.filter fun l => !inRanges v.ranges (64 * l))
  let wiped := v.wiped.foldl NatSet.insert (c.wiped.filter fun a => !inRanges v.ranges a)
  let flags := v.flags ++ v.ranges.foldl (fun fs r => fs.flatMap fun f => f.cut r.1 r.2) c.flags
  { c with
    x := v.x.foldl (fun (a : Vector Word 32) p => a.set p.1 p.2) c.x,
    vw := v.vw.foldl (fun (a : Vector (BitVec 128) 32) p => a.set p.1 p.2) c.vw,
    perms := Vector.ofFn v.perm, masks := v.masks.foldl (fun (a : Vector (BitVec 4096) 8) p => a.set p.1 p.2) c.masks,
    sems := Vector.ofFn fun (i : Fin 32) =>
      { value := ((v.sems.find? (·.1 = i)).map (·.2)).getD c.sems[i].value, fault := v.faults.getD i.val false },
    shp := v.shp, mode := v.mode, utvec := v.utvec, ftlvl := v.ftlvl, ft := v.ft, lc := v.lc, lb := v.lb, le := v.le,
    fc := v.lc.map (·.toNat), order := v.order, streams := v.streams, guards := v.guards, plate, marks, wiped, flags, vstat := v.vstat, detst := v.detst,
    guardst := v.guardst, cause := v.cause, badaddr := v.badaddr, xpc0 := v.xpc.1, xpc1 := v.xpc.2.1,
    xpc2 := v.xpc.2.2, known := v.known, fenced := v.fenced, heard := v.heard, iter := v.iter, x30Start := v.x30, sclk := v.sclk,
    activity := if v.running then .running else .idle, chain := ⟨v.addr, 0, 0, false, false, false, false, false, false⟩,
    kernid := BitVec.ofNat 32 k.kid, tenant := k.tenant,
    groupid := BitVec.ofNat 64 (k.group + k.field 132 1 * 2 ^ 16 + v.rank * 2 ^ 24), tstatus := 0, queues := r.queues,
    engFree := r.engFree, burinFree := 0, divFree := 0, landings := [], globals := [], homeOps := [], copies := [], evq := [],
    evqPend := 0, tokens := r.tokens, ahead := [], posted := [], bankReads := [], traps := [], freeze := none, draining := none, rttWait := false, sOpen := false, issued := false,
    skipBreak := false, loopDeferred := none, seg := Segment.none, haltedAt := none,
    window := Window.fresh (c.window.number + 1), oldWindows := [] }

/-- Where a unit of a rank now stands. -/
def movedUnit (l : List (Fin 8 × Fin 8)) (u : Fin 8) : Fin 8 := ((l.find? (·.1 = u)).map (·.2)).getD u

/-- A release left at an object of a core that has moved. -/
def Published.rehomed (p : Published) (c : CoreId) (pools rings : List (Fin 8 × Fin 8)) : Published :=
  match p.obj with
  | .sem _ i => { p with obj := .sem c i }
  | .pool _ u => { p with obj := .pool c (movedUnit pools (Fin.ofNat 8 u)).val }
  | .ring _ u => { p with obj := .ring c (movedUnit rings (Fin.ofNat 8 u)).val }

/-- One rank resumes on a core: its context with what it acquires, its chain from ADDR, its pools and rings. -/
def State.resumeCore (s : State) (k : Kernel) (v : SavedCore) (c : CoreId) : State × List (Fin 8 × Fin 8) × List (Fin 8 × Fin 8) :=
  let r := (s.core c).rehome v (s.now c)
  let s := s.setCore c (r.1.restored k v)
  let stale (p : Published) : Bool := match p.obj with | .sem d _ => d = c | _ => false
  let s : State :=
    { s with synced := v.synced.map (·.rehomed c r.2.1 r.2.2) ++ s.synced.filter fun p => !stale p }
  let s := s.onCore c fun s =>
    let a := s.seq s.cpu.chain.c0
    let b := a.2.seq a.1
    b.2.modCpu fun x => { x with chain := { x.chain with c1 := a.1, c2 := b.1 } }
  (s, r.2)

/-- Every rank resumes. -/
def State.resumeAll (s : State) (k : Kernel) : List (SavedCore × CoreId) → State × List (Nat × List (Fin 8 × Fin 8) × List (Fin 8 × Fin 8))
  | [] => (s, [])
  | p :: ps =>
    let a := s.resumeCore k p.1 p.2
    let b := a.1.resumeAll k ps
    (b.1, (p.1.rank, a.2) :: b.2)

/-- A saved kernel cannot resume on some cores yet: the module is shutting down, a WSTORE is under way on a die of theirs, or a home would be full (R262, R275). -/
def State.resumeBarred (s : State) (k : Kernel) (ctx : List SavedCore) (cores : List CoreId) : Bool :=
  s.hub.closing || (diesOf cores).any (s.wstoreOn k.tenant) ||
    (ctx.zip cores).any fun p => 8 < (s.core p.2).tenantPools + (p.1.pools.toList.filterMap id).length

/-- RESUMPTION: a saved kernel takes cores of its tenant again once it has its turn and enough are free; the cores' clocks go on from
here. DESIGN CHOICE (log entry 104): on which dies, where several sets have the cores, is a choice. -/
def execResumption (s : State) : Out :=
  match s.event with
  | .resumption kid =>
    match s.kernel kid with
    | none => .next s
    | some k =>
      let places := placementsLike k.record (s.freeCore k.tenant none)
      match k.saved, places[s.choice % places.length]? with
      | some ctx, some cores =>
        if k.fault.isSome || (s.kernels.any fun w => w.tenant = k.tenant && w.waits && k.prio < w.prio) then .next s
        else if s.resumeBarred k ctx cores then .next (s.schedule 64 s.event)
        else
          let s := s.chosen
          let gang := (diesOf cores).map fun d => (d, (s.die d).dclk)
          let s := s.modKernel kid fun k => { k with cores, saved := none, preempt := none, gang }
          let k := { k with cores, saved := none, gang }
          let r := s.resumeAll k (ctx.zip cores)
          let s : State := r.1
          let unitsOf (rank : Nat) : List (Fin 8 × Fin 8) × List (Fin 8 × Fin 8) :=
            match r.2.find? (·.1 = rank) with | some p => p.2 | none => ([], [])
          let s := s.modKernel kid fun k =>
            { k with
              pools := k.pools.map fun p => p.map fun x =>
                if x.tenantPool then x else { x with unit := movedUnit (unitsOf x.home).1 x.unit },
              rings := k.rings.map fun p => p.map fun x => { x with unit := movedUnit (unitsOf x.cons).2 x.unit } }
          .next (s.schedule 0 (.iterationStart kid))
      | _, _ => .next s
  | _ => .next s

end Sys2Proof.Machine
end

