-- ==== Sys2Proof/Machine/Trap.lean ====
section
/-! DEFINITION. Handler traps between S-cycles (R121, R122), and the ends of MODESET and QDRAIN (R115, R250). -/

namespace Sys2Proof.Machine

/-! ### Pending causes (R121) -/

/-- The place of a pending cause among those of one boundary (R121): the sequencer's TRAP, its guard report, its other causes, then the
engines' in queue order. -/
def PendingTrap.rank (t : PendingTrap) : Nat :=
  3 * engCode t.eng + (if t.cause = .trapInstr then 0 else if t.cause = .guardReport then 1 else 2)

/-- Which of the pending causes is taken first. -/
def firstOf : List PendingTrap → Option PendingTrap
  | [] => none
  | t :: ts =>
    match firstOf ts with
    | some u => if t.rank ≤ u.rank then some t else some u
    | none => some t

/-- The cause that is taken next: in trap mode only a handler instruction's own. -/
def Core.nextTrap (c : Core) : Option PendingTrap := firstOf (c.traps.filter fun t => t.handler = c.trapMode)

/-- HANDLER_TRAP (R122): the first pending cause is taken. -/
def execHandlerTrap (s : State) : Out :=
  match s.cpu.nextTrap with
  | some t => .next ((s.modCpu fun c => { c with traps := c.traps.erase t }).takeTrap s.cur t)
  | none => .next s

/-! ### MODESET and QDRAIN -/

/-- The LD, MX, VX and ST queues are empty, and every result of theirs and of the sequencer has landed or been performed. -/
def Core.drained (c : Core) : Bool :=
  [Engine.ld, .mx, .vx, .st].all (fun e => (c.queues[engIx e]).isEmpty) && c.landings.isEmpty && c.globals.isEmpty

/-- MODESET_COMPLETE (R115): EXP, DET and WSCHED take the new bits at S-cycle d, and the next instruction issues at d + 4. -/
def execModesetComplete (s : State) : Out :=
  let c := s.cpu
  match c.draining with
  | some (.modeset v) =>
    if c.drained then
      .next (s.modCpu fun c =>
        { c with mode := BitVec.ofNat 64 (c.mode.toNat / 8 * 8 + v.toNat), draining := some (.modesetWait v (c.sclk + 4)) })
    else .next s
  | _ => .next s

/-- The engines that a QDRAIN mask selects; 0 selects all. -/
def drainSet (m : BitVec 5) : List Engine := [Engine.ld, .mx, .vx, .st, .cp].filter fun e => m = 0 || bitOf m (engIx e).val

/-- The queue of an engine is empty and nothing of it is in flight. -/
def Core.engineQuiet (c : Core) (e : Engine) : Bool :=
  (c.queues[engIx e]).isEmpty && !(c.landings.any fun l => l.eng = some e) && (e ≠ .cp || c.copies.isEmpty)

/-- QDRAIN_COMPLETE (R250): the next instruction issues in the next S-cycle. -/
def execQdrainComplete (s : State) : Out :=
  let c := s.cpu
  match c.draining with
  | some (.qdrain m) =>
    if (drainSet m).all c.engineQuiet then .next (s.modCpu fun c => { c with draining := none }).endCycle else .next s
  | _ => .next s

end Sys2Proof.Machine
end

