-- ==== Sys2Proof/Machine/Dispatch.lean ====
section
/-! DEFINITION. The dispatcher: one arm for each row of spec/opcode_table.json. -/

namespace Sys2Proof.Machine

def exec (i : Instr) (s : State) : Host.Outcome State Fault Refusal :=
  match i with
  | .add w d a b => Sys2Proof.Machine.execAdd w d a b s
  | .sub w d a b => Sys2Proof.Machine.execSub w d a b s
  | .and w d a b => Sys2Proof.Machine.execAnd w d a b s
  | .or w d a b => Sys2Proof.Machine.execOr w d a b s
  | .xor w d a b => Sys2Proof.Machine.execXor w d a b s
  | .andn w d a b => Sys2Proof.Machine.execAndn w d a b s
  | .sll w d a b => Sys2Proof.Machine.execSll w d a b s
  | .srl w d a b => Sys2Proof.Machine.execSrl w d a b s
  | .sra w d a b => Sys2Proof.Machine.execSra w d a b s
  | .rol w d a b => Sys2Proof.Machine.execRol w d a b s
  | .mul w d a b => Sys2Proof.Machine.execMul w d a b s
  | .mulh w d a b => Sys2Proof.Machine.execMulh w d a b s
  | .mulhu w d a b => Sys2Proof.Machine.execMulhu w d a b s
  | .div w d a b => Sys2Proof.Machine.execDiv w d a b s
  | .divu w d a b => Sys2Proof.Machine.execDivu w d a b s
  | .rem w d a b => Sys2Proof.Machine.execRem w d a b s
  | .remu w d a b => Sys2Proof.Machine.execRemu w d a b s
  | .min w d a b => Sys2Proof.Machine.execMin w d a b s
  | .max w d a b => Sys2Proof.Machine.execMax w d a b s
  | .minu w d a b => Sys2Proof.Machine.execMinu w d a b s
  | .maxu w d a b => Sys2Proof.Machine.execMaxu w d a b s
  | .slt w d a b => Sys2Proof.Machine.execSlt w d a b s
  | .sltu w d a b => Sys2Proof.Machine.execSltu w d a b s
  | .seq w d a b => Sys2Proof.Machine.execSeq w d a b s
  | .clz w d a => Sys2Proof.Machine.execClz w d a s
  | .ctz w d a => Sys2Proof.Machine.execCtz w d a s
  | .popc w d a => Sys2Proof.Machine.execPopc w d a s
  | .brev w d a => Sys2Proof.Machine.execBrev w d a s
  | .bswap w d a => Sys2Proof.Machine.execBswap w d a s
  | .movz w d a b => Sys2Proof.Machine.execMovz w d a b s
  | .movn w d a b => Sys2Proof.Machine.execMovn w d a b s
  | .addi d a imm => Sys2Proof.Machine.execAddi d a imm s
  | .andi d a imm => Sys2Proof.Machine.execAndi d a imm s
  | .ori d a imm => Sys2Proof.Machine.execOri d a imm s
  | .xori d a imm => Sys2Proof.Machine.execXori d a imm s
  | .slli d a sh => Sys2Proof.Machine.execSlli d a sh s
  | .srli d a sh => Sys2Proof.Machine.execSrli d a sh s
  | .srai d a sh => Sys2Proof.Machine.execSrai d a sh s
  | .slti d a imm => Sys2Proof.Machine.execSlti d a imm s
  | .sltiu d a imm => Sys2Proof.Machine.execSltiu d a imm s
  | .seqi d a imm => Sys2Proof.Machine.execSeqi d a imm s
  | .ldb d a imm => Sys2Proof.Machine.execLdb d a imm s
  | .ldbu d a imm => Sys2Proof.Machine.execLdbu d a imm s
  | .ldh d a imm => Sys2Proof.Machine.execLdh d a imm s
  | .ldhu d a imm => Sys2Proof.Machine.execLdhu d a imm s
  | .ldw d a imm => Sys2Proof.Machine.execLdw d a imm s
  | .ldwu d a imm => Sys2Proof.Machine.execLdwu d a imm s
  | .ldd d a imm => Sys2Proof.Machine.execLdd d a imm s
  | .stb src a imm => Sys2Proof.Machine.execStb src a imm s
  | .sth src a imm => Sys2Proof.Machine.execSth src a imm s
  | .stw src a imm => Sys2Proof.Machine.execStw src a imm s
  | .std src a imm => Sys2Proof.Machine.execStd src a imm s
  | .beq a b nul disp => Sys2Proof.Machine.execBeq a b nul disp s
  | .bne a b nul disp => Sys2Proof.Machine.execBne a b nul disp s
  | .blt a b nul disp => Sys2Proof.Machine.execBlt a b nul disp s
  | .bge a b nul disp => Sys2Proof.Machine.execBge a b nul disp s
  | .bltu a b nul disp => Sys2Proof.Machine.execBltu a b nul disp s
  | .bgeu a b nul disp => Sys2Proof.Machine.execBgeu a b nul disp s
  | .bra nul disp => Sys2Proof.Machine.execBra nul disp s
  | .jalr d a imm => Sys2Proof.Machine.execJalr d a imm s
  | .nop => Sys2Proof.Machine.execNop s
  | .halt => Sys2Proof.Machine.execHalt s
  | .trap n => Sys2Proof.Machine.execTrap n s
  | .rtt => Sys2Proof.Machine.execRtt s
  | .fence kind scope => Sys2Proof.Machine.execFence kind scope s
  | .qdrain m => Sys2Proof.Machine.execQdrain m s
  | .modeset v => Sys2Proof.Machine.execModeset v s
  | .segb => Sys2Proof.Machine.execSegb s
  | .tmark => Sys2Proof.Machine.execTmark s
  | .gset a b => Sys2Proof.Machine.execGset a b s
  | .gclr a b => Sys2Proof.Machine.execGclr a b s
  | .evpop d => Sys2Proof.Machine.execEvpop d s
  | .evpeek d => Sys2Proof.Machine.execEvpeek d s
  | .tlbinv a b => Sys2Proof.Machine.execTlbinv a b s
  | .lbrk lvl => Sys2Proof.Machine.execLbrk lvl s
  | .csrr d idx => Sys2Proof.Machine.execCsrr d idx s
  | .csrw d a idx => Sys2Proof.Machine.execCsrw d a idx s
  | .csrs d a idx => Sys2Proof.Machine.execCsrs d a idx s
  | .csrc d a idx => Sys2Proof.Machine.execCsrc d a idx s
  | .loop lvl rot fti a len => Sys2Proof.Machine.execLoop lvl rot fti a len s
  | .semadd n scope a => Sys2Proof.Machine.execSemadd n scope a s
  | .semset n scope a => Sys2Proof.Machine.execSemset n scope a s
  | .semwait n scope a => Sys2Proof.Machine.execSemwait n scope a s
  | .semrd d n => Sys2Proof.Machine.execSemrd d n s
  | .semradd n scope a b => Sys2Proof.Machine.execSemradd n scope a b s
  | .semmset n scope a b => Sys2Proof.Machine.execSemmset n scope a b s
  | .pwbegin d p => Sys2Proof.Machine.execPwbegin d p s
  | .pwend p scope => Sys2Proof.Machine.execPwend p scope s
  | .pwnext d p scope => Sys2Proof.Machine.execPwnext d p scope s
  | .prbegin d p scope => Sys2Proof.Machine.execPrbegin d p scope s
  | .prend p => Sys2Proof.Machine.execPrend p s
  | .prnext d p scope => Sys2Proof.Machine.execPrnext d p scope s
  | .pquery d p => Sys2Proof.Machine.execPquery d p s
  | .racq d r scope => Sys2Proof.Machine.execRacq d r scope s
  | .rpub r scope => Sys2Proof.Machine.execRpub r scope s
  | .rtake d r scope => Sys2Proof.Machine.execRtake d r scope s
  | .rfree r scope => Sys2Proof.Machine.execRfree r scope s
  | .rclose r scope err => Sys2Proof.Machine.execRclose r scope err s
  | .rbrk r => Sys2Proof.Machine.execRbrk r s
  | .rstat d r => Sys2Proof.Machine.execRstat d r s
  | .launch a => Sys2Proof.Machine.execLaunch a s
  | .launchs a => Sys2Proof.Machine.execLaunchs a s
  | .vwset n a b => Sys2Proof.Machine.execVwset n a b s
  | .vwget d n => Sys2Proof.Machine.execVwget d n s
  | .shpset a => Sys2Proof.Machine.execShpset a s
  | .ftset n a => Sys2Proof.Machine.execFtset n a s
  | .mset n a b => Sys2Proof.Machine.execMset n a b s
  | .rotset n a => Sys2Proof.Machine.execRotset n a s
  | .li d v => Sys2Proof.Machine.execLi d v s
  | .lih d v => Sys2Proof.Machine.execLih d v s
  | .addil d a v => Sys2Proof.Machine.execAddil d a v s
  | .andil d a v => Sys2Proof.Machine.execAndil d a v s
  | .oril d a v => Sys2Proof.Machine.execOril d a v s
  | .xoril d a v => Sys2Proof.Machine.execXoril d a v s
  | .jal d disp => Sys2Proof.Machine.execJal d disp s
  | .beqi a nul v disp => Sys2Proof.Machine.execBeqi a nul v disp s
  | .bnei a nul v disp => Sys2Proof.Machine.execBnei a nul v disp s
  | .blti a nul v disp => Sys2Proof.Machine.execBlti a nul v disp s
  | .bgei a nul v disp => Sys2Proof.Machine.execBgei a nul v disp s
  | .bltui a nul v disp => Sys2Proof.Machine.execBltui a nul v disp s
  | .bgeui a nul v disp => Sys2Proof.Machine.execBgeui a nul v disp s
  | .loopi lvl rot fti len count => Sys2Proof.Machine.execLoopi lvl rot fti len count s
  | .sege a sig => Sys2Proof.Machine.execSege a sig s
  | .vadd v => Sys2Proof.Machine.execVadd v s
  | .vsub v => Sys2Proof.Machine.execVsub v s
  | .vmul v => Sys2Proof.Machine.execVmul v s
  | .vfma v => Sys2Proof.Machine.execVfma v s
  | .vfms v => Sys2Proof.Machine.execVfms v s
  | .vfnma v => Sys2Proof.Machine.execVfnma v s
  | .vmin v => Sys2Proof.Machine.execVmin v s
  | .vmax v => Sys2Proof.Machine.execVmax v s
  | .vabs v => Sys2Proof.Machine.execVabs v s
  | .vneg v => Sys2Proof.Machine.execVneg v s
  | .vaddsub v => Sys2Proof.Machine.execVaddsub v s
  | .vavg v => Sys2Proof.Machine.execVavg v s
  | .vmulh v => Sys2Proof.Machine.execVmulh v s
  | .vshl v => Sys2Proof.Machine.execVshl v s
  | .vshr v => Sys2Proof.Machine.execVshr v s
  | .vsra v => Sys2Proof.Machine.execVsra v s
  | .vand v => Sys2Proof.Machine.execVand v s
  | .vor v => Sys2Proof.Machine.execVor v s
  | .vxor v => Sys2Proof.Machine.execVxor v s
  | .vnot v => Sys2Proof.Machine.execVnot v s
  | .vsel v => Sys2Proof.Machine.execVsel v s
  | .vmov v => Sys2Proof.Machine.execVmov v s
  | .vclamp v => Sys2Proof.Machine.execVclamp v s
  | .vabsd v => Sys2Proof.Machine.execVabsd v s
  | .vcmpeq v => Sys2Proof.Machine.execVcmpeq v s
  | .vcmpne v => Sys2Proof.Machine.execVcmpne v s
  | .vcmplt v => Sys2Proof.Machine.execVcmplt v s
  | .vcmple v => Sys2Proof.Machine.execVcmple v s
  | .vcmpgt v => Sys2Proof.Machine.execVcmpgt v s
  | .vcmpge v => Sys2Proof.Machine.execVcmpge v s
  | .vclass v => Sys2Proof.Machine.execVclass v s
  | .vrcp v => Sys2Proof.Machine.execVrcp v s
  | .vrsqrt v => Sys2Proof.Machine.execVrsqrt v s
  | .vsqrt v => Sys2Proof.Machine.execVsqrt v s
  | .vexp2 v => Sys2Proof.Machine.execVexp2 v s
  | .vlog2 v => Sys2Proof.Machine.execVlog2 v s
  | .vexp v => Sys2Proof.Machine.execVexp v s
  | .vtanh v => Sys2Proof.Machine.execVtanh v s
  | .vsigm v => Sys2Proof.Machine.execVsigm v s
  | .vsilu v => Sys2Proof.Machine.execVsilu v s
  | .vgelu v => Sys2Proof.Machine.execVgelu v s
  | .vsin v => Sys2Proof.Machine.execVsin v s
  | .vcos v => Sys2Proof.Machine.execVcos v s
  | .vdiv v => Sys2Proof.Machine.execVdiv v s
  | .vrsum v => Sys2Proof.Machine.execVrsum v s
  | .vrmax v => Sys2Proof.Machine.execVrmax v s
  | .vrmin v => Sys2Proof.Machine.execVrmin v s
  | .vramax v => Sys2Proof.Machine.execVramax v s
  | .vcsum v => Sys2Proof.Machine.execVcsum v s
  | .vcmax v => Sys2Proof.Machine.execVcmax v s
  | .vscan v => Sys2Proof.Machine.execVscan v s
  | .vdot v => Sys2Proof.Machine.execVdot v s
  | .vtopk v => Sys2Proof.Machine.execVtopk v s
  | .vsortr v => Sys2Proof.Machine.execVsortr v s
  | .vmrgk v => Sys2Proof.Machine.execVmrgk v s
  | .vcompr v => Sys2Proof.Machine.execVcompr v s
  | .vexpnd v => Sys2Proof.Machine.execVexpnd v s
  | .vbcast v => Sys2Proof.Machine.execVbcast v s
  | .vtrans v => Sys2Proof.Machine.execVtrans v s
  | .viota v => Sys2Proof.Machine.execViota v s
  | .vgathr v => Sys2Proof.Machine.execVgathr v s
  | .vscatr v => Sys2Proof.Machine.execVscatr v s
  | .vcvt v => Sys2Proof.Machine.execVcvt v s
  | .vrqnt v => Sys2Proof.Machine.execVrqnt v s
  | .vmxq v => Sys2Proof.Machine.execVmxq v s
  | .vmxdq v => Sys2Proof.Machine.execVmxdq v s
  | .vunpk3 v => Sys2Proof.Machine.execVunpk3 v s
  | .vpack3 v => Sys2Proof.Machine.execVpack3 v s
  | .vunpk4 v => Sys2Proof.Machine.execVunpk4 v s
  | .vpack4 v => Sys2Proof.Machine.execVpack4 v s
  | .vsat v => Sys2Proof.Machine.execVsat v s
  | .vrnd v => Sys2Proof.Machine.execVrnd v s
  | .pld v => Sys2Proof.Machine.execPld v s
  | .pst v => Sys2Proof.Machine.execPst v s
  | .pcomp v => Sys2Proof.Machine.execPcomp v s
  | .pinv v => Sys2Proof.Machine.execPinv v s
  | .ppow v => Sys2Proof.Machine.execPpow v s
  | .prand v => Sys2Proof.Machine.execPrand v s
  | .pidn v => Sys2Proof.Machine.execPidn v s
  | .pcyc v => Sys2Proof.Machine.execPcyc v s
  | .pxch v => Sys2Proof.Machine.execPxch v s
  | .vperm v => Sys2Proof.Machine.execVperm v s
  | .pcycv v => Sys2Proof.Machine.execPcycv v s
  | .tld v => Sys2Proof.Machine.execTld v s
  | .tldi v => Sys2Proof.Machine.execTldi v s
  | .tldw v => Sys2Proof.Machine.execTldw v s
  | .tpref v => Sys2Proof.Machine.execTpref v s
  | .sbind v => Sys2Proof.Machine.execSbind v s
  | .sadv v => Sys2Proof.Machine.execSadv v s
  | .wref v => Sys2Proof.Machine.execWref v s
  | .tst v => Sys2Proof.Machine.execTst v s
  | .tsti v => Sys2Proof.Machine.execTsti v s
  | .tstm v => Sys2Proof.Machine.execTstm v s
  | .cpy v => Sys2Proof.Machine.execCpy v s
  | .cpya v => Sys2Proof.Machine.execCpya v s
  | .cmcast v => Sys2Proof.Machine.execCmcast v s
  | .catom v => Sys2Proof.Machine.execCatom v s
  | .cfill v => Sys2Proof.Machine.execCfill v s
  | .rnode v => Sys2Proof.Machine.execRnode v s
  | .rcont v => Sys2Proof.Machine.execRcont v s
  | .wstore v => Sys2Proof.Machine.execWstore v s
  | .mma m => Sys2Proof.Machine.execMma m s
  | .mmas m => Sys2Proof.Machine.execMmas m s
  | .mmat m => Sys2Proof.Machine.execMmat m s
  | .mdrain m => Sys2Proof.Machine.execMdrain m s
  | .mdrainmx m => Sys2Proof.Machine.execMdrainmx m s
  | .mldac m => Sys2Proof.Machine.execMldac m s
  | .mclr m => Sys2Proof.Machine.execMclr m s
  | .wbld m => Sys2Proof.Machine.execWbld m s
  | .wbinv m => Sys2Proof.Machine.execWbinv m s
  | .engineDispatch => Sys2Proof.Machine.execEngineDispatch s
  | .resultLanding => Sys2Proof.Machine.execResultLanding s
  | .group4ReadPromotion => Sys2Proof.Machine.execGroup4ReadPromotion s
  | .handlerTrap => Sys2Proof.Machine.execHandlerTrap s
  | .rttResume => Sys2Proof.Machine.execRttResume s
  | .haltComplete => Sys2Proof.Machine.execHaltComplete s
  | .modesetComplete => Sys2Proof.Machine.execModesetComplete s
  | .qdrainComplete => Sys2Proof.Machine.execQdrainComplete s
  | .fenceAck => Sys2Proof.Machine.execFenceAck s
  | .semwaitSatisfied => Sys2Proof.Machine.execSemwaitSatisfied s
  | .semRemoteService => Sys2Proof.Machine.execSemRemoteService s
  | .poolService => Sys2Proof.Machine.execPoolService s
  | .ringService => Sys2Proof.Machine.execRingService s
  | .ringWaitServiced => Sys2Proof.Machine.execRingWaitServiced s
  | .homeReplyArrival => Sys2Proof.Machine.execHomeReplyArrival s
  | .lateAccessArrival => Sys2Proof.Machine.execLateAccessArrival s
  | .evqRecordArrival => Sys2Proof.Machine.execEvqRecordArrival s
  | .copyComplete => Sys2Proof.Machine.execCopyComplete s
  | .copyDispatchFaultRecord => Sys2Proof.Machine.execCopyDispatchFaultRecord s
  | .memoryPortArrival => Sys2Proof.Machine.execMemoryPortArrival s
  | .nodeArmingRecord => Sys2Proof.Machine.execNodeArmingRecord s
  | .reductionPacketArrival => Sys2Proof.Machine.execReductionPacketArrival s
  | .nodeDeadline => Sys2Proof.Machine.execNodeDeadline s
  | .rootRecordWrite => Sys2Proof.Machine.execRootRecordWrite s
  | .rcontAnswer => Sys2Proof.Machine.execRcontAnswer s
  | .iterationStart => Sys2Proof.Machine.execIterationStart s
  | .tlbMissResolved => Sys2Proof.Machine.execTlbMissResolved s
  | .pageFaultResolved => Sys2Proof.Machine.execPageFaultResolved s
  | .tlbinvComplete => Sys2Proof.Machine.execTlbinvComplete s
  | .replayRereadDone => Sys2Proof.Machine.execReplayRereadDone s
  | .wsBackstopRefresh => Sys2Proof.Machine.execWsBackstopRefresh s
  | .wsRefreshEnd => Sys2Proof.Machine.execWsRefreshEnd s
  | .hbmRefresh => Sys2Proof.Machine.execHbmRefresh s
  | .patrolScrub => Sys2Proof.Machine.execPatrolScrub s
  | .hbmLaneRepair => Sys2Proof.Machine.execHbmLaneRepair s
  | .hbmRepairPauseEnd => Sys2Proof.Machine.execHbmRepairPauseEnd s
  | .cxlPortFailure => Sys2Proof.Machine.execCxlPortFailure s
  | .crossbarGrant => Sys2Proof.Machine.execCrossbarGrant s
  | .d2dDelivery => Sys2Proof.Machine.execD2dDelivery s
  | .noticeWindow => Sys2Proof.Machine.execNoticeWindow s
  | .hubNotice => Sys2Proof.Machine.execHubNotice s
  | .multicastApply => Sys2Proof.Machine.execMulticastApply s
  | .biryarFlitReceive => Sys2Proof.Machine.execBiryarFlitReceive s
  | .biryarNack => Sys2Proof.Machine.execBiryarNack s
  | .laneFallback => Sys2Proof.Machine.execLaneFallback s
  | .portDown => Sys2Proof.Machine.execPortDown s
  | .pathResend => Sys2Proof.Machine.execPathResend s
  | .endToEndAck => Sys2Proof.Machine.execEndToEndAck s
  | .headerError => Sys2Proof.Machine.execHeaderError s
  | .packetAbandon => Sys2Proof.Machine.execPacketAbandon s
  | .coreStateParity => Sys2Proof.Machine.execCoreStateParity s
  | .activate => Sys2Proof.Machine.execActivate s
  | .cancel => Sys2Proof.Machine.execCancel s
  | .hostRegisterWrite => Sys2Proof.Machine.execHostRegisterWrite s
  | .vfEnable => Sys2Proof.Machine.execVfEnable s
  | .ebstatWrite => Sys2Proof.Machine.execEbstatWrite s
  | .ebceWrite => Sys2Proof.Machine.execEbceWrite s
  | .kernNode => Sys2Proof.Machine.execKernNode s
  | .kernelPlacement => Sys2Proof.Machine.execKernelPlacement s
  | .stagingComplete => Sys2Proof.Machine.execStagingComplete s
  | .copyNode => Sys2Proof.Machine.execCopyNode s
  | .condNode => Sys2Proof.Machine.execCondNode s
  | .loopNode => Sys2Proof.Machine.execLoopNode s
  | .joinNode => Sys2Proof.Machine.execJoinNode s
  | .signalNode => Sys2Proof.Machine.execSignalNode s
  | .endNode => Sys2Proof.Machine.execEndNode s
  | .kernelEnd => Sys2Proof.Machine.execKernelEnd s
  | .tenantPoolCreate => Sys2Proof.Machine.execTenantPoolCreate s
  | .preemptRequest => Sys2Proof.Machine.execPreemptRequest s
  | .preemptSave => Sys2Proof.Machine.execPreemptSave s
  | .preemptWithdraw => Sys2Proof.Machine.execPreemptWithdraw s
  | .resumption => Sys2Proof.Machine.execResumption s
  | .powerOn => Sys2Proof.Machine.execPowerOn s
  | .moduleOsInit => Sys2Proof.Machine.execModuleOsInit s
  | .spdmRequest => Sys2Proof.Machine.execSpdmRequest s
  | .pldmReport => Sys2Proof.Machine.execPldmReport s
  | .pldmFwUpdate => Sys2Proof.Machine.execPldmFwUpdate s
  | .powerLimitSet => Sys2Proof.Machine.execPowerLimitSet s
  | .thermalLimit => Sys2Proof.Machine.execThermalLimit s
  | .lifeRecordUpdate => Sys2Proof.Machine.execLifeRecordUpdate s
  | .kernelImageLoad => Sys2Proof.Machine.execKernelImageLoad s
  | .tenantPoolDestroy => Sys2Proof.Machine.execTenantPoolDestroy s
  | .coreOwnershipChange => Sys2Proof.Machine.execCoreOwnershipChange s
  | .biryarPortTrained => Sys2Proof.Machine.execBiryarPortTrained s
  | .biryarStatusWrite => Sys2Proof.Machine.execBiryarStatusWrite s
  | .vfDisable => Sys2Proof.Machine.execVfDisable s
  | .powerLoss => Sys2Proof.Machine.execPowerLoss s

end Sys2Proof.Machine
end

