-- ==== Sys2Proof/Machine/Cycle.lean ====
section
/-! DEFINITION. What the module does next (R38–R43, R101, R114, R115, R121, R126, R127): the events that are due, the core whose
S-cycle is performed, and within an S-cycle the landings, the dispatches and the issue, in that order. -/

namespace Sys2Proof.Machine

/-- An outcome with its next state changed. -/
def onNext (o : Out) (f : State → State) : Out :=
  match o with
  | .next s => .next (f s)
  | .fault r => .fault r
  | .refused r => .refused r

/-! ### Handler traps and precise faults at a boundary (R121, R122, R126) -/

/-- Every cause. -/
def allCauses : List Cause :=
  [.illegalInstruction, .illegalFormat, .illegalInSlot, .misaligned, .accessFault, .platePrivilege, .groupViolation, .viewBounds,
   .shapeLimit, .tokenOverflow, .ringBroken, .poolOvercommit, .permInvalid, .ternaryIllegal, .proofMismatch, .guardReport,
   .trapInstr, .breakpoint, .loopNesting, .streamUnbound, .poison, .overlapRace, .unreplayable]

/-- The precise fault that an issue has ended in, from the trap registers. -/
def State.trappedBy (s t : State) : Option (Cause × Word) :=
  if !s.cpu.trapMode && t.cpu.trapMode && bitOf t.cpu.cause 9 then
    (allCauses.find? fun k => k.code = bitsOf t.cpu.cause 0 8).map fun k => (k, t.cpu.badaddr)
  else none

/-- What the instruction at c0 comes to where it would issue now. -/
inductive Forecast
  /-- It issues, waits, or passes annulled. -/
  | clear
  /-- The translation of this address comes first. -/
  | miss (va : Nat) (r : Right)
  /-- The index tile of this transfer comes first. -/
  | index (q : QEntry)
  | fault (k : Cause) (badaddr : Word)
deriving DecidableEq, Repr

/-- The first address that an instruction at c0 needs a translation for (R93, R107). DEDUCED (log entry 69): a misaligned access,
which R93 checks first, faults without a translation. -/
def State.issueMiss (s : State) (i : Instr) (n : Nat) : Option (Nat × Right) :=
  let pc := s.cpu.chain.c0.toNat
  ((s.missing s.cur [pc, pc + 4 * n - 4]).map (·, Right.fetch)).or <|
    match scalarAccess i s.cpu with
    | some (load, size, ea) =>
      if ea.toNat % size ≠ 0 then none
      else (s.missing s.cur [ea.toNat]).map (·, if load then Right.read else .write)
    | none => none

/-- The address of the last parcel of the instruction at c0, as far as its first parcel tells. -/
def State.lastFetch (s : State) : Nat := s.cpu.chain.c0.toNat + 4 * s.lengthAt s.cur s.cpu.chain.c0 - 4

/-- The forecast for the instruction at c0 with every result due landed (R57, R105, R107). -/
def State.issueForecast (s : State) : Forecast :=
  let pc := s.cpu.chain.c0
  if !s.present s.cur pc.toNat then .miss pc.toNat .fetch
  else
    match s.fetch s.cur pc with
    | .noAccess =>
      if s.cpu.chain.annul0 then .clear
      else if s.present s.cur s.lastFetch then .fault .accessFault pc else .miss s.lastFetch .fetch
    | .illegal _ => if s.cpu.chain.annul0 then .clear else .fault .illegalInstruction pc
    | .instr i n =>
      if s.cpu.chain.annul0 then (if slotForbidden i && s.cpu.inSlot then .fault .illegalInSlot pc else .clear)
      else if s.issueWait i ≠ .go then .clear
      else
        match s.issueMiss i n with
        | some m => .miss m.1 m.2
        | none =>
          match exec i s with
          | .next t => match s.trappedBy t with | some f => .fault f.1 f.2 | none => .clear
          | _ => .clear

/-- The engine whose head dispatches next in this S-cycle: the earliest instruction of those that are ready; where a head waits for a
token that CP feeds, only CP's own head still leaves (R25). -/
def State.nextDispatch (s : State) : Option Engine :=
  let es := [Engine.ld, .mx, .vx, .st, .cp]
  let ready := if es.any fun e => s.headReady e = .frozen then [Engine.cp].filter fun e => s.headReady e = .go
    else es.filter fun e => s.headReady e = .go
  ready.foldl (fun best e =>
    match best, s.cpu.headOf e with
    | some b, some q => match s.cpu.headOf b with | some p => if q.seq < p.seq then some e else best | none => some e
    | none, some _ => some e
    | best, none => best) none

/-- A head of LD or ST waits for a token that CP feeds. -/
def State.cpWait (s : State) : Bool := [Engine.ld, .mx, .vx, .st, .cp].any fun e => s.headReady e = .frozen

/-- The S-cycle that is about to open, carried out as far as the issue, to see whether its instruction faults precisely or misses a
translation; `fuel` bounds its landings and dispatches. A translation or an index tile that a dispatch waits for is waited for before the
S-cycle opens; past a replay the question goes on with what it would leave. -/
def State.forecast : (fuel : Nat) → State → Forecast
  | 0, _ => .clear
  | n + 1, s =>
    match nextDue s.cpu.sclk s.cpu.landings with
    | some l => (s.landNow l).forecast n
    | none =>
      match s.nextDispatch with
      | some e =>
        match exec .engineDispatch { s with event := .engineDispatch e } with
        | .next t =>
          match t.cpu.freeze, s.cpu.headOf e with
          | none, _ => t.forecast n
          | some (.translation va r), _ => .miss va r
          | some .late, some q => .index q
          | some .replay, _ =>
            match exec .replayRereadDone { t with event := .replayRereadDone t.cur } with
            | .next u => u.forecast n
            | _ => .clear
          | _, _ => .clear
        | _ => .clear
      | none => if s.cpWait then .clear else s.issueForecast

/-- The landings, dispatches and replays that an S-cycle can hold. -/
def Core.work (c : Core) : Nat := c.landings.length + 2 * (c.queues.toList.map List.length).foldl (· + ·) 0 + 1

/-- A breakpoint stands at c0 and is to be raised (R126). -/
def Core.atBreak (c : Core) : Bool := c.breakpoints.contains c.chain.c0 && !c.chain.annul0 && !c.skipBreak

/-- The forecast of the S-cycle at whose start the core in focus stands. -/
def State.boundary (s : State) : Forecast :=
  if s.cpu.atBreak then .fault .breakpoint s.cpu.chain.c0
  else { s.modCpu (fun c => { c with sOpen := true }) with curDone := false }.forecast s.cpu.work

/-! ### What comes next -/

/-- What the module does next: the step that the agenda lists first, a step of its own, the issue of an instruction at the core in
focus, or sequencing without a step. -/
inductive Action
  | due (e : Event)
  | event (e : Event)
  | issue (i : Instr)
  | move (s : State)
deriving DecidableEq, Repr

/-- The core has had its turn in this die cycle. -/
def State.rest (s : State) : State := { s with curDone := true }

/-- The end of a die cycle of a handler: its bank reads are made (R257). -/
def State.endHandler (s : State) : State :=
  let now := s.now s.cur
  (s.modCpu fun c => { c.readBanks (dieKey now) now with issued := false }).rest

/-- The first core after a number that runs an iteration. -/
def State.runningFrom (s : State) (n : Nat) : Option CoreId :=
  (List.finRange 128).find? fun c => n ≤ c.val && (s.core c).activity = .running

/-- The end of a die cycle at a core: its free banks serve reads of group 4 (R258, R259). -/
def Core.nextCycle (c : Core) : Core :=
  let c := if c.touchedNow then { c with touchedNow := false } else c
  let c := if c.bankReads.any fun p => 2 ^ 64 ≤ p.1 then { c with bankReads := c.bankReads.filter fun p => p.1 < 2 ^ 64 } else c
  if c.reads4.isEmpty && c.bankBusy.isEmpty && c.bankOwed.isEmpty then c else c.grantOver c.bankBusy c.reads4

/-- Reads of group 4 that have waited 16 die cycles go first at their banks in this one (R258). -/
def State.promote (s : State) : State :=
  ((List.finRange 128).filter fun c => !(s.core c).reads4.isEmpty).foldl (fun s c =>
    ((s.core c).overdue (s.now c)).foldl (fun s b => s.schedule 0 (.group4ReadPromotion c (Fin.ofNat 64 b))) s) s

/-- The next die cycle: every DCLK advances, and the first running core comes into focus (R3, R38). -/
def State.tick (s : State) : State :=
  let t : State := { s with
    time := s.time + 1,
    dies := s.dies.map fun d => { d with dclk := d.dclk + 1 },
    cores := s.cores.map Core.nextCycle,
    cur := (s.runningFrom 0).getD 0, curDone := false }
  t.promote

/-- The next core of this die cycle, or the next die cycle. -/
def State.turn (s : State) : State :=
  match s.runningFrom (s.cur.val + 1) with
  | some c => { s with cur := c, curDone := false }
  | none => s.tick

/-- What the module OS has said of an access, and the translations obtained for it, are forgotten when the access is made. -/
def Core.released (c : Core) : Core := { c with unmapped := [], held := [] }

/-- The end of a turn at the issue: an annulled instruction passes. -/
def State.pass (s : State) : State :=
  let t := s.annulStep
  if t.cpu.trapMode then (t.modCpu fun c => { c.released with issued := false }).rest
  else (t.modCpu Core.released).endCycle

/-- The instruction at c0 is due to issue. -/
def State.planIssue (s : State) : Action :=
  let pc := s.cpu.chain.c0
  if !s.present s.cur pc.toNat then .move (s.tlbMiss s.cur pc.toNat .fetch).rest
  else
    match s.fetch s.cur pc with
    | .noAccess =>
      if s.cpu.chain.annul0 then .move s.pass
      else if s.present s.cur s.lastFetch then .move ((s.modCpu Core.released).preciseTrap .accessFault pc)
      else .move (s.tlbMiss s.cur s.lastFetch .fetch).rest
    | .illegal _ => if s.cpu.chain.annul0 then .move s.pass else .move (s.preciseTrap .illegalInstruction pc)
    | .instr i n =>
      if s.cpu.chain.annul0 then
        .move (if slotForbidden i && s.cpu.inSlot then s.preciseTrap .illegalInSlot pc else s.pass)
      else
        match s.issueWait i with
        | .frozen => .move s.rest
        | .clock => .move s.endCycle
        | .go =>
          match s.issueMiss i n with
          | some m => .move (s.tlbMiss s.cur m.1 m.2).rest
          | none => .issue i

/-- What follows the issue of an instruction: the S-cycle, or in trap mode the die cycle, ends, whether or not the instruction has
issued; outside trap mode one that has neither issued nor trapped waits under a freeze (R41, R239, R251). -/
def State.afterIssue (s t : State) : State :=
  if t.cur ≠ s.cur || t.cpu.activity ≠ .running then t
  else
    let t := t.modCpu Core.released
    if s.cpu.trapMode then t.endHandler
    else if t.cpu.trapMode || t.cpu.draining.isSome then t
    else if t.cpu.issued then t.endCycle
    else if t.cpu.sOpen && t.cpu.freeze.isNone then (t.modCpu fun c => { c with freeze := some .wait }).rest
    else t

/-- What an access or a home operation of a handler does when it lands (R94, R99, R247). -/
def State.handlerLanding (s : State) (p : Nat × Word × Eff) : State :=
  let gone := s.modCpu fun c => { c with hLater := c.hLater.erase p }
  match p.2.2 with
  | .touch sp a n => gone.touchRead sp a n
  | .poison b => gone.pendTrap s.cur (poisonTrap b p.2.1)
  | .reply rid => s.handlerReply rid
  | .globalDue seq => s.handlerAccess seq
  | _ => gone

/-- What lands has arrived: a global access has been performed and answered. -/
def Core.arrived (c : Core) (e : Eff) : Bool :=
  match e with
  | .globalDue seq => !(c.globals.any fun g => g.seq = seq && !g.back)
  | _ => true

/-- The core in focus runs a handler: one instruction each die cycle. A handler address of the module OS where no code stands stands
for a handler that returns at once (R120). -/
def State.planHandler (s : State) : Action :=
  let c := s.cpu
  let now := s.now s.cur
  match c.hLater.find? fun p => p.1 ≤ now && c.arrived p.2.2 with
  | some p => .move (s.handlerLanding p)
  | none =>
  if c.nextTrap.isSome then .event .handlerTrap
  else if c.rttWait then (if s.handlerDone then .event .rttResume else .move s.rest)
  else if c.userHandler && c.atBreak then .move (s.preciseTrap .breakpoint c.chain.c0)
  else if !c.userHandler && s.fetch s.cur c.chain.c0 = .noAccess then .move (s.modCpu fun c => { c with rttWait := true })
  else s.planIssue

/-- A core that has issued HALT, QDRAIN or MODESET (R114, R115, R250). -/
def State.planDrain (s : State) (d : Draining) : Action :=
  let c := s.cpu
  let rest : Action := .move (s.modCpu fun c => { c with engFree := c.engFree.set (engIx .cp) 0 }).rest
  match d with
  | .halt =>
    if !c.traps.isEmpty then .move s.endCycle
    else if c.haltReady then .event .haltComplete
    else if c.drained && c.homeOps.isEmpty then rest else .move s.endCycle
  | .qdrain m =>
    if (drainSet m).all c.engineQuiet then .event .qdrainComplete
    else if (drainSet m).all fun e => e = .cp || c.engineQuiet e then rest else .move s.endCycle
  | .modeset _ => if !c.issued && c.drained then .event .modesetComplete else .move s.endCycle
  | .modesetWait _ n =>
    if n ≤ c.sclk then .move (s.modCpu fun c => { c with draining := none }) else .move s.endCycle

/-- The core in focus is within an S-cycle: landings, then dispatches, then the issue (R39). -/
def State.planOpen (s : State) : Action :=
  let c := s.cpu
  if (nextDue c.sclk c.landings).isSome then .event .resultLanding
  else
    match s.nextDispatch with
    | some e => .event (.engineDispatch e)
    | none =>
      if s.cpWait then .move s.rest
      else
        match c.draining with
        | some d => s.planDrain d
        | none =>
          if c.issued then .move s.endCycle
          else if s.atStop then .move s.stopHere
          else s.planIssue

/-- The core in focus stands between two S-cycles: pending handler traps, late results, the precise fault of the instruction due,
then the S-cycle opens (R41, R121). -/
def State.planBoundary (s : State) : Action :=
  let c := s.cpu
  let open_ : Action := .move (s.modCpu fun c => { c with sOpen := true })
  if c.nextTrap.isSome then .event .handlerTrap
  else if (nextDue c.sclk (c.landings.filter c.stalls)).isSome then .event .resultLanding
  else if let some (.modesetWait _ n) := c.draining then
    if n ≤ c.sclk then .move (s.modCpu fun c => { c with draining := none }) else open_
  else if c.draining.isSome then open_
  else
    match s.boundary with
    | .clear => open_
    | .miss va r => .move (s.tlbMiss s.cur va r).rest
    | .index q => .move (s.awaitIndex q).rest
    | .fault k b => .move ((s.modCpu Core.released).preciseTrap k b)

/-- What ends the wait of an unsatisfied SEMWAIT, or of EVPOP on an empty EVQ, at the core in focus (R240, R251). -/
def State.waitEnds (s : State) : Option Event :=
  match s.fetch s.cur s.cpu.chain.c0 with
  | .instr (.semwait i _ a) _ => if s.cpu.semPasses i a then some (.semwaitSatisfied s.cur) else none
  | .instr (.evpop _) _ => if s.cpu.evq.isEmpty then none else some (.evqRecordArrival s.cur)
  | _ => none

/-- The core in focus: a freeze passes die cycles (R41). -/
def State.planCore (s : State) : Action :=
  let c := s.cpu
  match c.freeze with
  | some (.untilCycle d) =>
    if d ≤ s.now s.cur then .move (s.modCpu fun c => { c with freeze := none })
    else if c.sOpen && !c.trapMode then s.planOpen else .move s.rest
  | some .wait => match s.waitEnds with | some e => .event e | none => .move s.rest
  | some _ => .move s.rest
  | none =>
    if c.chain.guess1 && s.reads s.cur c.chain.c0 then .move s.refetch
    else if c.trapMode then s.planHandler else if c.sOpen then s.planOpen else s.planBoundary

/-- What the module does next while nothing of the agenda is due. -/
def State.planRest (s : State) : Action :=
  match (if s.hub.phase = .ready then s.nextActivation else none) with
  | some e => .event e
  | none => if s.curDone || s.cpu.activity ≠ .running then .move s.turn else s.planCore

/-- What the module does next: a step that is due, the Easel's next activation, the core in focus, the next core, or the next die
cycle. -/
def State.plan (s : State) : Action :=
  match s.agenda with
  | a :: _ => if a.due ≤ s.time then .due a.what else s.planRest
  | [] => s.planRest

end Sys2Proof.Machine
end

