-- ==== Sys2Proof/Machine/Fetch.lean ====
section
/-! DEFINITION. An instruction placed where the core in focus fetches next: what a program's load and its kernel's start come to. -/

namespace Sys2Proof.Machine

/-- The code address and the HBM frame of a placed instruction. -/
def placeVa : Nat := 0x100000000

/-- The first HBM byte of a placed instruction. -/
def placeFrame : Nat := 0x200000

/-- A leaf of 64 KiB at a place with read, write and execute rights (R268). -/
def placeEntry (ctx : Fin 9) : TlbEntry :=
  { ctx, va := placeVa, size := 65536, pte := BitVec.ofNat 64 (placeFrame + 0xE3) }

/-- A core that runs an iteration and is about to issue at the place, with nothing queued, in flight or pending. -/
def Core.ready (c : Core) (n : Nat) : Core :=
  { c with
    tlb := placeEntry (Fin.ofNat 9 c.tenant.val) :: c.tlb, unmapped := [], held := [], tstatus := 0,
    chain := ⟨BitVec.ofNat 64 placeVa, BitVec.ofNat 64 (placeVa + 4 * n), BitVec.ofNat 64 (placeVa + 4 * n + 4), false, false, false, false, false, false⟩,
    activity := .running, sOpen := true, issued := false, draining := none, rttWait := false, freeze := none, traps := [],
    queues := Vector.replicate 5 [], landings := [], globals := [], homeOps := [] }

/-- The words of an instruction, 24 bytes at the place, and the core in focus ready to issue it. -/
def State.placed (s : State) (nbits w : Nat) : State :=
  let v := w % 2 ^ nbits
  let s := s.writeSpace .hbm (cellsFrom placeFrame (natBytes 24 v)) false
  { s.modCpu fun c => c.ready (parcelCount (v % 2 ^ 32)) with curDone := false, agenda := [] }

end Sys2Proof.Machine
end

