-- ==== Sys2Proof/Machine/Step.lean ====
section
/-! DEFINITION. One step of the module, and an instruction placed where the next step fetches. -/

namespace Sys2Proof.Machine

/-- One step: what comes next is performed, an event with the event register set. -/
def step (s : State) : Host.Outcome State Fault Refusal :=
  match s.plan with
  | .due e => exec e.row { s with agenda := s.agenda.tail, event := e }
  | .event e => exec e.row { s with event := e }
  | .issue i => onNext (exec i s) s.afterIssue
  | .move t => .next t

/-- The state with an instruction placed at the core in focus, in the middle of an S-cycle in which it issues (log entry 26). -/
def State.withFetchWord (s : State) (nbits w : Nat) : State := s.placed nbits w

end Sys2Proof.Machine
end

