-- ==== Sys2Proof/Safety.lean ====
section
/-! DEFINITION. The terms in which claims are stated: runs and safe runs, what an instruction leaves alone, what it gives to
registers, and what a claim about the whole part speaks of. -/

namespace Sys2Proof.Machine

/-! ### Runs -/

/-- One step leads from a state to another. -/
def Steps (s t : State) : Prop := step s = .next t

/-- A run leads from a state to another. -/
inductive Reaches (s : State) : State → Prop
  | refl : Reaches s s
  | tail {t u : State} (h : Reaches s t) (k : Steps t u) : Reaches s u

/-- No run from a state ends in a fault or a refusal. -/
def Safe (s : State) : Prop := ∀ t, Reaches s t → ∃ u, Steps t u

/-! ### Issue -/

/-- The address of the last parcel of instruction `i`, standing at c0. -/
def Core.lastOf (c : Core) (i : Instr) : Nat := c.chain.c0.toNat + 4 * (encode i).length - 4

/-- `k` is the core `c` after instruction `i` has been passed (R101–R112, R118): the levels that `i` leaves are closed, those that end
at it have had their loop-back event, or have it deferred where a trap is pending at its end (R124, R148), with the views and FTLVL that the
event rotates and advances; the model's own record of issues counts it. The chain, the fetch counts and the signature of an open proof
segment are stated beside it; every other register, mark, queue and memory of the core is as in `c`. -/
def Core.Follows (c : Core) (i : Instr) (k : Core) : Prop :=
  let b := (c.closeExited c.chain.c0).finishBody (c.lastOf i)
  k = { c with chain := k.chain, fc := k.fc, seg := { c.seg with crc := k.seg.crc }, issued := true, seqNo := c.seqNo + 1,
               skipBreak := false, lc := b.lc, order := b.order, vw := b.vw, ftlvl := b.ftlvl, loopDeferred := b.loopDeferred }

/-- The core that passes instruction `i`, not a taken branch, having the effects of `c`: the chain is (c1, c2, seq(c2)) with its
annulments and its history (R101, R102, R105), the fetch counts are those that seq leaves, and the first parcel is fed to an open
segment (R118). -/
def State.sequenced (s : State) (i : Instr) (c : Core) : Core :=
  let t := (s.setCpu c).beginIssue i
  let q := t.seq c.chain.c2
  let b := (c.closeExited c.chain.c0).finishBody (c.lastOf i)
  { c with chain := ⟨c.chain.c1, c.chain.c2, q.1, c.chain.annul1, false, isBranch i, c.chain.prior1, c.chain.guess2, t.guesses⟩,
           fc := q.2.cpu.fc, seg := { c.seg with crc := (c.feed (firstParcel i)).seg.crc }, issued := true, seqNo := c.seqNo + 1,
           skipBreak := false, lc := b.lc, order := b.order, vw := b.vw, ftlvl := b.ftlvl, loopDeferred := b.loopDeferred }

/-- Instruction `i` issues at the core in focus, and the state differs from before only in that core, which is `c` but for passing to the
next instruction. Every memory, every other core, and every register, mark and queue that `c` does not change are as before. -/
def State.GoesOn (s : State) (i : Instr) (c : Core) : Prop := exec i s = .next (s.setCpu (s.sequenced i c))

/-- No check that every instruction makes turns `i` away: it is well formed, may stand where it stands, and may issue in this mode
(R76, R77, R113). -/
def State.Allowed (s : State) (i : Instr) : Prop := issueCheck i s.cpu = none

/-- A result of the sequencer on its way (R39, R83). -/
def Core.sends (c : Core) (lat : Nat) (holds : List Res) (effs : List Eff) : Core :=
  { c with landings := c.landings ++
      [{ due := c.sclk + lat, seq := c.seqNo, addr := c.chain.c0, eng := none, postL := false, postR := false,
         window := c.window.number, holds, reads := [], effs }] }

/-- A register written at once: register 0 discards it (R16), and in trap mode 24 to 31 are TX0–TX7 (R17). -/
def Core.puts (c : Core) (d : Reg) (v : Word) : Core :=
  if d = 0 then c
  else if c.trapMode ∧ 24 ≤ d.val then { c with tx := c.tx.set (Fin.ofNat 8 (d.val - 24)) v }
  else { c with x := c.x.set d v }

/-- Registers receive values: they land `lat` S-cycles after issue; in trap mode they are written at once and are readable `lat` die
cycles later (R17, R83, R85). -/
def Core.getsAll (c : Core) (now lat : Nat) (l : List (Reg × Word)) : Core :=
  if c.trapMode then
    { l.foldl (fun k p => k.puts p.1 p.2) c with hReady := l.map (fun p => (.x p.1, now + lat)) ++ c.hReady }
  else c.sends lat (l.map fun p => .x p.1) (l.map fun p => .x p.1 p.2)

/-- One register receives a value. -/
def Core.gets (c : Core) (now lat : Nat) (d : Reg) (v : Word) : Core := c.getsAll now lat [(d, v)]

/-- What instruction `i` of one result does: it issues wherever it is allowed, and gives `v` to `d` and nothing else to anything. -/
def State.Yields (s : State) (i : Instr) (lat : Nat) (d : Reg) (v : Word) : Prop :=
  s.Allowed i → s.GoesOn i (s.cpu.gets (s.now s.cur) lat d v)

/-- An unsigned number of `n` bits read as signed. -/
def signedOf (n u : Nat) : Int := if u < 2 ^ (n - 1) then u else (u : Int) - 2 ^ n

/-- A value formed from exact integers at 64 bits, or with W from the low 32 bits of both sources at 32 bits and sign-extended (R87):
`f` takes the width and the sources read as unsigned. -/
def exactAt (w : Bool) (f : Nat → Nat → Nat → Int) (a b : Word) : Word :=
  if w then (BitVec.ofInt 32 (f 32 (a.toNat % 2 ^ 32) (b.toNat % 2 ^ 32))).signExtend 64
  else BitVec.ofInt 64 (f 64 a.toNat b.toNat)

/-- The number of k below `n` with a property. -/
def countBelow (n : Nat) (p : Nat → Bool) : Nat := ((List.range n).filter p).length

/-- The sum of some numbers. -/
def total (l : List Nat) : Nat := l.foldl (· + ·) 0

/-- The quotient of R88 at `n` bits. -/
def quotientOf (s : Bool) (n a b : Nat) : Int :=
  if b = 0 then 2 ^ n - 1
  else if s then
    if signedOf n a = -2 ^ (n - 1) ∧ signedOf n b = -1 then -2 ^ (n - 1) else (signedOf n a).tdiv (signedOf n b)
  else (a / b : Nat)

/-- The remainder of R88 at `n` bits. -/
def remainderOf (s : Bool) (n a b : Nat) : Int :=
  if b = 0 then a
  else if s then
    if signedOf n a = -2 ^ (n - 1) ∧ signedOf n b = -1 then 0
    else signedOf n a - (signedOf n a).tdiv (signedOf n b) * signedOf n b
  else (a - a / b * b : Nat)

/-- The core with its divider, or in trap mode the handler divider, taken for 24 cycles (R84, R85). -/
def Core.divides (c : Core) (now : Nat) : Core :=
  if c.trapMode then { c with hDivFree := now + 24 } else { c with divFree := c.sclk + 24 }

/-- The part's step of row `i` acts on `e` in state `s` and answers `t`. -/
def State.Performs (s : State) (i : Instr) (e : Event) (t : State) : Prop := exec i { s with event := e } = .next t

/-- The part's step of row `i` acts on `e`, and changes nothing but core `c`, which becomes `k`. -/
def State.Turns (s : State) (i : Instr) (e : Event) (c : CoreId) (k : Core) : Prop :=
  s.Performs i e ({ s with event := e }.setCore c k)

/-- A step is on its way, due some die cycles from now. -/
def State.Sends (s t : State) (e : Event) (delay : Nat) : Prop := ⟨s.time + delay, e⟩ ∈ t.agenda

/-- A reply is on its way from home to issuer, which it reaches one, five or thirteen die cycles later (R285). -/
def State.Replies (s t : State) {op : Type} (q : HomeReq op) (r : Reply) : Prop :=
  s.Sends t (.homeReplyArrival q.src q.rid r) (if q.src = q.home then 1 else if dieOf q.src = dieOf q.home then 5 else 13)

/-! ### The agenda (R3, R38) -/

/-- A list of steps in the order in which they are due. -/
def dueInOrder (l : List AgendaItem) : Prop := l.Pairwise fun a b => a.due ≤ b.due

/-- No step is overdue, the steps are listed in the order in which they are due, and every die's DCLK counts the die cycles since
reset. -/
def State.OnTime (s : State) : Prop :=
  dueInOrder s.agenda ∧ (∀ a ∈ s.agenda, s.time ≤ a.due) ∧ ∀ d : DieId, (s.die d).dclk = s.time

/-- The byte that a list of cells leaves at an address: the last of those it names there. -/
def lastIn (cells : List (Nat × Byte)) (a : Nat) : Option Byte := (cells.reverse.find? fun p => p.1 = a).map (·.2)

/-! ### The engine instructions (R73, R74) -/

/-- V majors 0x00–0x06 and VPERM: what pushes an operand-ring entry (R22, R73). -/
def ringInstrs : List (VWord → Instr) :=
  [.vadd, .vsub, .vmul, .vfma, .vfms, .vfnma, .vmin, .vmax, .vabs, .vneg, .vaddsub, .vavg, .vmulh, .vshl, .vshr,
   .vsra, .vand, .vor, .vxor, .vnot, .vsel, .vmov, .vclamp, .vabsd, .vcmpeq, .vcmpne, .vcmplt, .vcmple, .vcmpgt,
   .vcmpge, .vclass, .vrcp, .vrsqrt, .vsqrt, .vexp2, .vlog2, .vexp, .vtanh, .vsigm, .vsilu, .vgelu, .vsin, .vcos,
   .vdiv, .vrsum, .vrmax, .vrmin, .vramax, .vcsum, .vcmax, .vscan, .vdot, .vtopk, .vsortr, .vmrgk, .vcompr, .vexpnd,
   .vbcast, .vtrans, .viota, .vgathr, .vscatr, .vcvt, .vrqnt, .vmxq, .vmxdq, .vunpk3, .vpack3, .vunpk4, .vpack4,
   .vsat, .vrnd, .vperm]

/-- The other permutation instructions (R73). -/
def permInstrs : List (VWord → Instr) :=
  [.pld, .pst, .pcomp, .pinv, .ppow, .prand, .pidn, .pcyc, .pxch, .pcycv]

/-- The LD instructions but SBIND, which binds its handle at issue (R73, R225). -/
def loadInstrs : List (VWord → Instr) :=
  [.tld, .tldi, .tldw, .tpref, .sadv, .wref]

/-- The ST instructions (R73). -/
def storeInstrs : List (VWord → Instr) :=
  [.tst, .tsti, .tstm]

/-- The CP instructions but WSTORE, which no core executes (R73, R234). -/
def copyInstrs : List (VWord → Instr) :=
  [.cpy, .cpya, .cmcast, .catom, .cfill, .rnode, .rcont]

/-- The M instructions (R74). -/
def matrixInstrs : List (MWord → Instr) :=
  [.mma, .mmas, .mmat, .mdrain, .mdrainmx, .mldac, .mclr, .wbld, .wbinv]

end Sys2Proof.Machine
end

