-- ==== Sys2Proof/Certificates/Slice0/Obligations.lean ====
section
/-! DEFINITION. What is claimed of the model, for the provers. -/

open Sys2Proof Sys2Proof.Machine

/-! ### The sequencer's arithmetic -/

/-- R87: ADD to ROL give their exact values at 64 or, with W, 32 bits; each issues wherever it is allowed, lands at issue + 1, and
changes nothing but its destination. -/
def Obligations.AluArithmetic : Prop :=
  ∀ (s : State) (w : Bool) (d a b : Reg),
    let x := s.cpu.readX a
    let y := s.cpu.readX b
    s.Yields (.add w d a b) 1 d (exactAt w (fun _ u v => u + v) x y) ∧
    s.Yields (.sub w d a b) 1 d (exactAt w (fun _ u v => (u : Int) - v) x y) ∧
    s.Yields (.and w d a b) 1 d (exactAt w (fun _ u v => (Nat.land u v : Nat)) x y) ∧
    s.Yields (.or w d a b) 1 d (exactAt w (fun _ u v => (Nat.lor u v : Nat)) x y) ∧
    s.Yields (.xor w d a b) 1 d (exactAt w (fun _ u v => (Nat.xor u v : Nat)) x y) ∧
    s.Yields (.andn w d a b) 1 d (exactAt w (fun n u v => (Nat.land u (2 ^ n - 1 - v) : Nat)) x y) ∧
    s.Yields (.sll w d a b) 1 d (exactAt w (fun n u v => (u * 2 ^ (v % n) : Nat)) x y) ∧
    s.Yields (.srl w d a b) 1 d (exactAt w (fun n u v => (u / 2 ^ (v % n) : Nat)) x y) ∧
    s.Yields (.sra w d a b) 1 d (exactAt w (fun n u v => (signedOf n u) / ((2 ^ (v % n) : Nat) : Int)) x y) ∧
    s.Yields (.rol w d a b) 1 d (exactAt w (fun n u v => (u * 2 ^ (v % n) + u / 2 ^ (n - v % n) : Nat)) x y)

/-- R87: MIN to SEQ, the counts and reversals, and the conditional moves; MOVZ and MOVN write the old value where their condition
fails, formed like every result. -/
def Obligations.AluSelection : Prop :=
  ∀ (s : State) (w : Bool) (d a b : Reg),
    let x := s.cpu.readX a
    let y := s.cpu.readX b
    let old := s.cpu.readX d
    let zero : Bool := if w then y.toNat % 2 ^ 32 = 0 else y = 0
    s.Yields (.min w d a b) 1 d (exactAt w (fun n u v => min (signedOf n u) (signedOf n v)) x y) ∧
    s.Yields (.max w d a b) 1 d (exactAt w (fun n u v => max (signedOf n u) (signedOf n v)) x y) ∧
    s.Yields (.minu w d a b) 1 d (exactAt w (fun _ u v => (min u v : Nat)) x y) ∧
    s.Yields (.maxu w d a b) 1 d (exactAt w (fun _ u v => (max u v : Nat)) x y) ∧
    s.Yields (.slt w d a b) 1 d (exactAt w (fun n u v => if signedOf n u < signedOf n v then 1 else 0) x y) ∧
    s.Yields (.sltu w d a b) 1 d (exactAt w (fun _ u v => if u < v then 1 else 0) x y) ∧
    s.Yields (.seq w d a b) 1 d (exactAt w (fun _ u v => if u = v then 1 else 0) x y) ∧
    s.Yields (.clz w d a) 1 d (exactAt w (fun n u _ => countBelow n fun k => u / 2 ^ k = 0) x 0) ∧
    s.Yields (.ctz w d a) 1 d (exactAt w (fun n u _ => countBelow n fun k => u % 2 ^ (k + 1) = 0) x 0) ∧
    s.Yields (.popc w d a) 1 d (exactAt w (fun n u _ => countBelow n fun k => u / 2 ^ k % 2 = 1) x 0) ∧
    s.Yields (.brev w d a) 1 d
      (exactAt w (fun n u _ => total ((List.range n).map fun k => u / 2 ^ k % 2 * 2 ^ (n - 1 - k))) x 0) ∧
    s.Yields (.bswap w d a) 1 d
      (exactAt w (fun n u _ => total ((List.range (n / 8)).map fun k => u / 256 ^ k % 256 * 256 ^ (n / 8 - 1 - k))) x 0) ∧
    s.Yields (.movz w d a b) 1 d (exactAt w (fun _ u _ => u) (if zero then x else old) 0) ∧
    s.Yields (.movn w d a b) 1 d (exactAt w (fun _ u _ => u) (if zero then old else x) 0)

/-- R87: MUL, MULH and MULHU land at issue + 3. -/
def Obligations.Multiplies : Prop :=
  ∀ (s : State) (w : Bool) (d a b : Reg),
    let x := s.cpu.readX a
    let y := s.cpu.readX b
    s.Yields (.mul w d a b) 3 d (exactAt w (fun _ u v => (u * v : Nat)) x y) ∧
    s.Yields (.mulh w d a b) 3 d (exactAt w (fun n u v => signedOf n u * signedOf n v / 2 ^ n) x y) ∧
    s.Yields (.mulhu w d a b) 3 d (exactAt w (fun n u v => (u * v / 2 ^ n : Nat)) x y)

/-- R88: the four divides never trap and take 24 S-cycles for every operand value, with the values of R88 for a zero divisor and for
the overflow. -/
def Obligations.Divides : Prop :=
  ∀ (s : State) (w : Bool) (d a b : Reg),
    let x := s.cpu.readX a
    let y := s.cpu.readX b
    let go (i : Instr) (v : Word) : Prop :=
      s.Allowed i → s.GoesOn i ((s.cpu.divides (s.now s.cur)).gets (s.now s.cur) 24 d v)
    go (.div w d a b) (exactAt w (quotientOf true) x y) ∧
    go (.divu w d a b) (exactAt w (quotientOf false) x y) ∧
    go (.rem w d a b) (exactAt w (remainderOf true) x y) ∧
    go (.remu w d a b) (exactAt w (remainderOf false) x y)

/-- R89, R90: the immediate forms, with the 14-bit immediate sign-extended; the shifts take their amount as it is. LI and ADDIL sign-extend
their literal, ANDIL, ORIL and XORIL zero-extend it, and LIH keeps the low half of its destination. -/
def Obligations.Immediates : Prop :=
  ∀ (s : State) (d a : Reg) (imm : BitVec 14) (sh : Fin 64) (v : BitVec 32),
    let x := s.cpu.readX a
    let old := s.cpu.readX d
    let i := signedOf 14 imm.toNat
    s.Yields (.addi d a imm) 1 d (BitVec.ofInt 64 (x.toNat + i)) ∧
    s.Yields (.andi d a imm) 1 d (BitVec.and x (BitVec.ofInt 64 i)) ∧
    s.Yields (.ori d a imm) 1 d (BitVec.or x (BitVec.ofInt 64 i)) ∧
    s.Yields (.xori d a imm) 1 d (BitVec.xor x (BitVec.ofInt 64 i)) ∧
    s.Yields (.slli d a sh) 1 d (BitVec.ofNat 64 (x.toNat * 2 ^ sh.val)) ∧
    s.Yields (.srli d a sh) 1 d (BitVec.ofNat 64 (x.toNat / 2 ^ sh.val)) ∧
    s.Yields (.srai d a sh) 1 d (BitVec.ofInt 64 (signedOf 64 x.toNat / ((2 ^ sh.val : Nat) : Int))) ∧
    s.Yields (.slti d a imm) 1 d (if signedOf 64 x.toNat < i then 1 else 0) ∧
    s.Yields (.sltiu d a imm) 1 d (if x.toNat < (BitVec.ofInt 64 i).toNat then 1 else 0) ∧
    s.Yields (.seqi d a imm) 1 d (if signedOf 64 x.toNat = i then 1 else 0) ∧
    s.Yields (.li d v) 1 d (BitVec.ofInt 64 (signedOf 32 v.toNat)) ∧
    s.Yields (.lih d v) 1 d (BitVec.ofNat 64 (v.toNat * 2 ^ 32 + old.toNat % 2 ^ 32)) ∧
    s.Yields (.addil d a v) 1 d (BitVec.ofInt 64 (x.toNat + signedOf 32 v.toNat)) ∧
    s.Yields (.andil d a v) 1 d (BitVec.ofNat 64 (Nat.land x.toNat v.toNat)) ∧
    s.Yields (.oril d a v) 1 d (BitVec.ofNat 64 (Nat.lor x.toNat v.toNat)) ∧
    s.Yields (.xoril d a v) 1 d (BitVec.ofNat 64 (Nat.xor x.toNat v.toNat))

/-! ### Scalar memory -/

/-- R91–R95: a load of the core's own Plate that is aligned and outside the trap window (or in trap mode) lands at issue + 4, behind the
core's earlier accesses to its line. With none of those outstanding and its bytes unmarked, what lands is its little-endian bytes, extended,
the record of a guard touch, and the releases that the bytes carry; it counts at its bank, and no byte of memory changes. In trap mode
the register is written at once and readable then (R85). -/
def Obligations.LocalLoads : Prop :=
  ∀ (s : State) (d a : Reg) (imm : BitVec 14),
    let c := s.cpu
    let now := s.now s.cur
    let sp := Space.plate s.cur
    let ew := c.readX a + BitVec.ofInt 64 (signedOf 14 imm.toNat)
    let ea := ew.toNat
    let raw (n : Nat) : Nat := bytesNat (Memory.readBytes c.plate ea n)
    let b : Core := { c with
      seg := if c.seg.open_ then { c.seg with reads := c.seg.reads.insert (ea / 64) } else c.seg,
      bankReads := (if c.trapMode = true then dieKey now else c.sclk, ea / 64) :: c.bankReads }
    let go (i : Instr) (n : Nat) (v : Int) : Prop :=
      let w := BitVec.ofInt 64 v
      let heard := s.heardAt sp ea n
      s.Allowed i → ea % n = 0 → ea < plateSize → (c.trapMode = true ∨ ea < trapWindow) →
      (∃ t, exec i s = .next t ∧
        (c.trapMode = false → t.cpu.x = c.x ∧ ∃ l ∈ t.cpu.landings, l.due = c.sclk + 4 ∧ l.holds = [.x d] ∧ .touch sp ea n ∈ l.effs ∧
          (.poison ew ∈ l.effs ∨ ∃ e ∈ l.effs, ∃ u, e = .x d u)) ∧
        (c.trapMode = true → (.x d, now + 4) ∈ t.cpu.hReady)) ∧
      ((∀ g ∈ c.globals, g.done = true ∨ sameLine g.loc ⟨sp, ea⟩ = false) → s.markedAt sp ea n = false →
        (c.trapMode = false →
          s.GoesOn i (b.sends 4 [.x d] (.x d w :: .touch sp ea n :: if heard = [] then [] else [.hears heard]))) ∧
        (c.trapMode = true → s.GoesOn i
          { b.puts d w with
            heard := heard.foldl addHeard c.heard, hLater := c.hLater ++ [(now + 4, c.chain.c0, .touch sp ea n)],
            hReady := (.x d, now + 4) :: c.hReady }))
    go (.ldb d a imm) 1 (signedOf 8 (raw 1)) ∧ go (.ldbu d a imm) 1 (raw 1) ∧
    go (.ldh d a imm) 2 (signedOf 16 (raw 2)) ∧ go (.ldhu d a imm) 2 (raw 2) ∧
    go (.ldw d a imm) 4 (signedOf 32 (raw 4)) ∧ go (.ldwu d a imm) 4 (raw 4) ∧
    go (.ldd d a imm) 8 (raw 8)

/-- R91–R93, R95: a store to the core's own Plate that is aligned and outside the trap window puts the low bytes of its register, in
little-endian order, at its effective address at issue + 1, behind the core's earlier accesses to its line; in trap mode it writes them at
once. With none of those outstanding, and no FENCE release for its bytes to carry (R295), nothing else changes. -/
def Obligations.LocalStores : Prop :=
  ∀ (s : State) (x a : Reg) (imm : BitVec 14),
    let c := s.cpu
    let sp := Space.plate s.cur
    let ea := (c.readX a + BitVec.ofInt 64 (signedOf 14 imm.toNat)).toNat
    let go (i : Instr) (n : Nat) : Prop :=
      let cells := (List.range n).map fun k => (ea + k, BitVec.ofNat 8 ((c.readX x).toNat / 256 ^ k))
      s.Allowed i → ea % n = 0 → ea < plateSize → (c.trapMode = true ∨ ea < trapWindow) →
      (∃ t, exec i s = .next t ∧ t.cpu.x = c.x ∧
        (c.trapMode = false → ∃ l ∈ t.cpu.landings, l.due = c.sclk + 1 ∧ l.holds = [.plate ea n] ∧ .plate cells [] ∈ l.effs)) ∧
      ((∀ g ∈ c.globals, g.done = true ∨ sameLine g.loc ⟨sp, ea⟩ = false) → c.fenced = [] →
        (c.trapMode = false → s.GoesOn i (c.sends 1 [.plate ea n] [.plate cells []])) ∧
        (c.trapMode = true → s.GoesOn i (c.writePlate cells [])))
    go (.stb x a imm) 1 ∧ go (.sth x a imm) 2 ∧ go (.stw x a imm) 4 ∧ go (.std x a imm) 8

/-- R84, R85, R91, R92: a store through a mapping joins the core's global accesses with its bytes; outside trap mode it lands at
issue + 640 (3,201 for TIER2), in trap mode it takes a handler slot. It writes no register, and with no earlier access to its line
outstanding it changes no byte of any memory outside the bytes it stores.
Where the spec leaves it to the model, the reading is that of log entry 7. -/
def Obligations.GlobalStores : Prop :=
  ∀ (s : State) (x a : Reg) (imm : BitVec 14) (l : Leaf) (loc : Loc),
    let c := s.cpu
    let ea := c.readX a + BitVec.ofInt 64 (signedOf 14 imm.toNat)
    let go (i : Instr) (n : Nat) : Prop :=
      s.Allowed i → scalarFault false n ea s = none → s.target ea = .mapped l (some loc) →
      ∃ t, exec i s = .next t ∧ t.cpu.x = c.x ∧ t.cpu.globals.map (·.seq) = c.globals.map (·.seq) ++ [c.seqNo] ∧
        (∃ g ∈ t.cpu.globals, g.seq = c.seqNo ∧ g.isLoad = false ∧ g.handler = c.trapMode ∧ g.size = n ∧ g.loc = loc ∧ g.addr = ea ∧
          g.data = (List.range n).map (fun k => BitVec.ofNat 8 ((c.readX x).toNat / 256 ^ k))) ∧
        (c.trapMode = false → ∃ m ∈ t.cpu.landings, m.due = c.sclk + (if loc.sp = .tier2 then 3201 else 640) ∧
          Eff.globalDue c.seqNo ∈ m.effs) ∧
        (c.trapMode = true → t.cpu.landings = c.landings ∧ t.cpu.hSlots = c.hSlots ++ [notYet]) ∧
        ((∀ g ∈ c.globals, g.done = true ∨ sameLine g.loc loc = false) → ∀ (sp : Space) (b : Nat), (s.store sp).mem.wf = true →
          ¬ (sp = loc.sp ∧ loc.addr ≤ b ∧ b < loc.addr + n) → (t.store sp).mem.read b = (s.store sp).mem.read b)
    go (.stb x a imm) 1 ∧ go (.sth x a imm) 2 ∧ go (.stw x a imm) 4 ∧ go (.std x a imm) 8

/-- R84, R85, R91, R92: a load through a mapping joins the core's global accesses; outside trap mode it lands at issue + 640 (3,201 for
TIER2) and holds its destination until then, in trap mode it takes a handler slot and its register is readable later. It writes no register
yet, and with no earlier access to its line outstanding no byte of any memory changes.
Where the spec leaves it to the model, the reading is that of log entry 7. -/
def Obligations.GlobalLoads : Prop :=
  ∀ (s : State) (d a : Reg) (imm : BitVec 14) (l : Leaf) (loc : Loc),
    let c := s.cpu
    let ea := c.readX a + BitVec.ofInt 64 (signedOf 14 imm.toNat)
    let go (i : Instr) (n : Nat) (sg : Bool) : Prop :=
      s.Allowed i → scalarFault true n ea s = none → s.target ea = .mapped l (some loc) →
      ∃ t, exec i s = .next t ∧ t.cpu.x = c.x ∧ t.cpu.globals.map (·.seq) = c.globals.map (·.seq) ++ [c.seqNo] ∧
        (∃ g ∈ t.cpu.globals, g.seq = c.seqNo ∧ g.isLoad = true ∧ g.handler = c.trapMode ∧ g.rd = d ∧ g.size = n ∧ g.signed = sg ∧
          g.loc = loc ∧ g.addr = ea) ∧
        (c.trapMode = false → ∃ m ∈ t.cpu.landings, m.due = c.sclk + (if loc.sp = .tier2 then 3201 else 640) ∧
          Eff.globalDue c.seqNo ∈ m.effs ∧ m.holds = [.x d]) ∧
        (c.trapMode = true → t.cpu.landings = c.landings ∧ t.cpu.hSlots = c.hSlots ++ [notYet] ∧
          t.cpu.hReady = (.x d, notYet) :: c.hReady) ∧
        ((∀ g ∈ c.globals, g.done = true ∨ sameLine g.loc loc = false) → ∀ (sp : Space), (t.store sp).mem = (s.store sp).mem)
    go (.ldb d a imm) 1 true ∧ go (.ldbu d a imm) 1 false ∧ go (.ldh d a imm) 2 true ∧ go (.ldhu d a imm) 2 false ∧
    go (.ldw d a imm) 4 true ∧ go (.ldwu d a imm) 4 false ∧ go (.ldd d a imm) 8 false

/-- R92, R93: the checks of a scalar access in their order, each a precise fault with the effective address: misaligned; an address above
2^48 − 1; the trap window of the own Plate outside trap mode, or of any core's Plate through a mapping; a target that has no mapping, is of a type
that the access may not reach, or does not permit it; and the Plate of a core outside the placement group. -/
def Obligations.ScalarChecks : Prop :=
  ∀ (s : State) (r a : Reg) (imm : BitVec 14),
    let c := s.cpu
    let ea := c.readX a + BitVec.ofInt 64 (signedOf 14 imm.toNat)
    let go (i : Instr) (n : Nat) (right : Right) : Prop :=
      s.Allowed i →
      (ea.toNat % n ≠ 0 → exec i s = .next (s.preciseTrap .misaligned ea)) ∧
      (ea.toNat % n = 0 → 2 ^ 48 ≤ ea.toNat → exec i s = .next (s.preciseTrap .accessFault ea)) ∧
      (ea.toNat % n = 0 → trapWindow ≤ ea.toNat → ea.toNat < plateSize → c.trapMode = false →
        exec i s = .next (s.preciseTrap .platePrivilege ea)) ∧
      (ea.toNat % n = 0 → plateSize ≤ ea.toNat → ea.toNat < 2 ^ 48 →
        (s.translate s.cur ea.toNat = none → exec i s = .next (s.preciseTrap .accessFault ea)) ∧
        ∀ l : Leaf, s.translate s.cur ea.toNat = some l →
          let barred : Bool :=
            match l.loc ea.toNat with
            | some ⟨.plate _, _⟩ | some ⟨.hbm, _⟩ | some ⟨.tier2, _⟩ => false
            | some ⟨.wstore _, _⟩ => right = .write
            | _ => true
          (∀ g off, l.loc ea.toNat = some ⟨.plate g, off⟩ →
            (trapWindow ≤ off → exec i s = .next (s.preciseTrap .platePrivilege ea)) ∧
            (off < trapWindow → l.allows right = true → s.mates s.cur g = false → exec i s = .next (s.preciseTrap .groupViolation ea))) ∧
          ((∀ g off, l.loc ea.toNat = some ⟨.plate g, off⟩ → off < trapWindow) → barred = true ∨ l.allows right = false →
            exec i s = .next (s.preciseTrap .accessFault ea)))
    go (.ldb r a imm) 1 .read ∧ go (.ldbu r a imm) 1 .read ∧ go (.ldh r a imm) 2 .read ∧ go (.ldhu r a imm) 2 .read ∧
    go (.ldw r a imm) 4 .read ∧ go (.ldwu r a imm) 4 .read ∧ go (.ldd r a imm) 8 .read ∧ go (.stb r a imm) 1 .write ∧
    go (.sth r a imm) 2 .write ∧ go (.stw r a imm) 4 .write ∧ go (.std r a imm) 8 .write

/-! ### Branches and loops -/

/-- R103–R105, R118: a conditional branch or BRA issues with the chain (c1, c2, target or seq(c2)), its slots annulled as NUL says, feeds its
parcel and, where it is conditional, its outcome to an open segment, and changes nothing but sequencing. -/
def Obligations.Branches : Prop :=
  ∀ (s : State) (a b : Reg) (nul : Nul) (disp : BitVec 9) (v dl : BitVec 16),
    let c := s.cpu
    let x := c.readX a
    let y := c.readX b
    let vs := signedOf 16 v.toNat
    let branch (i : Instr) (taken feeds : Bool) (parcels : Int) : Prop :=
      let target := BitVec.ofInt 64 (c.chain.c0.toNat + 4 * parcels)
      let annul : Bool := match nul with | .none => false | .notTaken => !taken | .taken => taken
      let q := (s.beginIssue i).seq c.chain.c2
      let fed := c.feed (firstParcel i)
      s.Allowed i → ∃ k, c.Follows i k ∧ exec i s = .next (s.setCpu k) ∧
        k.chain = ⟨c.chain.c1, c.chain.c2, if taken then target else q.1,
          annul || c.chain.annul1, annul, true, c.chain.prior1, c.chain.guess2, !taken && s.guesses⟩ ∧
        k.fc = (if taken then c.fc else q.2.cpu.fc) ∧ k.seg.crc = (if feeds then fed.feed (if taken then 1 else 0) else fed).seg.crc
    let go (i : Instr) (taken : Bool) (parcels : Int) : Prop := branch i taken true parcels
    let near := signedOf 9 disp.toNat
    let far := signedOf 16 dl.toNat
    go (.beq a b nul disp) (x = y) near ∧ go (.bne a b nul disp) (x ≠ y) near ∧
    go (.blt a b nul disp) (signedOf 64 x.toNat < signedOf 64 y.toNat) near ∧
    go (.bge a b nul disp) (signedOf 64 y.toNat ≤ signedOf 64 x.toNat) near ∧
    go (.bltu a b nul disp) (x.toNat < y.toNat) near ∧ go (.bgeu a b nul disp) (y.toNat ≤ x.toNat) near ∧
    branch (.bra nul disp) true false near ∧
    go (.beqi a nul v dl) (signedOf 64 x.toNat = vs) far ∧ go (.bnei a nul v dl) (signedOf 64 x.toNat ≠ vs) far ∧
    go (.blti a nul v dl) (signedOf 64 x.toNat < vs) far ∧ go (.bgei a nul v dl) (vs ≤ signedOf 64 x.toNat) far ∧
    go (.bltui a nul v dl) (x.toNat < v.toNat) far ∧ go (.bgeui a nul v dl) (v.toNat ≤ x.toNat) far

/-- R105, R106: JAL and JALR take their target, formed before the link lands, and give seq(c2) to XD at issue + 1; a JALR target that
is no multiple of 4 is a misaligned access instead. -/
def Obligations.Jumps : Prop :=
  ∀ (s : State) (d a : Reg) (disp : BitVec 32) (imm : BitVec 14),
    let c := s.cpu
    let go (i : Instr) (target : Word) : Prop :=
      s.Allowed i → ∃ k,
        (c.gets (s.now s.cur) 1 d ((s.beginIssue i).seq c.chain.c2).1).Follows i k ∧ exec i s = .next (s.setCpu k) ∧
        k.chain = ⟨c.chain.c1, c.chain.c2, target, c.chain.annul1, false, true, c.chain.prior1, c.chain.guess2, false⟩ ∧
        k.fc = c.fc ∧ k.seg.crc = (c.feed (firstParcel i)).seg.crc
    let near := BitVec.ofInt 64 (c.chain.c0.toNat + 4 * signedOf 32 disp.toNat)
    let far := BitVec.ofInt 64 ((c.readX a).toNat + signedOf 14 imm.toNat)
    go (.jal d disp) near ∧
    (far.toNat % 4 = 0 → go (.jalr d a imm) far) ∧
    (far.toNat % 4 ≠ 0 → s.Allowed (.jalr d a imm) → exec (.jalr d a imm) s = .next (s.preciseTrap .misaligned far))

/-- R76, R101, R102, R105, R107, R110–R112, R118, R124, R148: passing an instruction. What is neither a taken branch nor a loop moves the chain to
(c1, c2, seq(c2)); an annulled instruction does so too and runs nothing, feeds nothing and closes no level. seq leads from the end of an open
body to its begin while the level's fetch count is above 1, and else to what follows. The loop-back event counts its innermost level
down, rotates the views of that level where ROT is set and advances FTLVL, or closes the level in its last iteration; it waits where a trap
is pending. An instruction outside a body closes its level. -/
def Obligations.Sequencing : Prop :=
  ∀ (s : State) (i : Instr) (k : Core) (l m : Fin 4) (x : Word) (n last : Nat) (r : Reg),
    let c := s.cpu
    let open_ (j : Fin 4) : Prop := j ∈ c.order ∧ c.lc[j] ≠ 0
    let alone (p : Fin 4 → Prop) : Prop := ∀ j, j ≠ l → open_ j → p j → c.bodyWithin l j = true
    -- the chain of what issues, and what it leaves alone
    (s.beginIssue i).endIssue i = s.setCpu (s.sequenced i c) ∧
    (c.Follows i k → c.trapMode = true ∨ (∀ j : Fin 4, c.lc[j] ≠ 0 → c.levelBegin j ≤ c.chain.c0.toNat ∧ c.chain.c0.toNat ≤ c.levelEnd j ∧
        c.levelEnd j ≠ c.lastOf i) → k.lc = c.lc ∧ k.order = c.order ∧ k.vw = c.vw ∧ k.ftlvl = c.ftlvl ∧ k.loopDeferred = c.loopDeferred) ∧
    (c.inSlot = true ↔ c.chain.prior1 = true ∨ c.chain.prior2 = true) ∧
    -- seq
    (let at_ := x.toNat + 4 * n - 4
     let leads (j : Fin 4) : Prop := c.levelEnd j = at_ ∧ 1 < c.fc[j]
     (c.trapMode = true ∨ (∀ j, open_ j → ¬ leads j) → c.seqFrom x n = (x + BitVec.ofNat 64 (4 * n), c)) ∧
     (c.trapMode = false → open_ l → leads l → alone leads →
       c.seqFrom x n = (BitVec.ofNat 64 (c.levelBegin l), { c with fc := c.fc.set l (c.fc[l] - 1) }))) ∧
    -- the loop-back event
    (c.trapMode = true ∨ (∀ j, open_ j → c.levelEnd j ≠ last) → c.loopBack last = c) ∧
    (c.trapMode = false → open_ l → c.levelEnd l = last → alone (c.levelEnd · = last) → 1 < c.lc[l].toNat →
      let b := c.loopBack last
      let v := c.vw[r]
      let rwin := bitsOf v 77 12
      b = { c with lc := c.lc.set l (c.lc[l] - 1), vw := b.vw, ftlvl := b.ftlvl } ∧
      (bitOf c.le[l] 48 = true → 0 < rwin → bitsOf v 101 2 = l.val →
        bitsOf b.vw[r] 103 12 = (bitsOf v 103 12 + bitsOf v 89 12) % rwin ∧ bitsOf b.vw[r] 0 103 = bitsOf v 0 103 ∧
          bitsOf b.vw[r] 115 13 = bitsOf v 115 13) ∧
      (bitOf c.le[l] 48 = false ∨ rwin = 0 ∨ bitsOf v 101 2 ≠ l.val → b.vw[r] = v) ∧
      bitsOf b.ftlvl 0 4 = bitsOf c.ftlvl 0 4 ∧
      bitsOf b.ftlvl 4 4 = (if bitOf c.ftlvl 2 = true ∧ bitsOf c.ftlvl 0 2 = l.val then (bitsOf c.ftlvl 4 4 + 1) % 16 else bitsOf c.ftlvl 4 4)) ∧
    (c.trapMode = false → open_ l → c.levelEnd l = last → (∀ j, j ≠ l → open_ j → c.levelEnd j ≠ last) → c.lc[l] = 1 →
      c.loopBack last = { c with lc := c.lc.set l 0, order := c.order.filter (· ≠ l) }) ∧
    (c.finishBody last = if c.trapMode = false ∧ (∃ t ∈ c.traps, t.handler = false) ∧ (∃ j ∈ c.order, c.lc[j] ≠ 0 ∧ c.levelEnd j = last)
      then { c with loopDeferred := some last } else c.loopBack last) ∧
    -- levels left behind
    (let o := c.closeExited x
     let left (j : Fin 4) : Prop := c.trapMode = false ∧ c.lc[j] ≠ 0 ∧ ¬ (c.levelBegin j ≤ x.toNat ∧ x.toNat ≤ c.levelEnd j)
     o = { c with lc := o.lc, order := o.order } ∧ (left m → o.lc[m] = 0 ∧ m ∉ o.order) ∧
     (¬ left m → o.lc[m] = c.lc[m] ∧ (m ∈ o.order ↔ m ∈ c.order))) ∧
    -- an annulled instruction
    ((∀ a ∈ s.agenda, s.time < a.due) → (s.hub.phase = .ready → s.nextActivation = none) → s.curDone = false → c.activity = .running →
      c.freeze = none → c.chain.guess1 = false → c.trapMode = false → c.sOpen = true → nextDue c.sclk c.landings = none → s.nextDispatch = none →
      s.cpWait = false → c.draining = none → c.issued = false → s.atStop = false → s.present s.cur c.chain.c0.toNat = true →
      s.fetch s.cur c.chain.c0 = .instr i n → c.chain.annul0 = true →
      (slotForbidden i = false ∨ c.inSlot = false → ∃ t, step s = .next t ∧ t.curDone = true ∧ t.cpu.sclk = c.sclk + 1 ∧
        t.cpu.chain = ⟨c.chain.c1, c.chain.c2, (s.seq c.chain.c2).1, c.chain.annul1, false, isBranch i, c.chain.prior1, c.chain.guess2,
          s.guesses⟩ ∧
        t.cpu.x = c.x ∧ t.cpu.plate = c.plate ∧ t.cpu.queues = c.queues ∧ t.cpu.landings = c.landings ∧ t.cpu.seg = c.seg ∧
        t.cpu.masks = c.masks ∧ t.hbm = s.hbm ∧ t.agenda = s.agenda ∧ (∀ o, o ≠ s.cur → t.core o = s.core o) ∧
        let b := c.finishBody (c.lastOf i)
        t.cpu.lc = b.lc ∧ t.cpu.vw = b.vw ∧ t.cpu.ftlvl = b.ftlvl) ∧
      (slotForbidden i = true → c.inSlot = true → step s = .next (s.preciseTrap .illegalInSlot c.chain.c0)))

/-- R109, R111, R112: where the levels that the issue leaves are closed, LOOP and LOOPI with a count other than zero, whose level is closed
and whose body lies within every open level's, open their level with count, body, ROT and FTI, leave the other levels, and go on at the body;
with any other body they are a loop-nesting fault. With a count of zero they open nothing and go on behind the body. LBRK closes its
level and those within it, and no others. -/
def Obligations.Loops : Prop :=
  ∀ (s : State) (lvl : Fin 4) (rot fti : Bool) (a : Reg) (len : BitVec 14) (n : BitVec 9) (v : BitVec 32),
    let c := s.cpu
    let c' := c.closeExited c.chain.c0
    let go (i : Instr) (own parcels : Nat) (count : Word) : Prop :=
      let first := c.chain.c0.toNat + own
      let last := first + 4 * parcels - 4
      let nests := c'.lc[lvl] = 0 ∧ ∀ k ∈ c'.order, c'.lc[k] ≠ 0 → c'.levelBegin k ≤ first ∧ last ≤ c'.levelEnd k
      s.Allowed i → last + 4 < 2 ^ 48 →
      (count ≠ 0 → nests → 0 < parcels → ∃ t, exec i s = .next t ∧ t.cpu.lc[lvl] = count ∧ t.cpu.lb[lvl] = BitVec.ofNat 64 first ∧
        t.cpu.le[lvl] = BitVec.ofNat 64 (last + if rot then 2 ^ 48 else 0) ∧
        t.cpu.order = c'.order.filter (· ≠ lvl) ++ [lvl] ∧
        (∀ k, k ≠ lvl → t.cpu.lc[k] = c'.lc[k] ∧ t.cpu.lb[k] = c.lb[k] ∧ t.cpu.le[k] = c.le[k]) ∧
        t.cpu.chain.c0 = BitVec.ofNat 64 first ∧ t.cpu.x = c.x ∧ t.cpu.plate = c.plate ∧ t.cpu.vw = c.vw ∧
        t.cpu.ftlvl = (if fti then BitVec.ofNat 8 (lvl.val + 4) else c.ftlvl)) ∧
      (count ≠ 0 → ¬ nests → exec i s = .next (s.preciseTrap .loopNesting c.chain.c0)) ∧
      (count = 0 → ∃ t, exec i s = .next t ∧ t.cpu.chain.c0 = BitVec.ofNat 64 (last + 4) ∧ t.cpu.x = c.x ∧ t.cpu.plate = c.plate ∧
        t.cpu.lb = c.lb ∧ t.cpu.le = c.le ∧
        ((∀ k ∈ c'.order, c'.lc[k] ≠ 0 → c'.levelEnd k ≠ c.chain.c0.toNat + own - 4) →
          t.cpu.lc = c'.lc ∧ t.cpu.order = c'.order ∧ t.cpu.vw = c.vw ∧ t.cpu.ftlvl = c.ftlvl))
    go (.loop lvl rot fti a len) 4 len.toNat (c.readX a) ∧ go (.loopi lvl rot fti n v) 8 n.toNat (v.setWidth 64) ∧
    (s.Allowed (.lbrk lvl) →
      let k := c'.breakLevel lvl
      let broken (j : Fin 4) : Prop := j = lvl ∨ (c'.lc[j] ≠ 0 ∧ c.levelBegin lvl ≤ c.levelBegin j ∧ c.levelEnd j ≤ c.levelEnd lvl)
      s.GoesOn (.lbrk lvl) k ∧ k = { c' with lc := k.lc, order := k.order } ∧ (c'.lc[lvl] = 0 → k = c') ∧
      (c'.lc[lvl] ≠ 0 → ∀ j, (broken j → k.lc[j] = 0 ∧ j ∉ k.order) ∧ (¬ broken j → k.lc[j] = c'.lc[j] ∧ (j ∈ k.order ↔ j ∈ c'.order))))

/-! ### Control registers and configuration -/

/-- R32, R97–R100: CSRR gives a listed register's value at issue + 2; an index that R32 does not list, TVEC outside the module OS handler and
XSAV outside trap mode are illegal instructions. CSRW, CSRS and CSRC give the old value and change only the RW bits of UTVEC, SHP and FT,
and clear the VSTAT bits written as ones (CSRC clears none). In general every listed register that may be accessed in the mode is read
and written as its RW and W1C bits say. -/
def Obligations.ControlRegisters : Prop :=
  ∀ (s : State) (d a : Reg) (idx : BitVec 10) (k : Fin 16),
    let c := s.cpu
    let x := c.readX a
    let now := s.now s.cur
    let at_ (n : Nat) : BitVec 10 := BitVec.ofNat 10 n
    let opens (r : Csr) (writes : Bool) : Bool :=
      match r with
      | .tvec => c.trapMode && !c.userHandler
      | .xsav _ => c.trapMode
      | .lc _ | .lb _ | .le _ => !writes || c.trapMode
      | _ => true
    let old (i : Instr) (r : Csr) : Word := (s.beginIssue i).csrRead r
    let put (i : Instr) (r : Csr) (op : CsrOp) : Core := c.csrPut r (csrNew r c.trapMode op (old i r) x)
    (∀ r, csrOf idx = some r →
      (s.Allowed (.csrr d idx) → opens r false = true → s.GoesOn (.csrr d idx) (c.gets now 2 d (old (.csrr d idx) r))) ∧
      (s.Allowed (.csrw d a idx) → opens r true = true →
        s.GoesOn (.csrw d a idx) ((put (.csrw d a idx) r .write).gets now 2 d (old (.csrw d a idx) r))) ∧
      (s.Allowed (.csrs d a idx) → opens r (a ≠ 0) = true → s.GoesOn (.csrs d a idx)
        (Core.gets (if a = 0 then c else put (.csrs d a idx) r .set) now 2 d (old (.csrs d a idx) r))) ∧
      (s.Allowed (.csrc d a idx) → opens r (a ≠ 0) = true → s.GoesOn (.csrc d a idx)
        (Core.gets (if a = 0 then c else put (.csrc d a idx) r .clear) now 2 d (old (.csrc d a idx) r)))) ∧
    (csrOf idx = none → s.Allowed (.csrr d idx) → exec (.csrr d idx) s = .next (s.preciseTrap .illegalInstruction c.chain.c0)) ∧
    (c.trapMode = false → s.Allowed (.csrr d (at_ 0x035)) →
      exec (.csrr d (at_ 0x035)) s = .next (s.preciseTrap .illegalInstruction c.chain.c0)) ∧
    (c.trapMode = false → s.Allowed (.csrr d (at_ 0x0C3)) →
      exec (.csrr d (at_ 0x0C3)) s = .next (s.preciseTrap .illegalInstruction c.chain.c0)) ∧
    s.Yields (.csrr d (at_ 0x001)) 2 d (BitVec.ofNat 64 now) ∧
    s.Yields (.csrr d (at_ 0x002)) 2 d (BitVec.ofNat 64 (s.cur.val % 32 + s.cur.val / 32 * 32 + s.cur.val * 128)) ∧
    s.Yields (.csrr d (at_ 0x008)) 2 d c.mode ∧ s.Yields (.csrr d (at_ 0x030)) 2 d c.cause ∧
    s.Yields (.csrr d (at_ 0x031)) 2 d c.badaddr ∧ s.Yields (.csrr d (at_ 0x032)) 2 d c.xpc0 ∧
    (s.Allowed (.csrw d a (at_ 0x036)) → s.GoesOn (.csrw d a (at_ 0x036)) (Core.gets { c with utvec := x } now 2 d c.utvec)) ∧
    (s.Allowed (.csrw d a (at_ 0x009)) →
      s.GoesOn (.csrw d a (at_ 0x009)) (Core.gets { c with shp := x.setWidth 14 } now 2 d (c.shp.setWidth 64))) ∧
    (s.Allowed (.csrw d a (at_ (0x050 + k.val))) →
      s.GoesOn (.csrw d a (at_ (0x050 + k.val)))
        (Core.gets { c with ft := c.ft.set k (BitVec.ofNat 32 (c.ft[k].toNat / 2 ^ 29 * 2 ^ 29 + x.toNat % 2 ^ 29)) } now 2 d
          (c.ft[k].setWidth 64))) ∧
    (s.Allowed (.csrw d a (at_ 0x00A)) →
      s.GoesOn (.csrw d a (at_ 0x00A)) (Core.gets { c with vstat := c.vstat &&& ~~~(x.setWidth 5) } now 2 d (c.vstat.setWidth 64))) ∧
    (s.Allowed (.csrs d a (at_ 0x036)) → a ≠ 0 →
      s.GoesOn (.csrs d a (at_ 0x036)) (Core.gets { c with utvec := c.utvec ||| x } now 2 d c.utvec)) ∧
    (s.Allowed (.csrc d a (at_ 0x036)) → a ≠ 0 →
      s.GoesOn (.csrc d a (at_ 0x036)) (Core.gets { c with utvec := c.utvec &&& ~~~x } now 2 d c.utvec)) ∧
    (s.Allowed (.csrc d a (at_ 0x00A)) → s.GoesOn (.csrc d a (at_ 0x00A)) (c.gets now 2 d (c.vstat.setWidth 64)))

/-- R146–R148: VWSET, SHPSET, FTSET and ROTSET take effect for the instructions issued after them, before a loop-back at their end; VWGET gives a
view's two halves as VWSET stored them, reserved bits included (log entry 116); MSET sets a run of mask bits at issue + 1. Their faults come
first. -/
def Obligations.Configuration : Prop :=
  ∀ (s : State) (i d a b : Reg) (k : Fin 16),
    let c := s.cpu
    let now := s.now s.cur
    let x := c.readX a
    let y := c.readX b
    let v := c.vw[i].toNat
    (s.Allowed (.vwset i a b) → s.GoesOn (.vwset i a b) { c with vw := c.vw.set i (BitVec.ofNat 128 (y.toNat * 2 ^ 64 + x.toNat)) }) ∧
    (s.Allowed (.rotset i a) → 0 < bitsOf c.vw[i] 77 12 → x.toNat < bitsOf c.vw[i] 77 12 → s.GoesOn (.rotset i a)
      { c with vw := c.vw.set i (BitVec.ofNat 128 (v % 2 ^ 103 + x.toNat * 2 ^ 103 + v / 2 ^ 115 * 2 ^ 115)) }) ∧
    (s.Allowed (.rotset i a) → bitsOf c.vw[i] 77 12 ≤ x.toNat →
      exec (.rotset i a) s = .next (s.preciseTrap .viewBounds (BitVec.ofNat 64 i.val))) ∧
    (s.Allowed (.shpset a) → x.toNat < 2 ^ 14 → s.GoesOn (.shpset a) { c with shp := BitVec.ofNat 14 x.toNat }) ∧
    (s.Allowed (.shpset a) → 2 ^ 14 ≤ x.toNat → exec (.shpset a) s = .next (s.preciseTrap .shapeLimit x)) ∧
    (s.Allowed (.ftset k a) → s.GoesOn (.ftset k a) { c with ft := c.ft.set k (BitVec.ofNat 32 (x.toNat % 2 ^ 29)) }) ∧
    (s.Allowed (.vwget d i) → s.GoesOn (.vwget d i) (c.getsAll now 2
        [(d, BitVec.ofNat 64 c.vw[i].toNat), (regPlus d 1, BitVec.ofNat 64 (c.vw[i].toNat / 2 ^ 64))])) ∧
    (s.Allowed (.mset i a b) → x.toNat + y.toNat ≤ 4096 →
      let m := BitVec.ofNat 4096 (total ((List.range' x.toNat y.toNat).map fun p => 2 ^ p))
      s.GoesOn (.mset i a b) (if c.trapMode then { c with masks := c.masks.set (Fin.ofNat 8 i.val) m }
        else c.sends 1 [.mask (Fin.ofNat 8 i.val)] [.mask (Fin.ofNat 8 i.val) m])) ∧
    (s.Allowed (.mset i a b) → 4096 < x.toNat + y.toNat → exec (.mset i a b) s = .next (s.preciseTrap .shapeLimit x))


/-! ### The system instructions -/

/-- R114–R116, R250, R254: NOP changes nothing; TMARK closes the engine command window; QDRAIN, MODESET and HALT stop issue until their
condition holds, and the chain of a HALT stays at it. MODESET of EXP in a kernel built against "any" is an illegal instruction. -/
def Obligations.SystemControl : Prop :=
  ∀ (s : State) (m : BitVec 5) (v : BitVec 3),
    let c := s.cpu
    (s.Allowed .nop → s.GoesOn .nop c) ∧
    (s.Allowed .tmark → s.GoesOn .tmark
      { c with window := Window.fresh (c.window.number + 1), oldWindows := c.oldWindows ++ [c.window], seg := { c.seg with marked := true } }) ∧
    (s.Allowed (.qdrain m) → s.GoesOn (.qdrain m) { c with draining := some (.qdrain m) }) ∧
    (s.Allowed (.modeset v) → v.getLsbD 0 = false ∨ s.anyContract = false →
      s.GoesOn (.modeset v) { c with draining := some (.modeset v) }) ∧
    (s.Allowed (.modeset v) → v.getLsbD 0 = true → s.anyContract = true →
      exec (.modeset v) s = .next (s.preciseTrap .illegalInstruction c.chain.c0)) ∧
    (s.Allowed .halt →
      let o := c.closeExited c.chain.c0
      exec .halt s = .next (s.setCpu { c with
        draining := some .halt, lc := o.lc, order := o.order, issued := true, seqNo := c.seqNo + 1,
        skipBreak := false, seg := { c.seg with crc := (c.feed (firstParcel .halt)).seg.crc } }))

/-- R61, R62, R64, R66–R68, R71, R76, R77, R113: LOOP, LOOPI, HALT, RTT, SEGB and SEGE in a slot raise the cause for that; RTT outside trap mode,
TLBINV outside the module OS handler, and in trap mode the V and M instructions, the loop, segment and drain instructions, POOL and LAUNCH,
are illegal instructions; so is what breaks a field rule: a register group beyond its registers, a forbidden scope, an empty body, a literal beside XFN, fields of a
V or M instruction that must be zero or in range. Each is precise, with the instruction's address. -/
def Obligations.PositionChecks : Prop :=
  ∀ (s : State) (i : Instr) (v : VWord) (m : MWord),
    let c := s.cpu
    let noSlot : Prop := match i with
      | .loop _ _ _ _ _ | .loopi _ _ _ _ _ | .halt | .rtt | .segb | .sege _ _ => True
      | _ => False
    let notHere : Prop := match i with
      | .rtt => c.trapMode = false
      | .tlbinv _ _ => c.trapMode = false ∨ bitOf c.tstatus 1 = true
      | .loop _ _ _ _ _ | .loopi _ _ _ _ _ | .halt | .segb | .sege _ _ | .tmark | .modeset _ | .qdrain _
      | .pwbegin _ _ | .pwend _ _ | .pwnext _ _ _ | .prbegin _ _ _ | .prend _ | .prnext _ _ _ | .pquery _ _
      | .launch _ | .launchs _ => c.trapMode = true
      | _ => c.trapMode = true ∧ 2 ≤ firstParcel i % 4
    let beyond (d : Reg) (k : Nat) : Prop := d = 0 ∨ 32 < d.val + k
    let broken : Prop := match i with
      | .evpop d | .evpeek d | .vwget d _ => beyond d 2
      | .loop _ _ _ _ len => len = 0
      | .loopi _ _ _ len _ => len = 0
      | .semadd _ sc _ | .semset _ sc _ | .semwait _ sc _ | .semradd _ sc _ _ | .pwend _ sc | .racq _ _ sc | .rpub _ sc | .rfree _ sc
      | .rclose _ sc _ => sc = .eng
      | .semmset _ sc _ b => sc = .eng ∨ beyond b 2
      | .pwbegin d _ | .pquery d _ => beyond d 3
      | .pwnext d _ sc | .prbegin d _ sc | .prnext d _ sc => sc = .eng ∨ beyond d 3
      | .rtake d _ sc => sc = .eng ∨ beyond d 2
      | .mset j _ _ => j = 0 ∨ 8 ≤ j.val
      | _ => False
    let transfers := loadInstrs ++ storeInstrs ++ copyInstrs ++ ([.sbind, .wstore] : List (VWord → Instr))
    let slotTrap : Prop := exec i s = .next (s.preciseTrap .illegalInSlot c.chain.c0)
    let illegal (j : Instr) : Prop := exec j s = .next (s.preciseTrap .illegalInstruction c.chain.c0)
    let place (j : Instr) : Prop := slotForbidden j = false ∨ c.inSlot = false
    encode i ≠ [] →
    (noSlot → c.inSlot = true → slotTrap) ∧
    (¬ noSlot ∨ c.inSlot = false → notHere ∨ broken → illegal i) ∧
    (¬ noSlot ∨ c.inSlot = false → fieldFault i ≠ none → illegal i) ∧
    (firstParcel i % 4 < 2 → ¬ broken → fieldFault i = none) ∧
    (noSlot ∧ c.inSlot = true ∨ notHere ∨ fieldFault i ≠ none ↔ ¬ s.Allowed i) ∧
    (∀ f ∈ ringInstrs ++ permInstrs ++ transfers, place (f v) →
      ((match v.s2 with | .lit _ => v.xfn ≠ 0 | _ => False) → illegal (f v)) ∧
      (f v ∈ transfers.map (· v) → v.fmt ≠ 0 ∨ v.pm ≠ 0 → illegal (f v)) ∧
      (f v ∈ (copyInstrs ++ ([.wstore] : List (VWord → Instr))).map (· v) → v.mod = 0 ∨ 8 ≤ v.mod.toNat → illegal (f v)) ∧
      (f v ∈ (ringInstrs ++ permInstrs).map (· v) → v.bit21 = true → v.pm = 0 → illegal (f v))) ∧
    (∀ f ∈ matrixInstrs, 3 < m.acc.val + m.mrepM1.val ∨ 63 < m.wslot.val + m.kstepM1.val → illegal (f m))

/-- R252: GSET marks and GCLR unmarks the granules of its range and no others; the checks come in their order. -/
def Obligations.GuardMarks : Prop :=
  ∀ (s : State) (a b : Reg),
    let c := s.cpu
    let x := (c.readX a).toNat
    let n := (c.readX b).toNat
    let go (i : Instr) (keeps : Nat → Prop) : Prop := s.Allowed i →
      (x % 256 = 0 → x + 256 * n ≤ 0x400000 → n < 2 ^ 14 → c.trapMode = true ∨ n = 0 ∨ x + 256 * n ≤ 0x3F0000 →
        ∃ g, s.GoesOn i { c with guards := g } ∧ ∀ k, k ∈ g ↔ keeps k) ∧
      (x % 256 ≠ 0 → exec i s = .next (s.preciseTrap .misaligned (c.readX a))) ∧
      (x % 256 = 0 → 0x400000 < x + 256 * n ∨ 2 ^ 14 ≤ n → exec i s = .next (s.preciseTrap .accessFault (c.readX a))) ∧
      (x % 256 = 0 → x + 256 * n ≤ 0x400000 → n < 2 ^ 14 → c.trapMode = false → n ≠ 0 → 0x3F0000 < x + 256 * n →
        exec i s = .next (s.preciseTrap .platePrivilege (c.readX a)))
    go (.gset a b) (fun k => k ∈ c.guards ∨ (x / 256 ≤ k ∧ k < x / 256 + n)) ∧
    go (.gclr a b) (fun k => k ∈ c.guards ∧ ¬ (x / 256 ≤ k ∧ k < x / 256 + n))

/-- R251: EVPOP takes the oldest record out of the EVQ and gives it to XD and XD+1 at issue + 2, and acquires what the record carries: of
a copy's nothing beyond the core's own writes; on an empty EVQ it waits. EVPEEK leaves the record, and on an empty EVQ gives all ones and 0.
Where the spec leaves it to the model, the reading is that of log entry 36. -/
def Obligations.CompletionEvents : Prop :=
  ∀ (s : State) (d : Reg) (r : EvRecord) (rest : List EvRecord),
    let c := s.cpu
    let now := s.now s.cur
    (s.Allowed (.evpeek d) → c.evq = [] →
      s.GoesOn (.evpeek d) (c.getsAll now 2 [(d, BitVec.allOnes 64), (regPlus d 1, 0)])) ∧
    (s.Allowed (.evpeek d) → c.evq = r :: rest → s.GoesOn (.evpeek d) (c.getsAll now 2 [(d, r.lo), (regPlus d 1, r.hi)])) ∧
    (s.Allowed (.evpop d) → c.evq = [] → exec (.evpop d) s = .next s) ∧
    (s.Allowed (.evpop d) → c.evq = r :: rest →
      ∃ t m, exec (.evpop d) s = .next t ∧
        t.cpu = s.sequenced (.evpop d) { c.getsAll now 2 [(d, r.lo), (regPlus d 1, r.hi)] with evq := rest, known := m } ∧
        (∀ q ∈ r.known, q.2 ≤ knownOf m q.1) ∧ (r.known = [] → m = c.known) ∧ (r.copy = none → t = s.setCpu t.cpu) ∧
        (∀ o, o ≠ s.cur → t.core o = s.core o) ∧ t.hbm = s.hbm ∧ t.agenda = s.agenda)

/-- R36, R37, R121, R122, R124, R125: entering a handler writes CAUSE, BADADDR, XPC0–XPC2 and TSTATUS as they say, SLOT among them, gives TX7 the
address of an engine's instruction, and goes to UTVEC for a delegable cause that TRAPDLG delegates outside trap mode, else to TVEC, its
chain the instructions that follow one another there; nothing else of the core changes but what the handler's own accesses use, and
nothing outside it. TRAP n outside trap mode is taken after its S-cycle, with cause 0x11, n and the next instruction's address; for
n below 512 the module OS appends a record to the tenant's trace and the handler runs; otherwise, and for every TRAP in trap mode, the
kernel is marked faulted and the core stops. That the module OS does its part in the step of the trap itself is the model's reading (log
entry 55).
Where the spec leaves it to the model, the reading is that of log entry 55. -/
def Obligations.TrapInstruction : Prop :=
  ∀ (s : State) (p : PendingTrap) (n : BitVec 10),
    let c := s.cpu
    (let u := s.enterTrap s.cur p
     let k := u.cpu
     let user := p.cause.delegable && c.trapDlg && c.utvec ≠ 0 && !c.trapMode
     let at_ := if user then c.utvec else c.tvec
     let next (a : Word) : Word := a + BitVec.ofNat 64 (4 * u.lengthAt s.cur a)
     let low (w : Word) : Word := BitVec.ofNat 64 (w.toNat % 2 ^ 48)
     let two (b : Bool) (j : Nat) : Nat := if b then 2 ^ j else 0
     u = s.setCpu k ∧
     k = { c with
       cause := BitVec.ofNat 64 (p.cause.code + two p.cause.delegable 8 + two p.precise 9), badaddr := p.badaddr,
       xpc0 := low c.chain.c0, xpc1 := low c.chain.c1, xpc2 := low c.chain.c2,
       tstatus := BitVec.ofNat 11 (2 ^ 0 + two user 1 + two (if p.precise && p.eng.isNone then c.inSlot else p.slot) 2 +
         2 ^ 3 * engCode p.eng + two c.loopDeferred.isSome 6 + two c.chain.annul0 7 + two c.chain.annul1 8 + two c.chain.prior1 9 +
         two c.chain.prior2 10),
       tx := if p.eng.isSome then c.tx.set 7 p.addr else c.tx,
       chain := { c0 := at_, c1 := next at_, c2 := next (next at_), annul0 := false, annul1 := false, prior1 := false, prior2 := false,
                  guess1 := k.chain.guess1, guess2 := k.chain.guess2 },
       draining := if c.draining = some .halt then none else c.draining, rttWait := false, issued := false,
       hReady := [], hSlots := [], hDivFree := 0, hLater := [], globals := c.globals.filter fun g => !g.handler || (!g.isLoad && !g.done),
       -- the model's own record of the chain and of a breakpoint taken
       xguess := (c.chain.guess1, c.chain.guess2), breakTaken := k.breakTaken, skipBreak := false }) ∧
    (s.Allowed (.trap n) → c.activity = .running →
    ∃ t, exec (.trap n) s = .next t ∧ t.cur = s.cur ∧ t.cpu.x = c.x ∧ t.cpu.tx = c.tx ∧ t.cpu.cause = 0x11 ∧
      t.cpu.badaddr = n.setWidth 64 ∧ t.cpu.xpc0 = BitVec.ofNat 64 (c.chain.c1.toNat % 2 ^ 48) ∧
      t.cpu.xpc1 = BitVec.ofNat 64 (c.chain.c2.toNat % 2 ^ 48) ∧ bitOf t.cpu.tstatus 0 = true ∧ bitOf t.cpu.tstatus 1 = false ∧
      bitOf t.cpu.tstatus 2 = c.inSlot ∧
      (n.toNat < 512 → c.trapMode = false →
        t.cpu.activity = .running ∧ t.cpu.chain.c0 = c.tvec ∧ t.cpu.sclk = c.sclk + 1 ∧ t.cpu.plate = c.plate ∧ t.kernels = s.kernels ∧
        ∃ r, (t.tenantOf c.tenant).trace = (s.tenantOf c.tenant).trace ++ [r] ∧ r.n = n.toNat ∧ r.core = s.cur ∧
          r.kernid = c.kernid ∧ r.xpc0 = t.cpu.xpc0) ∧
      (512 ≤ n.toNat ∨ c.trapMode = true →
        t.cpu.activity = .stopped ∧
        ((∀ k ∈ s.kernels, k.kid = c.kernid.toNat → k.fault = none) →
          ∀ k ∈ t.kernels, k.kid = c.kernid.toNat → ∃ f, k.fault = some f ∧ f.code = 0x11 ∧ f.badaddr = n.setWidth 64 ∧ f.rank = c.rank)))

/-- R127: RTT resumes the chain of XPC0–XPC2 with its annulments and history and clears TSTATUS, once every handler access and divide is
done; until then it waits. X registers, masks and the Plate are as the handler left them.
Where the spec leaves it to the model, the reading is that of log entry 29. -/
def Obligations.TrapReturn : Prop :=
  ∀ (s : State),
    let c := s.cpu
    let al (w : Word) : Word := BitVec.ofNat 64 (w.toNat / 4 * 4)
    let done : Prop := (∀ h ∈ c.hSlots, h ≤ s.now s.cur) ∧ c.hDivFree ≤ s.now s.cur ∧ (∀ p ∈ c.hReady, p.2 ≤ s.now s.cur) ∧
      c.hLater = []
    s.Allowed .rtt →
      (done → ∃ t, exec .rtt s = .next t ∧ t.cpu.tstatus = 0 ∧
        t.cpu.chain = ⟨al c.xpc0, al c.xpc1, al c.xpc2, bitOf c.tstatus 7, bitOf c.tstatus 8, bitOf c.tstatus 9, bitOf c.tstatus 10,
          c.xguess.1, c.xguess.2⟩ ∧
        t.cpu.x = c.x ∧ t.cpu.tx = c.tx ∧ t.cpu.masks = c.masks ∧ t.cpu.plate = c.plate ∧ t.cpu.sclk = c.sclk ∧
        (c.loopDeferred = none → t.cpu.lc = c.lc ∧ t.cpu.vw = c.vw)) ∧
      (¬ done → exec .rtt s = .next (s.setCpu { c with rttWait := true }))

/-- R249, R260, R295: an acquiring FENCE comes to know what the releases that the core's reads have met within its scope cover; a releasing
one leaves a release of everything before it for the core's later stores to carry. One below DIE scope performs the core's earlier global
accesses at once, and one at DIE scope or wider freezes until its acknowledgements arrive. A barrier outside trap mode that finds a
recorded touch reports it after its S-cycle, or once it thaws: in the user handler where TRAPDLG delegates it, with GUARDST as it was, else
at the module OS, which clears VALID and marks the kernel faulted. No register changes.
Where the spec leaves it to the model, the reading is that of log entries 36 and 55. -/
def Obligations.Fences : Prop :=
  ∀ (s : State) (kind : FenceKind) (sc : Scope),
    let c := s.cpu
    let i := Instr.fence kind sc
    let frees := c.trapMode = true ∨ bitOf c.guardst 28 = false
    let learns (t : State) : Prop := ∀ p ∈ c.heard, s.within p.2.scope p.1 s.cur = true → s.within sc s.cur p.1 = true →
      ∀ q ∈ p.2.known, q.2 ≤ knownOf t.cpu.known q.1
    let leaves (t : State) : Prop := t.cpu.rel = c.rel + 1 ∧ ∃ r ∈ t.cpu.fenced, r.scope = sc ∧ c.rel + 1 ≤ knownOf r.known s.cur
    let reports (t : State) : Prop := t.cpu.cause = 0x110 ∧ t.cpu.badaddr.toNat = bitsOf c.guardst 6 22 ∧
      t.cpu.xpc0 = BitVec.ofNat 64 (c.chain.c1.toNat % 2 ^ 48) ∧
      (c.trapDlg = true ∧ c.utvec ≠ 0 → t.cpu.chain.c0 = c.utvec ∧ t.cpu.guardst = c.guardst ∧ bitOf t.cpu.tstatus 1 = true) ∧
      (c.trapDlg = false ∨ c.utvec = 0 → t.cpu.guardst = 0 ∧ t.cpu.activity = .stopped)
    s.Allowed i →
    (kind = .acq → frees → ∃ m l, s.GoesOn i { c with known := m, heard := l }) ∧
    (kind = .acq → ∃ t, exec i s = .next t ∧ t.cpu.x = c.x ∧ learns t ∧ t.cpu.globals = c.globals ∧ t.hbm = s.hbm ∧ (¬ frees → reports t)) ∧
    (kind ≠ .acq → scopeCode sc < 3 → ∃ t, exec i s = .next t ∧ t.cpu.x = c.x ∧ t.cpu.freeze = c.freeze ∧ leaves t ∧
      t.cpu.globals.map (·.seq) = c.globals.map (·.seq) ∧ (∀ g ∈ t.cpu.globals, g.handler = c.trapMode → g.done = true) ∧
      (kind = .acqRel → learns t) ∧ (¬ frees → reports t)) ∧
    (kind ≠ .acq → 3 ≤ scopeCode sc → ∃ t, exec i s = .next t ∧ t.cpu.x = c.x ∧ t.cpu.freeze = some .fence ∧ leaves t ∧
      t.cpu.globals = c.globals ∧ (∃ a ∈ t.agenda, a.what = .fenceAck s.cur ∧ s.time ≤ a.due) ∧ (kind = .acqRel → learns t) ∧
      (¬ frees → ∃ p ∈ t.cpu.traps, p.cause = .guardReport ∧ p.badaddr.toNat = bitsOf c.guardst 6 22))

/-- R253: TLBINV, in the module OS handler, sends the invalidation to every core over the notice network and waits; its address checks come
first, the alignment before the range (log entry 118). -/
def Obligations.TlbInvalidation : Prop :=
  ∀ (s : State) (a b : Reg),
    let c := s.cpu
    let x := c.readX a
    s.Allowed (.tlbinv a b) →
    (x.toNat % 65536 ≠ 0 → exec (.tlbinv a b) s = .next (s.preciseTrap .misaligned x)) ∧
    (x.toNat % 65536 = 0 → 2 ^ 48 ≤ x.toNat → exec (.tlbinv a b) s = .next (s.preciseTrap .accessFault x)) ∧
    (x.toNat % 65536 = 0 → x.toNat < 2 ^ 48 →
      ∃ t, exec (.tlbinv a b) s = .next t ∧ t.cpu.x = c.x ∧ t.cpu.freeze = some (.tlbinv 0) ∧
        (∃ m ∈ t.casts, m.src = s.cur ∧ m.dsts = List.finRange 128 ∧ m.inval = some (c.tenant, x.toNat, 65536 * (c.readX b).toNat)) ∧
        ∃ e ∈ t.agenda, e.what = .hubNotice ∧ s.time + 64 ≤ e.due)

/-- R117–R119: SEGB opens a segment at its own S-cycle with the signature of its own parcel; SEGE with the right count and signature closes
it and leaves both to be read; a failing SEGE that cannot run again raises the proof mismatch after itself, delegable. -/
def Obligations.ProofSegments : Prop :=
  ∀ (s : State) (a : Reg) (sig : BitVec 32),
    let c := s.cpu
    let i := Instr.sege a sig
    let n := c.sclk - c.seg.start + 1
    let signed : BitVec 32 := ~~~(crcBytes c.seg.crc (natBytes 4 (firstParcel i)))
    (s.Allowed .segb → ∃ t, exec .segb s = .next t ∧ t.cpu.seg.open_ = true ∧ t.cpu.seg.start = c.sclk ∧ t.cpu.x = c.x ∧
      t.cpu.seg.crc = crcBytes 0xFFFFFFFF#32 [0x60#8, 0x00#8, 0x80#8, 0x03#8] ∧ t.cpu.seg.rerun = false) ∧
    (s.Allowed i → c.seg.open_ = true → (c.readX a).toNat = n → n ≤ 65535 → signed = sig → c.seg.rerun = false →
      bitOf c.guardst 28 = false →
      s.GoesOn i { c with seg := { c.seg with open_ := false, sig := signed, count := BitVec.ofNat 17 n,
                                              crc := crcBytes c.seg.crc (natBytes 4 (firstParcel i)) } }) ∧
    (s.Allowed i → c.seg.open_ = false ∨ (c.readX a).toNat ≠ n ∨ 65535 < n ∨ signed ≠ sig →
      c.seg.open_ = false ∨ c.seg.marked = true ∨ c.seg.clean = false → bitOf c.guardst 28 = false →
      ∃ t, exec i s = .next t ∧ t.cpu.cause = 0x10F ∧ t.cpu.badaddr = c.chain.c0 ∧ t.cpu.seg.open_ = false ∧ t.cpu.x = c.x ∧
        t.cpu.xpc0 = BitVec.ofNat 64 (c.chain.c1.toNat % 2 ^ 48) ∧
        (c.trapDlg = true ∧ c.utvec ≠ 0 → t.cpu.chain.c0 = c.utvec))


/-! ### Synchronisation -/

/-- R236–R240, R297: SEMADD and SEMSET reach their own semaphore one die cycle after issue, SEMRADD its rank's at the times of R236, each
with a release of everything before it. SEMMSET sends one multicast set, with its release, to every rank of its mask; where no earlier
multicast of the core still waits for its notice, it is serviced at those times (log entry 17); an empty mask sends nothing. Ranks beyond the group are violations. No
register changes. -/
def Obligations.SemaphoreUpdates : Prop :=
  ∀ (s : State) (i a b : Reg) (sc : Scope) (k : Nat),
    let c := s.cpu
    let low (r : Reg) : BitVec 32 := (c.readX r).setWidth 32
    let rank := (c.readX a).toNat
    let peer := s.rankCore s.cur rank
    let row (d : CoreId) : Nat := if d = s.cur then 1 else if dieOf d = dieOf s.cur then 4 else 12
    let mask := (c.readX b).toNat + (c.readX (regPlus b 1)).toNat * 2 ^ 64
    let bit (r : Nat) : Bool := mask / 2 ^ r % 2 = 1
    let releases (r : Covered) : Prop := r.scope = sc ∧ c.rel + 1 ≤ knownOf r.known s.cur
    let go (ins : Instr) (dst : CoreId) (op : SemOp) (ok : Nat → Prop) : Prop :=
      ∃ t, exec ins s = .next t ∧ t.cpu.x = c.x ∧ t.cpu.sems = c.sems ∧ t.cpu.rel = c.rel + 1 ∧
        ∃ e ∈ t.agenda, ok (e.due - s.time) ∧ ∃ r, e.what = .semRemoteService s.cur dst i op s.time (some r) ∧ releases r
    (s.Allowed (.semadd i sc a) → go (.semadd i sc a) s.cur (.add (low a)) (· = 1)) ∧
    (s.Allowed (.semset i sc a) → go (.semset i sc a) s.cur (.set (low a)) (· = 1)) ∧
    (s.Allowed (.semradd i sc a b) → rank < c.groupSize → rank < 128 →
      go (.semradd i sc a b) peer (.add (low b)) (row peer ≤ ·)) ∧
    (s.Allowed (.semradd i sc a b) → c.groupSize ≤ rank ∨ 128 ≤ rank →
      exec (.semradd i sc a b) s = .next (s.preciseTrap .groupViolation (c.readX a))) ∧
    (s.Allowed (.semmset i sc a b) →
      (bit k = true → k < 128 → c.groupSize ≤ k → (∀ r < k, bit r = true → r < c.groupSize) →
        exec (.semmset i sc a b) s = .next (s.preciseTrap .groupViolation (BitVec.ofNat 64 k))) ∧
      ((∀ r < 128, bit r = true → r < c.groupSize) → ∃ t, exec (.semmset i sc a b) s = .next t ∧ t.cpu.x = c.x ∧ t.cpu.sems = c.sems ∧
        t.cpu.rel = c.rel + 1 ∧ (mask = 0 → t.casts = s.casts ∧ t.agenda = s.agenda) ∧
        (k < 128 → bit k = true →
          let d := s.rankCore s.cur k
          (∃ m ∈ t.casts, m.src = s.cur ∧ d ∈ m.dsts ∧ m.sem = some (i, low a) ∧ ∃ r, m.rel = some r ∧ releases r) ∧
          ((∀ m ∈ s.casts, m.src = s.cur → m.window.isSome = true) → ∃ e ∈ t.agenda, e.what = .multicastApply d s.cur s.nextCast ∧ e.due = s.time + row d))))

/-- R239, R240: SEMWAIT passes when its semaphore has reached the value or its FAULT flag is set, and acquires only in the first case; it
waits otherwise. SEMRD gives the value with FAULT in bit 63 at issue + 2. -/
def Obligations.SemaphoreWaits : Prop :=
  ∀ (s : State) (d i a : Reg) (sc : Scope),
    let c := s.cpu
    let m := c.sems[i]
    let quiet : Core := { c with seg := { c.seg with clean := false } }
    let pass : Prop := m.fault = true ∨ (c.readX a).toNat % 2 ^ 32 ≤ m.value.toNat
    (s.Allowed (.semwait i sc a) → ¬ pass → exec (.semwait i sc a) s = .next s) ∧
    (s.Allowed (.semwait i sc a) → pass → c.trapMode = true ∨ bitOf c.guardst 28 = false →
      ∃ n, s.GoesOn (.semwait i sc a) { quiet with known := n } ∧ (m.fault = true → n = c.known) ∧
        (m.fault = false → ∀ p ∈ s.synced, p.obj = .sem s.cur i → s.within p.rel.scope p.core s.cur = true →
          s.within sc s.cur p.core = true → ∀ q ∈ p.rel.known, q.2 ≤ knownOf n q.1)) ∧
    (s.Allowed (.semrd d i) → s.GoesOn (.semrd d i)
      (quiet.gets (s.now s.cur) 2 d (BitVec.ofNat 64 (m.value.toNat + if m.fault then 2 ^ 63 else 0))))

/-- R236, R238, R241: a pool instruction sends its operation to the pool's home at the times of R236, and one with a reply awaits XD, XD+1
and XD+2 at the readable S-cycle; PWEND and PWNEXT are releases; an entry that the kernel does not declare is an access fault. -/
def Obligations.PoolOperations : Prop :=
  ∀ (s : State) (d p : Reg) (sc : Scope) (home : CoreId) (u : Fin 8),
    let c := s.cpu
    let row : Nat := if home = s.cur then 1 else if dieOf home = dieOf s.cur then 4 else 12
    let back : Nat := if home = s.cur then 2 else if dieOf home = dieOf s.cur then 9 else 25
    let go (i : Instr) (op : PoolOp) (replies releases : Bool) : Prop :=
      s.Allowed i →
      (s.poolHome p = none → exec i s = .next (s.preciseTrap .accessFault (BitVec.ofNat 64 p.val))) ∧
      (s.poolHome p = some (home, u) → ∃ t, exec i s = .next t ∧ t.cpu.x = c.x ∧
        (∃ e ∈ t.agenda, ∃ q, e.what = .poolService q ∧ s.time + row ≤ e.due ∧ q.src = s.cur ∧ q.home = home ∧ q.entry = u.val ∧
          q.op = op ∧ q.rank = c.rank ∧ q.kid = c.kernid.toNat ∧ q.rid = s.nextRid ∧ q.sent = s.time ∧
          (releases = false → q.rel = none) ∧
          (releases = true → ∃ r, q.rel = some r ∧ r.scope = sc ∧ c.rel + 1 ≤ knownOf r.known s.cur)) ∧
        (replies = false → t.cpu.homeOps = c.homeOps) ∧
        (replies = true → (∃ o ∈ t.cpu.homeOps, o.rid = s.nextRid ∧ o.dest = [d, regPlus d 1, regPlus d 2] ∧ o.arrived = none) ∧
          (c.trapMode = false → ∃ l ∈ t.cpu.landings, l.due = c.sclk + back ∧ l.effs = [.reply s.nextRid] ∧
            l.holds = [.x d, .x (regPlus d 1), .x (regPlus d 2)])))
    go (.pwbegin d p) .wbegin true false ∧ go (.pwend p sc) .wend false true ∧ go (.pwnext d p sc) .wnext true true ∧
    go (.prbegin d p sc) .rbegin true false ∧ go (.prend p) .rend false false ∧ go (.prnext d p sc) .rnext true false ∧
    go (.pquery d p) .query true false

/-- R236, R245–R247: a ring instruction of the right side sends its operation to the ring's home, the consumer's core; RACQ and RSTAT await
XD, RTAKE XD and XD+1; RPUB, RFREE and RCLOSE are releases; and an undeclared entry or the wrong side is an access fault. -/
def Obligations.RingOperations : Prop :=
  ∀ (s : State) (d r : Reg) (sc : Scope) (err : Bool) (f : RingRef),
    let c := s.cpu
    let home := s.rankCore s.cur f.cons
    let row : Nat := if home = s.cur then 1 else if dieOf home = dieOf s.cur then 4 else 12
    let go (i : Instr) (op : RingOp) (side : Option Nat) (dest : Option (List Reg)) (releases : Bool) : Prop :=
      s.Allowed i → c.trapMode = true ∨ bitOf c.guardst 28 = false →
      (s.ringRef r = none → exec i s = .next (s.preciseTrap .accessFault (BitVec.ofNat 64 r.val))) ∧
      (s.ringRef r = some f → (∃ k, side = some k ∧ k ≠ c.rank) →
        exec i s = .next (s.preciseTrap .accessFault (BitVec.ofNat 64 r.val))) ∧
      (s.ringRef r = some f → (∀ k, side = some k → k = c.rank) → ∃ t, exec i s = .next t ∧ t.cpu.x = c.x ∧
        (∃ e ∈ t.agenda, ∃ q, e.what = .ringService q ∧ s.time + row ≤ e.due ∧ q.src = s.cur ∧ q.home = home ∧
          q.entry = f.unit.val ∧ q.op = op ∧ q.rank = c.rank ∧ q.kid = c.kernid.toNat ∧ q.rid = s.nextRid ∧ q.sent = s.time ∧
          (releases = false → q.rel = none) ∧
          (releases = true → ∃ r, q.rel = some r ∧ r.scope = sc ∧ c.rel + 1 ≤ knownOf r.known s.cur)) ∧
        (dest = none → t.cpu.homeOps = c.homeOps) ∧
        (∀ l, dest = some l → ∃ o ∈ t.cpu.homeOps, o.rid = s.nextRid ∧ o.dest = l ∧ o.arrived = none))
    go (.racq d r sc) .acq (some f.prod) (some [d]) false ∧ go (.rpub r sc) .pub (some f.prod) (some []) true ∧
    go (.rtake d r sc) .take (some f.cons) (some [d, regPlus d 1]) false ∧ go (.rfree r sc) .free (some f.cons) (some []) true ∧
    go (.rclose r sc err) (.close err) (some f.prod) (some []) true ∧ go (.rbrk r) .brk none none false ∧
    go (.rstat d r) .stat none (some [d]) false

/-- R248, R305, R310, R311, R354, R376: LAUNCH and LAUNCHS put one activation of the kernel's graph behind the tenant's pending ones, ready at most 192
die cycles later, with a release of everything before it, LAUNCHS with its launcher; a node number above 32 bits is an access fault. A module that accepts no
more launches takes none.
Where the spec leaves it to the model, the reading is that of log entry 7. -/
def Obligations.Launches : Prop :=
  ∀ (s : State) (a : Reg),
    let c := s.cpu
    let x := (c.readX a).toNat
    let g := s.graphOf
    let go (i : Instr) (by_ : Option Nat) : Prop :=
      s.Allowed i →
      (2 ^ 32 ≤ x → exec i s = .next (s.preciseTrap .accessFault (c.readX a))) ∧
      (x < g.2 → x < 2 ^ 32 → (s.tenantOf c.tenant).pending.length < 4096 → s.hub.accepting = true →
        ∃ t, exec i s = .next t ∧ t.cpu.x = c.x ∧
          ∃ v : Activation, (t.tenantOf c.tenant).pending = (s.tenantOf c.tenant).pending ++ [v] ∧ v.tenant = c.tenant ∧ v.node = x ∧
            v.gbase = g.1 ∧ v.gcount = g.2 ∧ v.staged = by_ ∧ v.readyAt ≤ s.time + 192 ∧
            t.cpu.rel = c.rel + 1 ∧ c.rel + 1 ≤ knownOf v.known s.cur) ∧
      (x < 2 ^ 32 → s.hub.accepting = false → ∃ t, exec i s = .next t ∧ t.cpu.x = c.x ∧ t.cpu.rel = c.rel + 1 ∧ t.tenants = s.tenants)
    go (.launch a) none ∧ go (.launchs a) (some c.kernid.toNat)


/-! ### The engines -/

/-- R22, R26, R39, R62, R83: a vector, permutation or matrix instruction enters its engine's queue with what it captures at issue; majors
0x00–0x06 and VPERM take the next position of the operand ring; LD and MX commands count in their window. With FMT = 0 a literal beside a
view whose format forbids it is an illegal instruction.
Where the spec leaves it to the model, the reading is that of log entry 27. -/
def Obligations.EngineIssue : Prop :=
  ∀ (s : State) (v : VWord) (m : MWord),
    let c := s.cpu
    let entry (i : Instr) : QEntry :=
      { instr := i, addr := c.chain.c0, seq := c.seqNo, issuedAt := c.sclk, window := c.window.number,
        cap := { vw := c.vw, shp := c.shp, ft := c.ft[Fin.ofNat 16 (c.ftlvl.toNat / 16)], mode := c.mode,
                 x := Vector.ofFn fun n => c.readX n, streams := [], ringPos := c.ringPush } }
    (∀ f ∈ ringInstrs, s.Allowed (f v) →
      (literalFault (f v) v s = none → s.GoesOn (f v)
        { c with queues := c.queues.set 2 (c.queues[2] ++ [entry (f v)]), ringPush := c.ringPush + 1 }) ∧
      (literalFault (f v) v s ≠ none → exec (f v) s = .next (s.preciseTrap .illegalInstruction c.chain.c0))) ∧
    (∀ f ∈ permInstrs, s.Allowed (f v) → s.GoesOn (f v) { c with queues := c.queues.set 2 (c.queues[2] ++ [entry (f v)]) }) ∧
    (∀ f ∈ matrixInstrs, s.Allowed (f m) → s.GoesOn (f m)
      { c with queues := c.queues.set 1 (c.queues[1] ++ [entry (f m)]), window := { c.window with count := c.window.count + 1 } })

/-- R28, R39, R216, R224, R234: a load, store or copy command enters its engine's queue with the bindings of the handles it names, whose
cursors advance at issue: by one tile step, by none for TPREF, by its literal for SADV. An unbound handle is the stream-unbound fault with
the handle's number, and WSTORE on a core an illegal instruction. -/
def Obligations.TransferIssue : Prop :=
  ∀ (s : State) (v : VWord),
    let c := s.cpu
    let go (f : VWord → Instr) (e : Fin 5) (k : Core) : Prop :=
      let hs := c.handles (f v)
      let steps : Nat := if f v = .tpref v then 0 else if f v = .sadv v then (match v.s2 with | .lit n => n.toNat | _ => 0) else 1
      s.Allowed (f v) →
      (∀ h : Reg, hs.find? (fun h => (c.streams[h]).isNone) = some h →
        exec (f v) s = .next (s.preciseTrap .streamUnbound (BitVec.ofNat 64 h.val))) ∧
      ((∀ h ∈ hs, (c.streams[h]).isSome = true) → ∃ (q : QEntry) (ss : Vector (Option StreamBinding) 32),
        s.GoesOn (f v) { k with queues := c.queues.set e (c.queues[e] ++ [q]), streams := ss } ∧ q.instr = f v ∧ q.issuedAt = c.sclk ∧
        q.cap.vw = c.vw ∧ q.cap.shp = c.shp ∧ q.cap.mode = c.mode ∧ (∀ n : Reg, q.cap.x[n] = c.readX n) ∧
        (∀ p ∈ q.cap.streams, p.handle ∈ hs ∧ c.streams[p.handle] = some p.bind) ∧
        ∀ h : Reg, ss[h] = if h ∈ hs then (c.streams[h]).map (·.advance steps) else c.streams[h])
    (∀ f ∈ loadInstrs, go f 0 { c with window := { c.window with count := c.window.count + 1 } }) ∧
    (∀ f ∈ storeInstrs, go f 3 c) ∧
    (∀ f ∈ copyInstrs, go f 4 { c with seg := { c.seg with clean := false } }) ∧
    (s.Allowed (.wstore v) → exec (.wstore v) s = .next (s.preciseTrap .illegalInstruction c.chain.c0))

/-- R28, R225: SBIND of a view row that holds a valid record binds its handle to it for what issues afterwards, at the record's own cursor; an
invalid record is an access fault with its Plate offset, and the handle is unchanged.
Where the spec leaves it to the model, the reading is that of log entry 38. -/
def Obligations.StreamBinds : Prop :=
  ∀ (s : State) (v : VWord) (n w : Reg) (row : Fin 32) (st cb : Fin 4),
    let c := s.cpu
    let u : ViewUse := { pos := 1, vw := w, row := row.val, step := stepOf st, off := 128 * cb.val, rows := 1, bytes := 64 }
    let at_ := viewRowAt c.vw[w] row.val + 128 * cb.val
    let record : BitVec 512 := BitVec.ofNat 512 (bytesNat (Memory.readBytes c.plate at_ 64))
    v.d = .reg n → v.s1 = .view w row st cb → s.Allowed (.sbind v) → usesFault (fun r : Reg => c.vw[r]) [u] = none → c.marks = [] →
    (streamValid record = false → exec (.sbind v) s = .next (s.preciseTrap .accessFault (BitVec.ofNat 64 at_))) ∧
    (streamValid record = true → ∃ t, exec (.sbind v) s = .next t ∧
      t.cpu.streams = c.streams.set n (some { record, cursor := BitVec.ofNat 64 (record.toNat / 2 ^ 384) }) ∧
      t.cpu.queues[0].length = c.queues[0].length + 1 ∧ t.cpu.x = c.x ∧ t.cpu.plate = c.plate)

/-- R24, R25, R39, R99, R123, R357, R360: the head of LD, MX, VX or ST that is ready leaves its queue, pops the tokens it waits for and occupies
its engine; one that faults writes nothing and leaves its cause for the next boundary; a tile step that reads marked data freezes the core
for a replay and stays; any other (whatever it loads, stores, touches or refreshes) lands, with its token posts, its latency later, its
effects those of its dispatch with its touches of guard granules. The head of CP becomes a command in progress, and one that faults leaves its
cause and reports in the next die cycle (R229, R234). Each pops its tokens, a faulting one too, and no register and no byte of the Plate changes
yet; where a copy leaves only its earlier accesses may be performed first (R294). The queue's readiness and the freeze for a replay rest on log entries
30 and 33. -/
def Obligations.EngineDispatch : Prop :=
  ∀ (s : State) (e : Engine) (q : QEntry) (d : Dispatch) (fn : Nat) (v : VWord) (p : CopyPlan),
    let c := s.cpu
    let k := engIx e
    let popped (t : State) : Prop := t.cpu.queues = c.queues.set k c.queues[k].tail ∧
      ∀ j : Fin 10, t.cpu.tokens[j] = if j ∈ waitsOf e (tokensOf q.instr) then c.tokens[j] - 1 else c.tokens[j]
    let still (t : State) : Prop := t.cpu.x = c.x ∧ t.cpu.masks = c.masks ∧ t.cpu.acc = c.acc ∧ t.cpu.chain = c.chain ∧ t.cpu.sclk = c.sclk
    let leaves (t : State) : Prop := popped t ∧ still t ∧ t.cpu.plate = c.plate ∧
      t.cpu.engFree = c.engFree.set k (c.sclk + max 1 d.occ)
    let lands (l : Landing) : Prop := l.due = c.sclk + d.lat ∧ l.seq = q.seq ∧ l.addr = q.addr ∧ l.eng = some e ∧
      l.postL = (tokensOf q.instr).postL ∧ l.postR = (tokensOf q.instr).postR
    s.event = .engineDispatch e → s.headReady e = .go → c.headOf e = some q →
    (e = .cp → copyFn q.instr = some (fn, v) → copyPlanOf q.instr (s.env q) s = some p →
      let fault := p.fault.or ((c.overlap .cp p.reads p.holds).map fun o => ((.overlapRace, BitVec.ofNat 64 o) : Cause × Word))
      ∃ t, exec .engineDispatch s = .next t ∧ popped t ∧ still t ∧ ((∀ g ∈ c.globals, g.done = true) → t.cpu.plate = c.plate) ∧
        t.cpu.nextCopy = c.nextCopy + 1 ∧
        (∃ m ∈ t.cpu.copies, m.id = c.nextCopy ∧ m.addr = q.addr ∧ m.fn = fn ∧ m.seq = q.seq ∧ m.started = s.now s.cur) ∧
        ∀ f, fault = some f → s.Sends t (.copyDispatchFaultRecord s.cur c.nextCopy) 1 ∧
          ∃ u ∈ t.cpu.traps, u.cause = f.1 ∧ u.badaddr = f.2 ∧ u.eng = some .cp ∧ u.addr = q.addr ∧ u.precise = false) ∧
    (e ≠ .cp → s.transferMiss q = none → s.indexAbsent q = false → dispatchOf q.instr (s.env q) s = some d →
    (∀ f, s.dispatchFault e q d = some f → ∃ t, exec .engineDispatch s = .next t ∧ leaves t ∧
      (∃ p, t.cpu.traps = c.traps ++ [p] ∧ p.cause = f.1 ∧ p.badaddr = f.2 ∧ p.eng = some e ∧ p.addr = q.addr ∧ p.precise = false) ∧
      ∃ l, t.cpu.landings = c.landings ++ [l] ∧ lands l ∧ ∀ f ∈ l.effs, ∃ pos data marks, f = .ring pos data marks) ∧
    (s.dispatchFault e q d = none → c.triggers q (s.env q) = true → ∃ t n, exec .engineDispatch s = .next t ∧
      t.cpu = { c with freeze := some .replay } ∧ s.Sends t (.replayRereadDone s.cur) (1 + n)) ∧
    (s.dispatchFault e q d = none → c.triggers q (s.env q) = false → d.store = [] → d.atOnce = true → d.refresh = none → d.ahead = [] →
      d.touched = [] → d.mapped = false → (∀ f ∈ d.effs, f.runs = []) →
      ∃ t, exec .engineDispatch s = .next t ∧ leaves t ∧ t.cpu.traps = c.traps ∧
        ∃ l, t.cpu.landings = c.landings ++ [l] ∧ lands l ∧ l.effs = d.effs ++ c.touchEffs (readOffsets s.cur q d)) ∧
    (s.dispatchFault e q d = none → c.triggers q (s.env q) = false →
      ∃ t, exec .engineDispatch s = .next t ∧ leaves t ∧ ∃ l ∈ t.cpu.landings, lands l))

/-- R16, R24, R25, R39, R41, R259: the first due result in program order lands: a register, mask, permutation or ring entry takes its value and
VSTAT its flags, an accumulator unless a later instruction has written it, and Plate bytes outside guard granules are written, the later of
two to one byte standing; X0 and M0 discard theirs; the token posts follow, and the landing is gone. A landing of whatever effects is gone
once it has landed, and one whose access is late, whose reply is missing or which is to be read again freezes its core and stays. -/
def Obligations.Landings : Prop :=
  ∀ (s : State) (l : Landing),
    let c := s.cpu
    let gone (t : State) : Prop := t.cpu.chain = c.chain ∧ t.cpu.sclk = c.sclk ∧ t.cpu.queues = c.queues ∧ t.cur = s.cur ∧
      t.cpu.landings.map (·.seq) = (c.landings.erase l).map (·.seq) ∧ (l.eng ≠ some .st → t.cpu.landings = c.landings.erase l)
    let posted (t : State) : Prop := ∀ e : Engine, l.eng = some e → ∀ j : Fin 10,
      t.cpu.tokens[j] = if (l.postL = true ∧ j = tokenOut e false ∨ l.postR = true ∧ j = tokenOut e true) ∧ c.tokens[j].toNat < 15
        then c.tokens[j] + 1 else c.tokens[j]
    (c.sOpen = true → nextDue c.sclk c.landings = some l → c.stalls l = false → ∃ t, exec .resultLanding s = .next t ∧ gone t) ∧
    (nextDue c.sclk (if c.sOpen then c.landings else c.landings.filter c.stalls) = some l → c.stalls l = true →
      ∃ t f, exec .resultLanding s = .next t ∧ t.cpu.freeze = some f ∧ t.cpu.landings = c.landings ∧ t.cpu.x = c.x ∧ t.cpu.plate = c.plate ∧
        (c.accessOut l.effs = true → f = .late) ∧
        (∀ rid, c.accessOut l.effs = false → c.replyMissing l.effs = some rid → f = .reply rid) ∧
        (c.accessOut l.effs = false → c.replyMissing l.effs = none → f = .replay)) ∧
    (c.sOpen = true → nextDue c.sclk c.landings = some l →
      let lands (e : List Eff) (p : State → Prop) : Prop := l.effs = e →
        ∃ t, exec .resultLanding s = .next t ∧ gone t ∧ posted t ∧ t.hbm = s.hbm ∧ p t
      let bytes (cells : List (Nat × Byte)) (t : State) : Prop := c.plate.wf = true →
        t.cpu.x = c.x ∧ t.cpu.acc = c.acc ∧ t.cpu.masks = c.masks ∧
        ∀ a, t.cpu.plate.read a = if a / 256 ∈ c.guards then c.plate.read a else (lastIn cells a).getD (c.plate.read a)
      (∀ r v, lands [.x r v] fun t => t.cpu.x = (if r = 0 then c.x else c.x.set r v) ∧ t.cpu.plate = c.plate) ∧
      (∀ (k : Fin 8) v, lands [.mask k v] fun t =>
        t.cpu.x = c.x ∧ t.cpu.masks = (if k = 0 then c.masks else c.masks.set k v) ∧ t.cpu.plate = c.plate) ∧
      (∀ (k : Fin 16) v, lands [.perm k v] fun t => t.cpu.x = c.x ∧ t.cpu.perms = c.perms.set k v ∧ t.cpu.plate = c.plate) ∧
      (∀ (k : Fin 4) n v, lands [.acc k n v] fun t => t.cpu.x = c.x ∧ t.cpu.plate = c.plate ∧
        t.cpu.acc = (if c.accSeq[k] ≤ n then c.acc.set k v else c.acc) ∧ t.cpu.accSeq = (if c.accSeq[k] ≤ n then c.accSeq.set k n else c.accSeq)) ∧
      (∀ f, lands [.vstat f] fun t => t.cpu.vstat = c.vstat ||| f ∧ t.cpu.x = c.x ∧ t.cpu.plate = c.plate) ∧
      (∀ n data marks, c.ring[Fin.ofNat 8 n].tag ≤ n →
        lands [.ring n data marks] fun t => t.cpu.ring = c.ring.set (Fin.ofNat 8 n) ⟨n + 1, data, marks⟩ ∧ t.cpu.plate = c.plate) ∧
      (∀ cells marked, lands [.plate cells marked] (bytes cells)) ∧
      (∀ rs, (∀ r ∈ rs, r.again = false) → lands [.fills rs] (bytes (runCells rs).1)))

/-! ### Results of the engines -/

/-- R132, R135: the integer results of major 0x00, at the width of the element format: exact, then wrapped, or clamped under SAT. VMULH is
the high half, and the shifts take their amount modulo the width; that VSRA fills a UINT8 element with its bit 7 is the model's choice (log
entry 64). -/
def Obligations.IntegerElements : Prop :=
  ∀ (x : Ctx) (p : Nat) (a b d : Elem),
    x.fmt.isInt = true → a.bits < 2 ^ x.fmt.bits → b.bits < 2 ^ x.fmt.bits →
    let n := x.fmt.bits
    let val (e : Elem) : Int := if x.fmt.unsigned then (e.bits % 2 ^ n : Nat) else signedOf n (e.bits % 2 ^ n)
    let lo : Int := if x.fmt.unsigned then 0 else -2 ^ (n - 1)
    let hi : Int := if x.fmt.unsigned then 2 ^ n - 1 else 2 ^ (n - 1) - 1
    let out (r : Int) : Nat := ((if x.sat then max lo (min hi r) else r) % 2 ^ n).toNat
    let A := val a
    let B := val b
    let D := val d
    (opAdd x p a b d).1.bits = out (A + B) ∧ (opSub x p a b d).1.bits = out (A - B) ∧ (opMul x p a b d).1.bits = out (A * B) ∧
    (opFma x p a b d).1.bits = out (A * B + D) ∧ (opFms x p a b d).1.bits = out (A * B - D) ∧
    (opFnma x p a b d).1.bits = out (-(A * B) + D) ∧ (opMin x p a b d).1.bits = out (min A B) ∧
    (opMax x p a b d).1.bits = out (max A B) ∧ (opAbs x p a b d).1.bits = out (if A < 0 then -A else A) ∧
    (opNeg x p a b d).1.bits = out (0 - A) ∧
    (opAddsub x p a b d).1.bits = out (if 0 < B then D + A else if B < 0 then D - A else D) ∧
    (opAvg x p a b d).1.bits = out ((A + B + 1) / 2) ∧
    (opClamp x p a b d).1.bits = out (min (max A (if x.fmt.unsigned then 0 else min (-B) hi)) B) ∧
    (opAbsd x p a b d).1.bits = out (if A < B then B - A else A - B) ∧
    (opMulh x p a b d).1.bits = (A * B / 2 ^ n % 2 ^ n).toNat ∧
    (opShl x p a b d).1.bits = a.bits * 2 ^ (b.bits % n) % 2 ^ n ∧ (opShr x p a b d).1.bits = a.bits / 2 ^ (b.bits % n) ∧
    (opSra x p a b d).1.bits = (signedOf n a.bits / ((2 ^ (b.bits % n) : Nat) : Int) % 2 ^ n).toNat ∧
    (opNot x p a b d).1.bits = 2 ^ n - 1 - a.bits ∧
    (x.sat = true → ((opAdd x p a b d).2 = flagST ↔ A + B < lo ∨ hi < A + B))

/-- R73, R129, R131–R135, R169, R171–R173, R177: what the instructions of major 0x00 dispatch to: the rule of R131 with their operation over the
elements that the format and the shape give, their latency, occupancy and fault; that format and that geometry; their results from finite
float operands, rounded once, and from NaNs; what the conversions of major 0x06 dispatch to, each with its operation; and the latency and
occupancy of majors 0x01–0x05, whatever the data, the mask and the mode. What an element that merges finds in the operand ring is log entry 12. -/
def Obligations.VectorInstructions : Prop :=
  ∀ (s : State) (x : Env) (v : VWord) (d : Dispatch) (y : Ctx) (n : Nat) (a c o : Elem),
    let b := x.q.blocks
    let takes (i : Instr) (lat occ : Nat) : Prop := dispatchOf i x s = some d → d.lat = lat ∧ d.occ = occ
    let on (op : Nat → Elem → Elem → Elem → Res1) (p : Nat) (a c o : Elem) : Res1 :=
      if v.pm = 0 ∨ (x.c.maskOf v.pm).getLsbD p = true then op p a c o else if v.bit21 then (Elem.zero, 0) else (o, 0)
    let gives (p : VPlan) (r : List (List Res1)) : Prop := d.fault = p.fault ∧
      (p.fault = none → d.effs = x.results v.d p.dst ((allElems r).toBytes p.fmt.bits) (allFlags r) ∧ d.reads = p.reads ∧
        d.writes = usesRanges x.q p.dst)
    let is (i : Instr) (sp : VSpec) (two : Bool) (op : ElemOp) (lat : Nat) : Prop :=
      dispatchOf i x s = some d →
      let p := sp.plan two v x.q
      let s2 := if two then x.c.sourceTile x.q p.fmt v.s2 p.rows p.e else constTile p.rows p.e Elem.zero
      d.lat = lat + b ∧ d.occ = b ∧
      gives p (mapTile (on (op (x.ctx p.fmt v.mod))) p.e 0 (x.c.sourceTile x.q p.fmt (.op v.s1) p.rows p.e) s2
        (x.oldTile v p.fmt p.rows p.e (sp.readsD || (v.pm ≠ 0 && !v.bit21)))) ∧
      (p.fault = none → p.rows = x.q.rows ∧ p.e * p.fmt.size = x.q.rb ∧ (v.fmt ≠ 0 → p.fmt.code = v.fmt.toNat) ∧
        p.dst = (useOf 0 v.d x.q.rows x.q.rb).toList ∧ usesFault x.q.view (p.reads ++ p.dst) = none)
    let converts (i : Instr) (sp : CSpec) (lat occ : Nat) (op : CPlan → ConvOp) (scales : CPlan → Tile) : Prop :=
      dispatchOf i x s = some d →
      let p := sp.plan v x.q
      d.lat = lat ∧ d.occ = occ ∧
      gives p.base (mapTile (on fun k a c _ => mark2 a c (op p (x.ctx p.base.fmt v.mod) p.g k a c)) p.base.e 0
        (x.convSource v p) (scales p) (x.oldTile v p.base.fmt p.base.rows p.base.e (v.pm ≠ 0 && !v.bit21)))
    let one (r : Res1) (e : Exact) : Prop := r.1.bits = (y.put n (e, 0)).1 ∧ r.2 = (y.put n (e, 0)).2
    let A := y.val a
    let C := y.val c
    let D := y.val o
    let finite (m : Sys2Proof.Machine.Num) : Prop := ∃ sg k e, m = .fin sg k e
    let sum (ts : List Sys2Proof.Machine.Num) : Exact :=
      let q := leastExp ts
      let t : Int := ts.foldl (fun a m => a + m.at_ q) 0
      if t = 0 then .ratio (ts.all Sys2Proof.Machine.Num.isNeg || (y.mode = .rdn && ts.any Sys2Proof.Machine.Num.isNeg)) 0 1 0 else .ratio (t < 0) t.natAbs 1 q
    (is (.vadd v) specN true opAdd 4 ∧ is (.vsub v) specN true opSub 4 ∧ is (.vmul v) specMul true opMul 6 ∧
    is (.vfma v) specFma true opFma 6 ∧ is (.vfms v) specFma true opFms 6 ∧ is (.vfnma v) specFma true opFnma 6 ∧
    is (.vmin v) specN true opMin 4 ∧ is (.vmax v) specN true opMax 4 ∧ is (.vabs v) specN false opAbs 4 ∧
    is (.vneg v) specN false opNeg 4 ∧ is (.vaddsub v) specFma true opAddsub 6 ∧ is (.vavg v) specAvg true opAvg 6 ∧
    is (.vmulh v) specMulh true opMulh 6 ∧ is (.vshl v) specShift true opShl 4 ∧ is (.vshr v) specShift true opShr 4 ∧
    is (.vsra v) specShift true opSra 4 ∧ is (.vand v) specBits true opAnd 4 ∧ is (.vor v) specBits true opOr 4 ∧
    is (.vxor v) specBits true opXor 4 ∧ is (.vnot v) specBits false opNot 4 ∧ is (.vmov v) specBits false opMov 4 ∧
    is (.vclamp v) specN true opClamp 4 ∧ is (.vabsd v) specN true opAbsd 4) ∧
    (y.fmt.isInt = false → y.fmt.float.isSome = true →
      (finite A → finite C →
        one (opAdd y n a c o) (sum [A, C]) ∧ one (opSub y n a c o) (sum [A, C.neg]) ∧ one (opMul y n a c o) (A.mul C).exact ∧
        one (opMin y n a c o) (if C.cmpSigned A = .lt then C else A).exact ∧
        one (opMax y n a c o) (if A.cmpSigned C = .lt then C else A).exact ∧
        (finite D → one (opFma y n a c o) (sum [A.mul C, D]) ∧ one (opFms y n a c o) (sum [A.mul C, D.neg]) ∧
          one (opFnma y n a c o) (sum [(A.mul C).neg, D]))) ∧
      (A.isNaN = true ∨ C.isNaN = true → ∀ op ∈ [opAdd, opSub, opMul, opMin, opMax],
        (op y n a c o).1.bits = (y.put n (.nan, 0)).1 ∧
        (A = .nan true ∨ C = .nan true → (op y n a c o).2 = (op y n a c o).2 ||| flagNV))) ∧
    (converts (.vcvt v) specCvt (6 + b) b (fun _ => opCvt) (x.convSource v) ∧
    converts (.vrqnt v) specRqnt (16 + 2 * b) (2 * b) (fun _ => opRqnt) (x.scaleTile v) ∧
    converts (.vmxdq v) specMxdq (8 + b) b (fun _ => opMxdq) (fun p =>
      let u := scaleUse v v.s1 p.base.rows (p.base.e / 32 * p.g.scaleBytes)
      (x.c.useBytes (x.q.view u.vw) u).map (mxScales p.g p.base.e)) ∧
    converts (.vunpk4 v) specUnpk4 (6 + b) b (fun _ => opUnpk4) (x.convSource v) ∧
    converts (.vpack4 v) specPack4 (6 + b) b (fun _ => opPack4) (x.convSource v) ∧
    converts (.vsat v) specSat (6 + b) b opSat (x.convSource v) ∧ converts (.vrnd v) specRnd (6 + b) b (fun _ => opRnd) (x.convSource v) ∧
    takes (.vmxq v) (12 + 2 * b) (2 * b) ∧ takes (.vunpk3 v) (6 + 2 * b) (2 * b) ∧
    (dispatchOf (.vpack3 v) x s = some d →
      let p := specPack3.plan v x.q
      d.lat = 8 + b ∧ d.occ = b ∧ gives p.base ((x.convSource v p).map fun row => (chunks (p.base.e / 5) 5 row).map (packT5 p.g))) ∧
    (y.fmt.isInt = true → ∀ g : Fmt, g.isInt = true →
      opCvt y g n a c = y.fmt.putInt y.sat (intValue g.unsigned g.bits a.bits))) ∧
    (∀ f ∈ ([.vcmpeq, .vcmpne, .vcmplt, .vcmple, .vcmpgt, .vcmpge, .vclass, .vsel, .vbcast, .viota] : List (VWord → Instr)),
      takes (f v) (4 + b) b) ∧
    (∀ f ∈ ([.vrcp, .vrsqrt, .vsqrt, .vexp2, .vlog2, .vexp, .vtanh, .vsigm, .vsilu, .vgelu, .vsin, .vcos] : List (VWord → Instr)),
      takes (f v) (14 + 2 * b) (2 * b)) ∧
    takes (.vdiv v) (20 + 2 * b) (2 * b) ∧
    (∀ f ∈ ([.vrsum, .vrmax, .vrmin, .vramax, .vcsum, .vcmax, .vcompr, .vexpnd] : List (VWord → Instr)), takes (f v) (8 + b) b) ∧
    takes (.vscan v) (10 + b) b ∧ takes (.vdot v) (10 + b) b ∧ takes (.vtopk v) (24 + 4 * b) (4 * b) ∧
    takes (.vsortr v) (32 + 4 * b) (4 * b) ∧ takes (.vmrgk v) (16 + 2 * b) (2 * b) ∧ takes (.vtrans v) (8 + 2 * b) (2 * b) ∧
    takes (.vgathr v) (10 + 2 * b) (2 * b) ∧ takes (.vscatr v) (10 + 2 * b) (2 * b)

/-- R136: the six compares of integers, and the mask that a compare makes of its results: bit p for element p, and no bit beyond them. -/
def Obligations.IntegerCompares : Prop :=
  (∀ (x : Ctx) (a b : Elem), x.fmt.isInt = true →
    let A := x.int a
    let B := x.int b
    ((relEq x a b).1 = true ↔ A = B) ∧ ((relNe x a b).1 = true ↔ A ≠ B) ∧ ((relLt x a b).1 = true ↔ A < B) ∧
    ((relLe x a b).1 = true ↔ A ≤ B) ∧ ((relGt x a b).1 = true ↔ B < A) ∧ ((relGe x a b).1 = true ↔ B ≤ A)) ∧
  ∀ (es : List Elem) (p : Nat), (BitVec.ofNat 4096 (maskFrom 0 es)).getLsbD p = (p < 4096 && (es.map fun e => decide (e.bits ≠ 0)).getD p false)

/-- R204–R208: PIDN gives the identity, PCOMP the composition and PINV the inverse, each with its own N; two permutations of different N
cannot be composed. -/
def Obligations.Permutations : Prop :=
  ∀ (s : State) (x : Env) (v : VWord) (i j : Fin 16),
    let a := x.c.perms[i]
    let b := x.c.perms[j]
    (∀ d, dispatchOf (.pidn v) x s = some d → v.fmt = 0 → ∃ p, d.effs = [.perm (permOf v.d) p] ∧ d.lat = 6 ∧ p.n = permCount v ∧
      p.idx = List.range (permCount v)) ∧
    (∀ d, dispatchOf (.pcomp v) x s = some d → v.fmt = 0 → v.s1 = .special i → v.s2 = .op (.special j) →
      (a.n ≠ b.n → d.fault = some (.permInvalid, BitVec.ofNat 64 b.n) ∧ d.effs = []) ∧
      (a.n = b.n → ∃ p, d.effs = [.perm (permOf v.d) p] ∧ p.n = a.idx.length ∧ ∀ k < p.n, p.at_ k = b.at_ (a.at_ k))) ∧
    (∀ d, dispatchOf (.pinv v) x s = some d → v.fmt = 0 → v.s1 = .special i → a.idx.Nodup → (∀ k ∈ a.idx, k < a.idx.length) →
      ∃ p, d.effs = [.perm (permOf v.d) p] ∧ p.n = a.idx.length ∧ ∀ k < p.n, p.at_ (a.at_ k) = k)

/-- R184–R186, R189, R192, R195–R198: the matrix instructions at dispatch, their latency and occupancy. A tile step adds to every element of
the accumulators it names, or to +0 under ZA, the products of each K step, rounded once; INT32 sums wrap, or clamp under SAT. MDRAIN rounds
what has landed, times its scale, into the rows it names, MDRAINMX into blocks with their scales; MLDAC takes an accumulator bit for bit, WBLD fills slots, and MCLR puts zero,
with the tag FP32, into the accumulators it names, two S-cycles after its dispatch. Each turns away formats and views that may not stand there. -/
def Obligations.AccumulatorClear : Prop :=
  ∀ (s : State) (x : Env) (m : MWord) (d : Dispatch),
    let q := x.q
    let reps := m.mrepM1.val + 1
    let steps := m.kstepM1.val + 1
    let acc (j : Nat) : Fin 4 := Fin.ofNat 4 (m.acc.val + j)
    let fails (f : Cause × Word) : Prop := d.fault = some f ∧ d.effs = []
    let bytes (u : ViewUse) : Tile := x.c.useBytes (q.view u.vw) u
    let flagged (f : VFlags) (l : List Eff) : Prop := d.fault = none ∧ d.effs = l ++ if f = 0 then [] else [.vstat f]
    let tile (i : Instr) (k : TileKind) : Prop :=
      dispatchOf i x s = some d →
      d.lat = steps * reps + 10 ∧ d.occ = steps * reps ∧
      (tileFormats k m x = none → fails q.formatFault) ∧
      ∀ a b isInt, tileFormats k m x = some (a, b, isInt) →
        let us := aUse k m a b :: aScaleUse k m a b
        (∀ f, usesFault q.view us = some f → fails f) ∧
        (usesFault q.view us = none →
          let ws := (slotsRead k m a b).map fun (w : Fin 64) => x.c.wslots[w]
          let cols := (List.range 32).map fun c => stepTerms (kElems k a b) steps 0 (bColumn ws b (k = .mmas) c)
          let rs := (List.range reps).map fun j => tileAccum isInt (satOf (mMod m q)) (((aRows k m a b x).drop (32 * j)).take 32) cols
            (if m.za then Accum.zero else x.c.chainAcc[acc j])
          d.reads = us ∧ d.writes = (List.range reps).map (fun j => .acc (acc j)) ∧
          flagged (rs.foldl (fun f r => f ||| r.2) 0) (rs.zipIdx.map fun r => .acc (acc r.2) q.seq r.1.1))
    (tile (.mma m) .mma ∧ tile (.mmas m) .mmas ∧ tile (.mmat m) .mmat ∧
    ∀ (sat : Bool) (row : List Int) (ts : List (Nat × Int)) (c : BitVec 32),
      let sum : Int := ts.foldl (fun a t => a + row.getD t.1 0 * t.2) c.toInt
      (tileElem true sat (row.map Sys2Proof.Machine.Num.ofInt).toArray [ts.map fun t => (t.1, Sys2Proof.Machine.Num.ofInt t.2)] (c.toNat, 0)).1 =
        ((if sat then max (-2 ^ 31) (min (2 ^ 31 - 1) sum) else sum) % 2 ^ 32).toNat) ∧
    (dispatchOf (.mdrain m) x s = some d → d.lat = 28 ∧ d.occ = 2 * reps ∧
      let n := mDrainFmt m q
      let bad : Prop := (mSfmt m q ≠ 0 ∧ mSfmt m q ≠ 8) ∨ (m.scale = 0 ∧ viewFmt (q.view m.qview) ≠ 0 ∧ viewFmt (q.view m.qview) ≠ 8)
      (setR n = false ∨ bad → fails q.formatFault) ∧
      ∀ f, setR n = true → fmtOf n = some f → ¬ bad →
        let u := drainUse m (4 * f.bits)
        let scale : ViewUse := { pos := 3, vw := m.qview, row := 0, step := 1, off := 0, rows := 1, bytes := 128 }
        let us := if m.scale = 0 then [scale] else []
        (∀ e, usesFault q.view (u :: us) = some e → fails e) ∧
        (usesFault q.view (u :: us) = none →
          let scales := if m.scale = 0 then ((bytes scale).map (elemsOf 32)).headD [] else List.replicate 32 ⟨m.scale.toNat, false⟩
          let rs := drainRound (drainCtx m x f) scales 0 (drainRows m x)
          flagged (allFlags rs) [writeUse (q.view u.vw) u ((allElems rs).toBytes f.bits)])) ∧
    (dispatchOf (.mdrainmx m) x s = some d → d.lat = 36 ∧ d.occ = 4 * reps ∧
      let n := mDrainMxFmt m q
      let bad : Prop := mSfmt m q ≠ 0 ∧ mSfmt m q ≠ 14
      (setMx n = false ∨ bad → fails q.formatFault) ∧
      ∀ f, setMx n = true → fmtOf n = some f → ¬ bad →
        let u := drainUse m (4 * f.bits)
        let w : ViewUse := { drainUse m f.scaleBytes with pos := 3, vw := m.qview }
        (∀ e, usesFault q.view [u, w] = some e → fails e) ∧
        (usesFault q.view [u, w] = none →
          let rs := drainBlocks (drainCtx m x f) 0 (drainRows m x)
          flagged (rs.foldl (fun a r => a ||| r.2.2) 0)
            [writeUse (q.view u.vw) u (Tile.toBytes f.bits (rs.map (·.2.1))), writeUse (q.view w.vw) w (rs.map (·.1))])) ∧
    (dispatchOf (.mldac m) x s = some d → d.lat = 20 ∧ d.occ = 2 * reps ∧
      let f := orElseFmt m.cfmt.toNat (viewFmt (q.view m.dview))
      let u := drainUse m 128
      (f ≠ 4 ∧ f ≠ 8 → fails q.formatFault) ∧
      (f = 4 ∨ f = 8 → (∀ e, usesFault q.view [u] = some e → fails e) ∧
        (usesFault q.view [u] = none → flagged 0 ((List.range reps).map fun j =>
          .acc (acc j) q.seq (accumOf (f = 4) ((((bytes u).map (elemsOf 32)).drop (32 * j)).take 32)))))) ∧
    (dispatchOf (.wbld m) x s = some d → d.lat = 7 + steps ∧ d.occ = steps ∧
      let n := orElseFmt m.bfmt.toNat (viewFmt (q.view m.aview))
      (slotFmt n = none → fails q.formatFault) ∧
      ∀ f, slotFmt n = some f →
        let r := slotRow f false
        let u : ViewUse := { pos := 1, vw := m.aview, row := m.arow.toNat, step := 1, off := 0, rows := 32, bytes := steps * r }
        (∀ e, usesFault q.view [u] = some e → fails e) ∧
        (usesFault q.view [u] = none → flagged 0 ((List.range steps).map fun j =>
          .wslot (Fin.ofNat 64 (m.wslot.val + j)) (slotOf f false ((bytes u).map fun row => (row.drop (j * r)).take r))))) ∧
    (dispatchOf (.mclr m) x s = some d →
      d.lat = 2 ∧ d.occ = 1 ∧ d.fault = none ∧ d.writes = (List.range reps).map (fun j => .acc (acc j)) ∧
      ∀ (c : Core) (k : Fin 4), (∀ n : Fin 4, c.accSeq[n] ≤ q.seq) →
        (d.effs.foldl (fun c e => c.land e) c).acc[k] =
          if ∃ j, j ≤ m.mrepM1.val ∧ k = acc j then { bits := Vector.replicate 1024 0, isInt := false, marked := false } else c.acc[k])

/-- R193: WBINV clears the valid bits of slots s to s + n − 1 at dispatch + 2. -/
def Obligations.WeightInvalidate : Prop :=
  ∀ (s : State) (x : Env) (m : MWord) (d : Dispatch),
    dispatchOf (.wbinv m) x s = some d → m.wslot.val + m.kstepM1.val < 64 →
    firstParcel (.wbinv m) % 4 = 3 ∧ majorOf (.wbinv m) = 2 ∧ firstParcel (.wbinv m) / 256 % 16 = 1 ∧
    d.lat = 2 ∧ d.fault = none ∧
    ∀ (c : Core) (w : Fin 64),
      let k := d.effs.foldl (fun c e => c.land e) c
      k.wslots[w].valid = (c.wslots[w].valid && !(m.wslot.val ≤ w.val && w.val ≤ m.wslot.val + m.kstepM1.val)) ∧
      k.wslots[w].image = c.wslots[w].image ∧ k.wslots[w].fmt = c.wslots[w].fmt ∧ k.acc = c.acc ∧ k.plate = c.plate


/-! ### The part's steps -/

/-- R114, R115, R121, R122, R127, R250, R260: the steps that end what a sequencer waits for. One pending cause is taken, in the user handler
where it is delegated, else at the module OS, where every cause but TRAP stops the core. RTT resumes after the handler's accesses. MODESET's
bits take effect and the next instruction may issue four S-cycles later. QDRAIN ends with its S-cycle. HALT ends the iteration, or first
reports a touch.
Where the spec leaves it to the model, the reading is that of log entries 29 and 55. -/
def Obligations.SequencerSteps : Prop :=
  ∀ (s : State) (v : BitVec 3) (m : BitVec 5),
    let c := s.cpu
    let low (w : Word) : Nat := w.toNat % 2 ^ 48
    (∀ t ∈ c.nextTrap, ∃ u, s.Performs .handlerTrap .handlerTrap u ∧ u.cpu.x = c.x ∧ u.cpu.badaddr = t.badaddr ∧
      bitsOf u.cpu.cause 0 8 = t.cause.code ∧ u.cpu.xpc0.toNat = low c.chain.c0 ∧
      (c.toUser t.cause = true → u.cpu.traps = c.traps.erase t ∧ u.cpu.chain.c0 = c.utvec ∧ bitOf u.cpu.tstatus 1 = true) ∧
      (c.toUser t.cause = false → t.cause ≠ .trapInstr → u.cpu.activity = .stopped ∧ u.cpu.queues = Vector.replicate 5 [])) ∧
    (c.rttWait = true → s.handlerDone = true → ∃ u, s.Performs .rttResume .rttResume u ∧ u.cpu.rttWait = false ∧ u.cpu.tstatus = 0 ∧
      u.cpu.x = c.x ∧ u.cpu.tx = c.tx ∧ u.cpu.plate = c.plate ∧ u.cpu.chain.c0.toNat = c.xpc0.toNat / 4 * 4) ∧
    (c.draining = some (.modeset v) → c.drained = true → s.Turns .modesetComplete .modesetComplete s.cur
      { c with mode := c.mode >>> 3 <<< 3 ||| v.setWidth 64, draining := some (.modesetWait v (c.sclk + 4)) }) ∧
    (c.draining = some (.qdrain m) → (∀ e ∈ drainSet m, c.engineQuiet e = true) →
      ∃ u, s.Performs .qdrainComplete .qdrainComplete u ∧ u.cpu.draining = none ∧ u.cpu.sclk = c.sclk + 1 ∧ u.cpu.x = c.x ∧
        u.cpu.queues = c.queues ∧ u.cpu.chain = c.chain ∧ u.cpu.plate = c.plate ∧ u.agenda = s.agenda) ∧
    (c.draining = some .halt → c.haltReady = true → c.guardReport = none →
      ∃ u, s.Performs .haltComplete .haltComplete u ∧ u.cpu.activity = .idle ∧ u.cpu.evq = [] ∧ u.cpu.tokens = Vector.replicate 10 0 ∧
        u.cpu.seg.open_ = false ∧ u.cpu.lc = Vector.replicate 4 0 ∧ u.cpu.x = c.x ∧ u.cpu.plate = c.plate ∧ u.cpu.sems = c.sems ∧
        u.cpu.vstat = c.vstat ∧ u.cpu.guards = c.guards ∧ u.cpu.haltedAt = some (s.now s.cur) ∧
        u.cpu.posted = [] ∧ u.synced = s.synced ∧
        u.kernels = s.kernels.map (fun k => if k.kid = c.kernid.toNat then { k with done := k.done + 1 } else k) ∧
        s.Sends u (.iterationStart c.kernid.toNat) 0 ∧ s.Sends u (.kernelEnd c.kernid.toNat) 0 ∧ s.Sends u (.preemptSave c.kernid.toNat) 0) ∧
    (c.draining = some .halt → c.haltReady = true → c.guardReport ≠ none →
      ∃ u, s.Performs .haltComplete .haltComplete u ∧ bitsOf u.cpu.cause 0 8 = 0x10 ∧ u.cpu.badaddr.toNat = bitsOf c.guardst 6 22 ∧
        u.cpu.xpc0.toNat = low c.chain.c0 ∧ u.cpu.draining = none ∧ u.cpu.x = c.x)

/-- R41, R219, R239, R249, R251, R253, R258, R269, R271: the steps that end a freeze leave everything but the freeze, and what the access
itself brings. A walk reads one level at a time where it is among its die's first sixteen; its translation enters both TLBs; one that finds no
leaf, or one that forbids the access, passes to the module OS, which reports the access unmapped or installs a mapping and has the walk
repeat; a copy's page passes the same way. TLBINV waits for every access of the tenant sent before the last acknowledgement. A read of another core that has
waited 16 die cycles takes its bank, and one that the core is owed there comes a die cycle later.
Where the spec leaves it to the model, the reading is that of log entries 22 and 94. -/
def Obligations.FreezeEnds : Prop :=
  ∀ (s : State) (c : CoreId) (bank : Fin 64) (i a : Reg) (sc : Scope) (n since va : Nat) (r : Right)
    (y : CopyInFlight) (ptes : List (Nat × BitVec 64)),
    let k := s.core c
    let thaws (i : Instr) (e : Event) : Prop := s.Turns i e c { k with freeze := none }
    (k.freeze = some .late → thaws .lateAccessArrival (.lateAccessArrival c)) ∧
    (k.freeze = some .wait → s.fetch c k.chain.c0 = .instr (.semwait i sc a) n →
      k.sems[i].fault = true ∨ (k.readX a).toNat % 2 ^ 32 ≤ k.sems[i].value.toNat → thaws .semwaitSatisfied (.semwaitSatisfied c)) ∧
    (k.freeze = some .wait → k.evq ≠ [] → thaws .evqRecordArrival (.evqRecordArrival c)) ∧
    (k.freeze = some .fence → ∃ t, s.Performs .fenceAck (.fenceAck c) t ∧ (t.core c).freeze = none ∧ (t.core c).x = k.x ∧
      (∀ g ∈ (t.core c).globals, g.handler = k.trapMode → g.done = true) ∧
      (k.trapMode = false → bitOf k.guardst 28 = true → ∃ p ∈ (t.core c).traps, p.cause = .guardReport)) ∧
    (k.freeze = some (.tlbinv since) → (∀ m ∈ s.casts, m.inval.isSome = true → m.src ≠ c) →
      (∀ o, (s.core o).tenant = k.tenant → ∀ g ∈ (s.core o).globals, g.back = false ∨ g.done = true) →
      let mark := if since = 0 then s.nextPacket else since
      (s.accessesBefore k.tenant mark = false → thaws .tlbinvComplete (.tlbinvComplete c)) ∧
      (s.accessesBefore k.tenant mark = true → ∃ t, s.Performs .tlbinvComplete (.tlbinvComplete c) t ∧
        t.core c = { k with freeze := some (.tlbinv mark) } ∧ s.Sends t (.tlbinvComplete c) 1)) ∧
    (k.freeze = some (.translation va r) →
      let resolved := Event.tlbMissResolved c .core
      (s.walking c .core k.ctx va = true → ∃ t, s.Performs .tlbMissResolved resolved t ∧ t.core c = k ∧ (∃ e ∈ t.agenda, e.what = resolved) ∧
        ∀ w, s.walkOf c .core = some w → w.askers.head? = some (c, .core) → w ∈ ((s.die (dieOf c)).walks.filter fun x => !x.done).take 16 →
          s.walkStep w ∈ (t.die (dieOf c)).walks ∧ ((s.walkStep w).done = true ∨ (s.walkStep w).levels = w.levels.tail)) ∧
      (s.walking c .core k.ctx va = false →
        (∀ l, s.leafFor c .core k.ctx va r = some l → ∃ t, s.Performs .tlbMissResolved resolved t ∧ (t.core c).freeze = none ∧
          (t.core c).x = k.x ∧ (t.core c).tlb.head? = some { ctx := k.ctx, va := l.va, size := l.size, pte := l.pte } ∧
          (t.die (dieOf c)).tlb.head? = some { ctx := k.ctx, va := l.va, size := l.size, pte := l.pte }) ∧
        (s.leafFor c .core k.ctx va r = none → ∃ t, s.Performs .tlbMissResolved resolved t ∧ t.core c = k ∧
          ∃ e ∈ t.agenda, e.what = .pageFaultResolved c none .unmapped ∧ s.time < e.due)) ∧
      s.Turns .pageFaultResolved (.pageFaultResolved c none .unmapped) c { k with freeze := none, unmapped := va / 65536 :: k.unmapped } ∧
      ∃ t, s.Performs .pageFaultResolved (.pageFaultResolved c none (.installed ptes)) t ∧ (t.core c).freeze = some (.translation va r) ∧
        (t.core c).x = k.x ∧ ∃ e ∈ t.agenda, e.what = resolved) ∧
    (k.copies.find? (·.id = n) = some y → y.missing = some (va, r) →
      let ctx := Fin.ofNat 9 k.tenant.val
      let resolved := Event.tlbMissResolved c (.copy n)
      (s.walking c (.copy n) ctx va = false →
        (s.leafFor c (.copy n) ctx va r = none → ∃ t, s.Performs .tlbMissResolved resolved t ∧ t.core c = k ∧
          ∃ e ∈ t.agenda, e.what = .pageFaultResolved c (some n) .unmapped ∧ s.time < e.due) ∧
        (∀ l, s.leafFor c (.copy n) ctx va r = some l → ∃ t, s.Performs .tlbMissResolved resolved t ∧
          (t.core c).x = k.x ∧ (t.core c).freeze = k.freeze ∧
          (t.die (dieOf c)).tlb.head? = some { ctx, va := l.va, size := l.size, pte := l.pte })) ∧
      (s.walking c (.copy n) ctx va = true → ∃ t, s.Performs .tlbMissResolved resolved t ∧ t.core c = k ∧ ∃ e ∈ t.agenda, e.what = resolved) ∧
      ∃ t, s.Performs .pageFaultResolved (.pageFaultResolved c (some n) (.installed ptes)) t ∧ (t.core c).x = k.x ∧
        ∃ e ∈ t.agenda, e.what = resolved) ∧
    (k.freeze = some .replay → (∃ l ∈ k.landings, l.due ≤ k.sclk ∧ rereads l.effs = true) →
      ∃ t, s.Performs .replayRereadDone (.replayRereadDone c) t ∧ (t.core c).freeze = none ∧ (t.core c).x = k.x ∧
        (t.core c).landings.map (·.seq) = k.landings.map (·.seq) ∧ ∀ l ∈ (t.core c).landings, l.due ≤ k.sclk → rereads l.effs = false) ∧
    (k.freeze = some .replay → (∀ l ∈ k.landings, l.due ≤ k.sclk → rereads l.effs = false) →
      ∃ t, s.Performs .replayRereadDone (.replayRereadDone c) t ∧ (t.core c).freeze = none ∧ (t.core c).x = k.x ∧
        ((∀ q, k.headOf .ld = some q ∨ k.headOf .st = some q → q.indexed = none) → k.headOf .mx = none →
          t.core c = { k with freeze := none })) ∧
    (∀ w, k.reads4.find? (fun w => w.2.1 % 64 = bank.val && w.1 + 16 ≤ s.now c) = some w → k.bankBusy.contains bank.val = false →
      ∃ t, s.Performs .group4ReadPromotion (.group4ReadPromotion c bank) t ∧ (t.core c).reads4 = k.reads4.erase w ∧
        (t.core c).x = k.x ∧ (t.core c).plate = k.plate ∧ (∀ o, o ≠ c → t.core o = s.core o) ∧
        (k.bankOwed.contains bank.val = false → bank.val ∈ (t.core c).bankBusy ∧ (dieKey (s.now c), w.2.1) ∈ (t.core c).bankReads ∧
          (t.core c).freeze = k.freeze) ∧
        (k.bankOwed.contains bank.val = true → (t.core c).bankOwed = bank.val :: k.bankOwed ∧ ∀ d, k.freeze = some (.untilCycle d) →
          (t.core c).freeze = some (.untilCycle (max d (s.now c + (k.bankOwed.filter (· = bank.val)).length + 1)))))

/-- R236, R237, R239–R242, R275, R276, R278, R279, R285: what a home does. A semaphore operation changes its value alone; a core's own waits for
its earlier SEMMSET. A pool operation changes its
pool and answers at the time of its reply: the lowest slot that may be opened, the slot that was published last pinned with its
sequence and age, 0s of a pool without one, or overcommit with no change. PWNEXT publishes the holder's slot and opens the lowest other, PRNEXT
drops the holder's pin and pins the slot published last; a holder without either only opens or pins, and PREND without a pin changes
nothing. An operation whose kernel or pool is gone has no effect. A reply
stands at its issuer until it is readable, and thaws a core that is frozen for it. -/
def Obligations.HomeServices : Prop :=
  ∀ (s : State) (src dst : CoreId) (i : Reg) (v : BitVec 32) (q : HomeReq PoolOp) (p : PoolUnit) (x : PoolSlot) (n rid sent : Nat) (w : Word)
    (o : HomeOp) (rel : Option Covered),
    let k := s.core dst
    let m := k.sems[i]
    let h := p.holder q.kid q.rank
    let at_ := (s.core q.home).pools[Fin.ofNat 8 q.entry]
    let base (n : Nat) : Word := BitVec.ofNat 64 (unitBase p.place p.base p.stride n q.home q.src)
    let answers (r : Option Reply) (ok : PoolUnit → Prop) : Prop :=
      ∃ t, s.Performs .poolService (.poolService q) t ∧ (∃ p' ∈ (t.core q.home).pools[Fin.ofNat 8 q.entry], ok p') ∧
        (match r with | some r => s.Replies t q r | none => t.agenda = s.agenda)
    let updates (op : SemOp) (x : BitVec 32) : Prop :=
      ∃ t, s.Performs .semRemoteService (.semRemoteService src dst i op sent rel) t ∧
        t.core dst = { k with sems := k.sems.set i { m with value := x } } ∧ (∀ o, o ≠ dst → t.core o = s.core o) ∧ t.hbm = s.hbm ∧
        t.agenda = s.agenda
    (src ≠ dst ∨ s.ownSetBefore dst sent = false → updates (.add v) (m.value + v) ∧ updates (.set v) v) ∧
    (src = dst → s.ownSetBefore dst sent = true → ∀ op, ∃ t, s.Performs .semRemoteService (.semRemoteService src dst i op sent rel) t ∧
      t.cores = s.cores ∧ s.Sends t (.semRemoteService src dst i op sent rel) 1) ∧
    (s.poolFor q = none → s.Performs .poolService (.poolService q) { s with event := .poolService q }) ∧
    (at_ = some p → p.kid = none ∨ p.kid = some q.kid → s.kernels.any (·.kid = q.kid) = true →
      (q.op = .query → p.fresh < 0x7F → p.slots[p.fresh]? = some x →
        answers (some (.values [BitVec.ofNat 64 x.seq, BitVec.ofNat 64 (min (s.now q.home - x.stamp) (2 ^ 32 - 1)),
          BitVec.ofNat 64 (p.pins + p.opens * 256)])) (· = p)) ∧
      (q.op = .query → 0x7F ≤ p.fresh → answers (some (.values [0, 0, BitVec.ofNat 64 (p.pins + p.opens * 256)])) (· = p)) ∧
      (q.op = .wnext → h.open_ = none → p.opens = p.w → answers (some .overcommit) (· = p)) ∧
      (q.op = .wnext → h.open_ = none → p.opens ≠ p.w → p.slots[n]? = some x → n ≠ p.fresh → x.pinc = 0 → x.isOpen = false →
        (∀ j < n, ∀ y ∈ p.slots[j]?, j = p.fresh ∨ y.pinc ≠ 0 ∨ y.isOpen = true) →
        answers (some (.values [base n, 0, 0])) fun p' => p'.opens = p.opens + 1 ∧ (p'.holder q.kid q.rank).open_ = some n ∧
          p'.seq = p.seq ∧ p'.fresh = p.fresh) ∧
      (∀ m, q.op = .wnext → h.open_ = some m → 0 < p.opens → p.slots[n]? = some x → n ≠ m → x.pinc = 0 → x.isOpen = false →
        (∀ j < n, ∀ y ∈ p.slots[j]?, j = m ∨ y.pinc ≠ 0 ∨ y.isOpen = true) →
        answers (some (.values [base n, BitVec.ofNat 64 ((p.seq + 1) % 2 ^ 48), 0])) fun p' => p'.opens = p.opens ∧ p'.fresh = m ∧
          p'.seq = (p.seq + 1) % 2 ^ 48 ∧ (p'.holder q.kid q.rank).open_ = some n ∧
          ∀ y ∈ p'.slots[m]?, y.seq = p'.seq ∧ y.stamp = s.now q.home ∧ y.isOpen = false) ∧
      (q.op = .wbegin → h.open_.isSome = true ∨ p.opens = p.w → answers (some .overcommit) (· = p)) ∧
      (q.op = .wbegin → h.open_ = none → p.opens ≠ p.w → p.slots[n]? = some x → n ≠ p.fresh → x.pinc = 0 → x.isOpen = false →
        (∀ j < n, ∀ y ∈ p.slots[j]?, j = p.fresh ∨ y.pinc ≠ 0 ∨ y.isOpen = true) →
        answers (some (.values [base n, 0, 0])) fun p' => p'.opens = p.opens + 1 ∧ (p'.holder q.kid q.rank).open_ = some n ∧
          p'.seq = p.seq ∧ p'.fresh = p.fresh) ∧
      (q.op = .wend → h.open_ = some n → answers none fun p' => p'.seq = (p.seq + 1) % 2 ^ 48 ∧ p'.fresh = n ∧
        p'.opens = p.opens - 1 ∧ (p'.holder q.kid q.rank).open_ = none) ∧
      (q.op = .wend → h.open_ = none → answers none (· = p)) ∧
      (q.op = .rbegin → h.pin.isSome = true ∨ (p.pins = p.r ∧ p.fresh < 0x7F) → answers (some .overcommit) (· = p)) ∧
      (q.op = .rbegin → h.pin = none → 0x7F ≤ p.fresh → answers (some (.values [0, 0, 0])) (· = p)) ∧
      (q.op = .rbegin → h.pin = none → p.pins ≠ p.r → p.fresh < 0x7F → p.slots[p.fresh]? = some x →
        answers (some (.values [base p.fresh, BitVec.ofNat 64 x.seq, BitVec.ofNat 64 (min (s.now q.home - x.stamp) (2 ^ 32 - 1))]))
          fun p' => p'.pins = p.pins + 1 ∧ (p'.holder q.kid q.rank).pin = some p.fresh ∧ p'.seq = p.seq ∧ p'.opens = p.opens) ∧
      (q.op = .rnext → h.pin = none → p.pins = p.r → p.fresh < 0x7F → answers (some .overcommit) (· = p)) ∧
      (q.op = .rnext → h.pin = none → 0x7F ≤ p.fresh → answers (some (.values [0, 0, 0])) (· = p)) ∧
      (q.op = .rnext → (h.pin = none → p.pins ≠ p.r) → p.fresh < 0x7F → p.slots[p.fresh]? = some x →
        answers (some (.values [base p.fresh, BitVec.ofNat 64 x.seq, BitVec.ofNat 64 (min (s.now q.home - x.stamp) (2 ^ 32 - 1))]))
          fun p' => p'.pins = (if h.pin.isSome then p.pins - 1 else p.pins) + 1 ∧ (p'.holder q.kid q.rank).pin = some p.fresh ∧
            p'.seq = p.seq ∧ p'.opens = p.opens) ∧
      (q.op = .rend → h.pin = none → answers none (· = p)) ∧
      (q.op = .rend → h.pin = some n → answers none fun p' => p'.pins = p.pins - 1 ∧ (p'.holder q.kid q.rank).pin = none ∧
        p'.fresh = p.fresh)) ∧
    (k.homeOps.find? (·.rid = rid) = some o →
      s.Turns .homeReplyArrival (.homeReplyArrival dst rid (.values [w])) dst
        { k with homeOps := k.homeOps.map (fun x => if x.rid = rid then { x with arrived := some (.values [w]) } else x),
                 freeze := if k.freeze = some (.reply rid) then none else k.freeze }) ∧
    (k.homeOps.any (·.rid = rid) = false → ∀ a, s.Turns .homeReplyArrival (.homeReplyArrival dst rid a) dst k)

/-- R237, R245, R247, R284, R285, R287: what a ring's home does. RACQ acquires a free buffer and RTAKE takes a full one, with the buffer's
place; RPUB makes an acquired buffer full; RCLOSE ends the stream at one; an operation that cannot be done yet, or finds another of its side
waiting (log entry 75), waits at the home without an answer and is serviced later; a misuse breaks the ring and is answered with that; RBRK
breaks it without an answer; RSTAT changes nothing. An operation of another kernel than the ring's has no effect. -/
def Obligations.RingServices : Prop :=
  ∀ (s : State) (q : HomeReq RingOp) (u : RingUnit),
    let at_ := (s.core q.home).rings[Fin.ofNat 8 q.entry]
    let base (n : Nat) : Word := BitVec.ofNat 64 (unitBase u.place u.base u.stride n q.home q.src)
    let state (u : RingUnit) (n : Nat) : BufState := (u.bufs[n]?).getD .free
    let next (n : Nat) : Nat := (n + 1) % u.n
    let answers (i : Instr) (e : Event) (r : Option Reply) (ok : RingUnit → Prop) : Prop :=
      ∃ t, s.Performs i e t ∧ (∃ u' ∈ (t.core q.home).rings[Fin.ofNat 8 q.entry], ok u') ∧
        (match r with
          | some r => s.Replies t q r
          | none => ∀ a ∈ t.agenda, a ∈ s.agenda ∨ a.what.row = Instr.ringWaitServiced)
    let now := answers .ringService (.ringService q)
    let later := answers .ringWaitServiced (.ringWaitServiced q)
    let acquired (v : RingUnit) : Prop := v.nextAcq = next u.nextAcq ∧ v.cond = .open_ ∧
      ∀ n < u.bufs.length, state v n = if n = u.nextAcq then .acquired else state u n
    let taken (v : RingUnit) : Prop := v.nextTake = next u.nextTake ∧ v.taken = u.taken + 1 ∧ v.cond = u.cond ∧
      ∀ n < u.bufs.length, state v n = if n = u.nextTake then .taken else state u n
    (s.ringFor q = none → s.Performs .ringService (.ringService q) { s with event := .ringService q }) ∧
    (at_ = some u → u.kid = q.kid →
    (q.op = .acq → u.cond = .open_ → state u u.nextAcq = .free → u.waitProd = [] → now (some (.values [base u.nextAcq])) acquired) ∧
    (q.op = .acq → u.cond = .open_ → state u u.nextAcq ≠ .free ∨ u.waitProd ≠ [] → now none (· = { u with waitProd := u.waitProd ++ [q] })) ∧
    (q.op = .acq → u.cond = .closed ∨ u.cond = .drained → u.waitProd = [] → now (some .broken) fun v => v.cond = .broken) ∧
    (q.op = .acq → u.cond = .broken → u.waitProd = [] → now (some (.values [0x8000000000000000])) (· = u)) ∧
    (q.op = .pub → u.cond = .open_ → state u u.nextPub = .acquired → now (some (.values [])) fun v => v.nextPub = next u.nextPub ∧
      ∀ n < u.bufs.length, state v n = if n = u.nextPub then .full else state u n) ∧
    (q.op = .pub → u.cond = .open_ → state u u.nextPub ≠ .acquired → now (some .broken) fun v => v.cond = .broken ∧ v.bufs = u.bufs) ∧
    (q.op = .take → u.cond = .open_ → state u u.nextTake = .full → u.eos = none → u.waitCons = [] →
      now (some (.values [base u.nextTake, BitVec.ofNat 64 (u.nextTake % 64 * 256 + u.taken % 2 ^ 32 * 65536)])) taken) ∧
    (q.op = .take → u.cond = .open_ → state u u.nextTake ≠ .full ∨ u.waitCons ≠ [] → now none (· = { u with waitCons := u.waitCons ++ [q] })) ∧
    (q.op = .free → u.cond = .open_ → state u u.nextFree = .taken → u.eos = none → now (some (.values [])) fun v =>
      v.nextFree = next u.nextFree ∧ v.cond = .open_) ∧
    (q.op = .brk → now none fun v => v.cond = .broken) ∧
    (q.op = .stat → now (some (.values [u.status])) (· = u)) ∧
    (∀ err, q.op = .close err → u.cond = .open_ → state u u.nextPub = .acquired → u.waitProd = [] → now (some (.values [])) fun v =>
      v.cond = .closed ∧ v.err = err ∧ v.eos = some u.nextPub ∧ v.nextPub = next u.nextPub ∧ v.nextAcq = next u.nextPub) ∧
    (q ∈ u.waitProd → q.op = .acq → u.cond = .open_ → state u u.nextAcq = .free →
      later (some (.values [base u.nextAcq])) fun v => v.waitProd = u.waitProd.erase q ∧ acquired v) ∧
    (q ∈ u.waitCons → q.op = .take → u.cond = .open_ → state u u.nextTake = .full → u.eos = none →
      later (some (.values [base u.nextTake, BitVec.ofNat 64 (u.nextTake % 64 * 256 + u.taken % 2 ^ 32 * 65536)]))
        fun v => v.waitCons = u.waitCons.erase q ∧ taken v) ∧
    (q ∉ u.waitProd → q ∉ u.waitCons → s.Performs .ringWaitServiced (.ringWaitServiced q) { s with event := .ringWaitServiced q }))

/-- R24, R229, R230, R233, R234, R328, R329: a copy that completes leaves its core, its record enters the EVQ of an iteration that runs,
and its tokens are posted; with no iteration there it is discarded. CATOM's old value is written before its record, and waits with it for what
an earlier copy of the core still writes there. The record names the instruction, its function, status and scope; its data are the bytes written and the die
cycles since dispatch, 0 after a fault at dispatch, or what a reduction node answers. -/
def Obligations.CopyRecords : Prop :=
  ∀ (s : State) (c : CoreId) (id code : Nat) (n : Fin 8) (k : CopyInFlight),
    let x := s.core c
    let took := min (s.now c - k.started) (2 ^ 32 - 1)
    let ends (i : Instr) (e : Event) (status : Nat) (data : Nat) : Prop :=
      ∃ t, s.Performs i e t ∧ ∃ r ∈ (t.core c).evq, (t.core c).evq = x.evq ++ [r] ∧ (t.core c).x = x.x ∧
        (t.core c).copies.map (·.id) = (x.copies.filter (·.id ≠ k.id)).map (·.id) ∧
        bitsOf r.lo 0 48 = k.addr.toNat % 2 ^ 48 ∧ bitsOf r.lo 48 4 = k.fn % 16 ∧ bitsOf r.lo 52 4 = status % 16 ∧
        bitsOf r.lo 56 8 = scopeCode k.scope ∧ r.hi.toNat = data ∧
        ((∀ j : Fin 10, x.tokens[j] ≠ 15) → ∀ j : Fin 10, (t.core c).tokens[j] = x.tokens[j] +
          (if (k.postL = true ∧ j = tokenOut .cp false) ∨ (k.postR = true ∧ j = tokenOut .cp true) then 1 else 0))
    let held := s.writesHeld c id (s.writesLeft c { k with dsts := [] })
    (x.copies.find? (·.id = id) = some k → held = true → ∃ t, s.Performs .copyComplete (.copyComplete c id) t ∧ t.cores = s.cores ∧
      s.Sends t (.copyComplete c id) 1) ∧
    (∀ n off, x.copies = [k] → k.id = id → held = false → k.oldTo = some (off, n) → k.status = 0 ∨ k.status = 4 →
      ∃ t, s.Performs .copyComplete (.copyComplete c id) t ∧
        (t.core c).plate = (x.writePlate (cellsFrom off (natBytes n k.data.toNat)) []).plate) ∧
    (x.activity ≠ .running → x.copies.find? (·.id = id) = some k → held = false → ∃ t, s.Performs .copyComplete (.copyComplete c id) t ∧
      (t.core c).evq = x.evq ∧ (t.core c).tokens = x.tokens ∧
      (t.core c).copies.map (·.id) = (x.copies.filter (·.id ≠ k.id)).map (·.id)) ∧
    (x.activity = .running →
    (x.copies.find? (·.id = id) = some k → held = false → k.fn = 3 → ends .copyComplete (.copyComplete c id) k.status k.data.toNat) ∧
    (x.copies.find? (·.id = id) = some k → held = false → k.fn ≠ 3 → k.oldTo = none →
      ends .copyComplete (.copyComplete c id) k.status (min k.written (2 ^ 32 - 1) + took * 2 ^ 32)) ∧
    (x.copies.find? (·.id = id) = some k → ends .copyDispatchFaultRecord (.copyDispatchFaultRecord c id) 8 0) ∧
    (x.copies.find? (fun k => k.fn = 5 && k.bytes = n.val && k.status ≠ 8) = some k →
      ends .nodeArmingRecord (.nodeArmingRecord c n) k.status k.data.toNat) ∧
    (x.copies.find? (·.id = id) = some k →
      ends .rcontAnswer (.rcontAnswer c id (.accept false)) k.status (took * 2 ^ 32) ∧
      ends .rcontAnswer (.rcontAnswer c id (.accept true)) k.status (took * 2 ^ 32 + 1) ∧
      (code < 2 ^ 64 → ends .rcontAnswer (.rcontAnswer c id (.refuse code)) 7 code)))

/-- R292, R326, R327, R330–R333, R335, R336: an armed node takes an admissible packet, adds it to its buffer row as the row stands, and answers an
RCONT at the time of R335 or later; it forwards when the last leaf has arrived or in the die cycle of its deadline; a packet that it may not take is
refused with its code. A root's result lands 1 + ⌈L/512⌉ die cycles after it forwards, adding to the row as it then stands where it adds; 2 later its record enters its core's EVQ, with the
releases of its packets, and its semaphore is added to.
Where the spec leaves it to the model, the reading is that of log entries 44, 93 and 105. -/
def Obligations.ReductionSteps : Prop :=
  ∀ (s : State) (p : RedPacket) (id : Nat) (r : RootRecord),
    let c := p.dstCore
    let i := p.dstNode
    let n := (s.core c).nodes[i]
    let node (t : State) : RedNode := (t.core c).nodes[i]
    let back := (if c = p.srcCore then 6 else if dieOf c = dieOf p.srcCore then 12 else 28) + (p.tile.length + 255) / 256
    let arrives (ok : State → Prop) : Prop := ∃ t, s.Performs .reductionPacketArrival (.reductionPacketArrival p) t ∧ ok t
    let answered (a : RedAnswer) (t : State) : Prop := ∃ e ∈ t.agenda, e.what = .rcontAnswer p.srcCore id a ∧ s.time + back ≤ e.due
    let admissible := p.bitmap &&& ~~~n.expect = 0 ∧ p.bitmap &&& n.arrived = 0 ∧ p.tile.length = n.len
    (p.copy = some id → p.srcNode = none →
      (n.state = .idle → arrives fun t => node t = n ∧ answered (.refuse 8) t) ∧
      (n.state ≠ .idle → p.bitmap &&& ~~~n.expect ≠ 0 → arrives fun t => node t = n ∧ answered (.refuse 9) t) ∧
      (n.state ≠ .idle → p.bitmap &&& ~~~n.expect = 0 → p.bitmap &&& n.arrived ≠ 0 →
        arrives fun t => node t = n ∧ answered (.refuse 10) t) ∧
      (n.state ≠ .idle → p.bitmap &&& ~~~n.expect = 0 → p.bitmap &&& n.arrived = 0 → p.tile.length ≠ n.len →
        arrives fun t => node t = n ∧ answered (.refuse 11) t) ∧
      (n.state = .armed → admissible → n.arrived ||| p.bitmap ≠ n.expect → n.det = false → arrives fun t =>
        (node t).state = .armed ∧ (node t).arrived = n.arrived ||| p.bitmap ∧ (node t).hasValue = true ∧
        (t.core c).plate = ((s.core c).writePlate (cellsFrom n.row
          (if n.hasValue then combineTiles n.fmt_ n.op (s.readSpace (.plate c) n.row n.len) p.tile else p.tile)) []).plate ∧
        answered (.accept false) t) ∧
      (n.state = .forwarded → admissible → n.root = true → n.policy ≠ 1 → arrives fun t =>
        (t.core c).plate = ((s.core c).writePlate (cellsFrom (n.descAt + 20)
          (natBytes 4 (bytesNat (s.readSpace (.plate c) (n.descAt + 20) 4) + 1))) []).plate ∧ answered (.accept true) t)) ∧
    (n.state = .armed → admissible → n.arrived ||| p.bitmap = n.expect → n.root = false → arrives fun t => (node t).state = .idle) ∧
    (n.state = .armed → n.deadline = s.now c → n.arrived ≠ n.expect → n.root = true → n.policy = 1 → n.marked = false → (s.core c).marks = [] →
      ∃ t, s.Performs .nodeDeadline (.nodeDeadline c i) t ∧ (node t).state = .forwarded ∧
        (∃ w ∈ (node t).owed, (node t).owed = n.owed ++ [w] ∧ w.status = 5 ∧ w.bitmap = n.arrived ∧ w.landed = false ∧ w.due = s.now c + 1 + (n.len + 511) / 512) ∧
        s.Sends t (.rootRecordWrite c i) (1 + (n.len + 511) / 512)) ∧
    (n.state = .armed → n.deadline = s.now c → n.arrived ≠ n.expect → ∃ t, s.Performs .nodeDeadline (.nodeDeadline c i) t ∧
      (node t).state = .forwarded ∧ (node t).arrived = n.arrived ∧ (t.core c).x = (s.core c).x) ∧
    (n.deadline ≠ s.now c → s.Performs .nodeDeadline (.nodeDeadline c i) { s with event := .nodeDeadline c i }) ∧
    (n.owed.find? (fun w => w.landed = false && w.due ≤ s.now c) = some r →
      ∃ t, s.Performs .rootRecordWrite (.rootRecordWrite c i) t ∧ s.Sends t (.rootRecordWrite c i) 2 ∧
      (node t).owed.length = n.owed.length ∧ (t.core c).evq = (s.core c).evq ∧
      (∃ w ∈ (node t).owed, w.landed = true ∧ w.due = s.now c + 2 ∧ w.bitmap = r.bitmap ∧ w.row = r.row ∧ (w.status = r.status ∨ w.status = 4)) ∧
      (∀ bs, r.result = .value bs → (t.core c).plate = ((s.core c).writePlate (cellsFrom r.row bs) []).plate) ∧
      (∀ bs, r.result = .adds bs → (t.core c).plate = ((s.core c).writePlate (cellsFrom r.row
        (combineTiles ((fmtOf r.fmt).getD .int8) r.op (s.readSpace (.plate c) r.row bs.length) bs)) []).plate) ∧
      (r.result = .stays → (t.core c).plate = (s.core c).plate)) ∧
    ((∀ w ∈ n.owed, w.landed = true ∨ s.now c < w.due) → n.owed.find? (fun w => w.landed && w.due ≤ s.now c) = some r →
      ∃ t, s.Performs .rootRecordWrite (.rootRecordWrite c i) t ∧ (node t).owed = n.owed.erase r ∧
        ((s.core c).activity = .running → ∃ e ∈ (t.core c).evq, (t.core c).evq = (s.core c).evq ++ [e] ∧ e.hi = r.bitmap ∧
          bitsOf e.lo 48 4 = 5 ∧ bitsOf e.lo 52 4 = r.status % 16 ∧ bitsOf e.lo 0 48 = r.addr.toNat % 2 ^ 48 ∧ e.known = r.known) ∧
        ((s.core c).activity ≠ .running → (t.core c).evq = (s.core c).evq) ∧
        ∀ z ∈ r.sem, ∀ w ∈ s.kernels.find? (·.kid = n.kid), ∃ e ∈ t.agenda,
          e.what = .semRemoteService c ((w.cores[z.1]?).getD c) z.2 (.add 1) s.time (some ⟨r.scope, r.known⟩)) ∧
    ((∀ w ∈ n.owed, s.now c < w.due) → s.Performs .rootRecordWrite (.rootRecordWrite c i) { s with event := .rootRecordWrite c i })


/-- R219, R263, R265, R266, R353–R355, R361–R363, R365, R367: what the memories do of themselves. A bank group is refreshed at its deadline,
102,400 die cycles after the last, for 32, one after another; refresh, scrub and lane repair hold accesses back for a bounded time; scrubbing
counts, and marks an uncorrectable line, without changing a byte, in the hub's own memory stops launches, and in flash leaves the other copy; a
channel without redundant lanes is retired, and no TLB keeps its pages; an uncorrectable record interrupts. A packet with a bad header is
dropped, recorded at its port and sent once more; one that is lost leaves its issuer the outcome: poison, STATUS 1 or unanswered data. Parity marks what a tile step
reads, and is an imprecise poison fault elsewhere.
Where the spec leaves it to the model, the reading is that of log entries 7, 21, 23, 50, 97, 108, 121 and 123. -/
def Obligations.MemorySteps : Prop :=
  ∀ (s : State) (d : DieId) (g : Reg) (ch : Fin 64) (slice : Fin 16) (lane line : Nat) (c : CoreId) (a : Fin 4) (w : Fin 64) (port : Port)
    (p : Fin 4) (op : AbandonedOp) (v : Word) (q : Packet) (z : RedPacket) (sp : Space) (cells : List (Nat × Byte)) (n : Nat),
    let k := s.die d
    let x := k.groups[g]
    let y := s.core c
    let bank : Fin 16 := Fin.ofNat 16 ((localOf c).val / 8)
    let poisoned (b : Word) : Core → Prop := fun u => ∃ t ∈ u.traps, u = { y with traps := y.traps ++ [t] } ∧ t.cause = .poison ∧ t.badaddr = b ∧
      t.precise = false
    let own := some (Space.plate c)
    let held (w : Word) : Bool := bitOf w 0 && bitOf w 1
    let recorded (t : State) (b : Fin 16) : Prop := bitOf ((t.die d).banks[b]).stat 0 = true ∧ bitOf ((t.die d).banks[b]).stat 1 = true
    let lost (t : State) : Prop := (t.core c).x = y.x ∧ ∃ u ∈ (t.core c).traps, u.cause = .poison ∧ u.precise = false
    (k.dclk < x.lastStart + 102400 → ∃ t, s.Performs .wsBackstopRefresh (.wsBackstopRefresh d g) t ∧ t.die d = k ∧
      s.Sends t (.wsBackstopRefresh d g) (x.lastStart + 102400 - k.dclk)) ∧
    (x.lastStart + 102400 ≤ k.dclk → ∃ t, s.Performs .wsBackstopRefresh (.wsBackstopRefresh d g) t ∧ t.wstore = s.wstore ∧
      s.Sends t (.wsBackstopRefresh d g) 102400 ∧
      (x.busyUntil ≤ k.dclk → (t.die d).groups[g] = ⟨k.dclk, k.dclk + 32, x.waiting⟩ ∧ s.Sends t (.wsRefreshEnd d g) 32) ∧
      (k.dclk < x.busyUntil → (t.die d).groups[g] = { x with waiting := x.waiting + 1 })) ∧
    (∃ t, s.Performs .wsRefreshEnd (.wsRefreshEnd d g) t ∧ t.wstore = s.wstore ∧
      (k.dclk < x.busyUntil → (t.die d).groups[g] = x) ∧
      (x.busyUntil ≤ k.dclk → x.waiting = 0 → (t.die d).groups[g] = { x with busyUntil := 0 }) ∧
      (x.busyUntil ≤ k.dclk → 0 < x.waiting → (t.die d).groups[g] = ⟨k.dclk, k.dclk + 32, x.waiting - 1⟩ ∧ s.Sends t (.wsRefreshEnd d g) 32)) ∧
    (∃ t until_, s.Performs .hbmRefresh (.hbmRefresh d slice n) t ∧ t.hbm = s.hbm ∧ t.cores = s.cores ∧
      (slice, n, until_) ∈ (t.die d).refreshing ∧ k.dclk < until_ ∧ until_ ≤ k.dclk + 448) ∧
    (∃ t o, s.Performs .patrolScrub (.patrolScrub own line .clean n) t ∧ t.cores = s.cores ∧ t.hbm = s.hbm ∧ t.hub = s.hub ∧
      (t.die (dieOf c)).banks = (s.die (dieOf c)).banks ∧ (t.die (dieOf c)).scrubUntil[(o : Fin 64)] ≤ (s.die (dieOf c)).dclk + 8) ∧
    (∃ t, s.Performs .patrolScrub (.patrolScrub own line .corrected n) t ∧ t.cores = s.cores ∧ t.hub = s.hub ∧
      ((t.die (dieOf c)).banks[bank]).ce.toNat = min (((s.die (dieOf c)).banks[bank]).ce.toNat + 1) (2 ^ 32 - 1)) ∧
    (∃ t, s.Performs .patrolScrub (.patrolScrub own line .uncorrectable n) t ∧
      t.core c = { y with marks := (t.core c).marks, wiped := (t.core c).wiped } ∧ (t.core c).marks.contains line = true ∧
      (∀ m ∈ y.marks, m ∈ (t.core c).marks) ∧ t.hbm = s.hbm ∧ bitOf ((t.die (dieOf c)).banks[bank]).stat 1 = true ∧
      (bitOf ((s.die (dieOf c)).banks[bank]).stat 0 = false → ((t.die (dieOf c)).banks[bank]).info = BitVec.ofNat 64 n) ∧
      t.hub.interrupts = s.hub.interrupts + (if held ((s.die (dieOf c)).banks[bank]).stat then 0 else 1)) ∧
    (s.Performs .patrolScrub (.patrolScrub none line .clean n) { s with event := .patrolScrub none line .clean n }) ∧
    (∃ t, s.Performs .patrolScrub (.patrolScrub none line .corrected 0) t ∧ t.cores = s.cores ∧ t.hub.accepting = s.hub.accepting ∧
      (t.hub.banks[(2 : Fin 4)]).ce.toNat = min ((s.hub.banks[(2 : Fin 4)]).ce.toNat + 1) (2 ^ 32 - 1)) ∧
    (∃ t, s.Performs .patrolScrub (.patrolScrub none line .uncorrectable 0) t ∧ t.cores = s.cores ∧ t.hbm = s.hbm ∧ t.hub.accepting = false ∧
      bitOf (t.hub.banks[(2 : Fin 4)]).stat 1 = true ∧
      t.hub.interrupts = s.hub.interrupts + (if held (s.hub.banks[(2 : Fin 4)]).stat then 0 else 1)) ∧
    (∀ i : Fin 2, ∃ t, s.Performs .patrolScrub (.patrolScrub none line .uncorrectable (i.val + 1)) t ∧ t.cores = s.cores ∧
      bitOf (t.hub.banks[(3 : Fin 4)]).stat 1 = true ∧ (∀ f ∈ t.hub.flash[i], f.verifies = false) ∧
      ∀ o : Fin 2, o ≠ i → t.hub.flash[o] = s.hub.flash[o]) ∧
    (∃ t, s.Performs .patrolScrub (.patrolScrub (some .tier2) line .uncorrectable n) t ∧ t.tier2.mem = s.tier2.mem ∧
      t.tier2.marks.contains line = true ∧ bitOf (t.hub.banks[(1 : Fin 4)]).stat 1 = true) ∧
    ((k.laneMap.filter (·.1 = ch)).length < 2 → ∃ t, s.Performs .hbmLaneRepair (.hbmLaneRepair d ch lane) t ∧
      (t.die d).laneMap = k.laneMap ++ [(ch, lane)] ∧ t.hub.repairMaps = s.hub.repairMaps ++ [(d, ch, lane)] ∧ t.hbm = s.hbm ∧
      k.dclk < (t.die d).pausedUntil[ch] ∧ (t.die d).pausedUntil[ch] ≤ k.dclk + 32000 ∧
      s.Sends t (.hbmRepairPauseEnd d ch) ((t.die d).pausedUntil[ch] - k.dclk)) ∧
    (2 ≤ (k.laneMap.filter (·.1 = ch)).length → ∃ t, s.Performs .hbmLaneRepair (.hbmLaneRepair d ch lane) t ∧ t.hbm = s.hbm ∧
      ch ∈ (t.die d).retired ∧ t.hub.osLog = s.hub.osLog ++ [(365, ch.val)] ∧ (t.core c).x = y.x ∧
      ∀ e ∈ (t.core c).tlb ++ (t.core c).held, t.inRetired { va := e.va, size := e.size, pte := e.pte } = s.inRetired { va := e.va, size := e.size, pte := e.pte } →
        s.inRetired { va := e.va, size := e.size, pte := e.pte } = false) ∧
    (∃ t, s.Performs .hbmRepairPauseEnd (.hbmRepairPauseEnd d ch) t ∧ t.hbm = s.hbm ∧
      (t.die d).pausedUntil[ch] = if k.pausedUntil[ch] ≤ k.dclk then 0 else k.pausedUntil[ch]) ∧
    (∃ t, s.Performs .cxlPortFailure (.cxlPortFailure p) t ∧ t.tier2 = s.tier2 ∧ t.cores = s.cores ∧
      ∀ q : Fin 4, q ∈ t.hub.failedPorts ↔ q = p ∨ q ∈ s.hub.failedPorts) ∧
    (op = .packet q v ∨ op = .sem c g line ∨ op = .home line ∨ op = .launch line ∨ op = .node z →
      ∃ t, s.Performs .headerError (.headerError d port c op) t ∧ t.cores = s.cores ∧ t.hbm = s.hbm ∧
        (port.val < 48 ∨ 56 ≤ port.val → recorded t 10) ∧ (48 ≤ port.val → port.val < 52 → port.val ≠ 48 + d.val → recorded t 11) ∧
        (52 ≤ port.val → port.val < 56 → recorded t 12) ∧
        (op = .packet q v → ∀ e o, ∀ b ∈ ((t.die e).outs[(o : Port)]).waiting, b.num = q.num → s.time < b.notBefore)) ∧
    (q.msg.src = c → q.msg.ops = [.bytes sp cells false] → (∀ id, q.msg.of_ ≠ .copy id ∧ q.msg.of_ ≠ .inbound id) →
      ∃ t, s.Performs .packetAbandon (.packetAbandon d port c (.packet q v)) t ∧ (t.core c).x = y.x ∧
        ∃ u ∈ (t.core c).traps, u.cause = .poison ∧ u.badaddr = v ∧ u.precise = false) ∧
    (q.msg.src = c → q.msg.ops = [.bytes sp cells false] → q.msg.of_ = .copy line →
      ∃ t, s.Performs .packetAbandon (.packetAbandon d port c (.packet q v)) t ∧ (t.core c).x = y.x ∧ (t.core c).traps = y.traps ∧
        ∀ m ∈ (t.core c).copies, m.id = line → m.status ≠ 0 ∧ m.status ≠ 4) ∧
    (q.msg.src = c → q.msg.ops = [.read sp lane 8 false] → q.msg.of_ = .scalar line →
      ∃ t, s.Performs .packetAbandon (.packetAbandon d port c (.packet q v)) t ∧ (t.core c).x = y.x ∧
        (∀ m ∈ (t.core c).globals, m.num = line → m.back = true ∧ (m.isLoad = true → m.done = true ∧ m.poisoned = true)) ∧
        (t.core c).globals.filter (·.num ≠ line) = y.globals.filter (·.num ≠ line)) ∧
    (z.copy = none → ∃ t, s.Performs .packetAbandon (.packetAbandon d port c (.node z)) t ∧ t.cores = s.cores ∧
      ∀ e ∈ t.agenda, e.what ≠ .reductionPacketArrival z) ∧
    (∀ id m, z.copy = some id → (s.core z.srcCore).copies.find? (·.id = id) = some m → (s.core z.srcCore).activity = .running →
      ∃ t, s.Performs .packetAbandon (.packetAbandon d port c (.node z)) t ∧
        ∃ r ∈ (t.core z.srcCore).evq, (t.core z.srcCore).evq = (s.core z.srcCore).evq ++ [r] ∧ bitsOf r.lo 52 4 = 1) ∧
    (∃ t, s.Performs .packetAbandon (.packetAbandon d port c (.home line)) t ∧ lost t ∧ ∀ o ∈ (t.core c).homeOps, o.rid ≠ line) ∧
    (∃ t, s.Performs .packetAbandon (.packetAbandon d port c (.sem z.dstCore g line)) t ∧ lost t ∧
      ∀ e ∈ t.agenda, ∀ o r, e.what ≠ .semRemoteService c z.dstCore g o line r) ∧
    (∃ t, s.Performs .packetAbandon (.packetAbandon d port c (.launch line)) t ∧ lost t ∧
      (t.tenantOf y.tenant).pending = (s.tenantOf y.tenant).pending.filter (·.order ≠ line)) ∧
    (∃ t, s.Performs .coreStateParity (.coreStateParity c (.accumulator a)) t ∧ ((t.core c).acc[a]).marked = true ∧
      ((t.core c).acc[a]).bits = (y.acc[a]).bits ∧ (t.core c).traps = y.traps ∧ ∀ b, b ≠ a → (t.core c).acc[b] = y.acc[b]) ∧
    (∃ t, s.Performs .coreStateParity (.coreStateParity c (.weightSlot w)) t ∧ ((t.core c).wslots[w]).marks ≠ [] ∧
      ((t.core c).wslots[w]).image = (y.wslots[w]).image ∧ (t.core c).traps = y.traps) ∧
    (∃ t, s.Performs .coreStateParity (.coreStateParity c .other) t ∧ poisoned 0 (t.core c)) ∧
    (∃ t, s.Performs .lifeRecordUpdate .lifeRecordUpdate t ∧ t.cores = s.cores ∧ t.hub.lifeUpdates = s.hub.lifeUpdates.map (· + 1) ∧
      s.Sends t .lifeRecordUpdate (600 * 1600000000))

/-- R231, R266, R297, R298, R340–R347: the fabric. An output grants, of the packets that may go, one of the input granted least
recently, which then comes last, and holds both for as long as its packet has beats, at a Biryar port for as long as the link takes; the
packet reaches its port after its beats or later, or the other die after 24 die cycles more. A packet is served at its port, in order of arrival, once its memory is free: a write takes effect there, a
read's data goes back. Multicasts are applied in the order of their notices, once they are seen; the hub posts its oldest multicast on each die.
Where the spec leaves it to the model, the reading is that of log entries 7, 8, 17, 18 and 76. -/
def Obligations.FabricSteps : Prop :=
  ∀ (s : State) (d : DieId) (o : Port) (p : Packet) (a b : Nat) (v : Byte) (c : CoreId) (m : Multicast) (id : Nat),
    let x := (s.die d).outs[o]
    let now := (s.die d).dclk
    let y := (s.die d).outs[p.outPort]
    let may (q : Packet) : Bool := q.notBefore ≤ now && (s.die d).inFree[q.inPort] ≤ now && s.packetReady d o q
    let n := s.holdOf d o p
    let grants (q : Packet) : Prop := x.pick (hasTable o) now s.choice may (s.holdOf d o) = some q
    let serves (ok : State → Prop) : Prop := ∃ t, s.Performs .memoryPortArrival (.memoryPortArrival d o) t ∧ ok t
    (x.waiting = [] → s.Performs .crossbarGrant (.crossbarGrant d o) { s with event := .crossbarGrant d o }) ∧
    (x.waiting ≠ [] → now < x.freeAt → ∃ t, s.Performs .crossbarGrant (.crossbarGrant d o) t ∧ t.dies = s.dies ∧
      s.Sends t (.crossbarGrant d o) (x.freeAt - now)) ∧
    (grants p → p ∈ x.waiting ∧ may p = true ∧
      (hasTable o = false → ∀ i ∈ x.order.takeWhile (· ≠ p.inPort), ∀ q ∈ x.waiting, q.inPort = i →
        may q = false ∨ ∃ e ∈ x.waiting, packetBehind q e = true)) ∧
    (o.val < 52 ∨ 56 ≤ o.val → n = p.beats) ∧
    (x.waiting ≠ [] → x.freeAt ≤ now → grants p →
      ∃ t, s.Performs .crossbarGrant (.crossbarGrant d o) t ∧
        ((t.die d).outs[o]).freeAt = now + n ∧ (t.die d).inFree[p.inPort] = now + n ∧
        ((t.die d).outs[o]).order = x.order.filter (· ≠ p.inPort) ++ [p.inPort] ∧
        (p.dstDie ≠ d ∨ packetModule p = none → ((t.die d).outs[o]).waiting = x.waiting.erase p) ∧
        (p.dstDie = d → packetModule p = none → ∃ e ∈ ((t.die d).outs[o]).buffer, e.2 = p ∧ now + p.beats ≤ e.1) ∧
        (p.dstDie ≠ d → ∃ e ∈ t.agenda, s.time + 24 + (p.beats - 1) ≤ e.due ∧
          e.what = .d2dDelivery p.dstDie { p with inPort := Fin.ofNat 64 (48 + d.val), outPort := p.dstPort })) ∧
    (x.waiting ≠ [] → x.freeAt ≤ now → x.pick (hasTable o) now s.choice may (s.holdOf d o) = none →
      ∃ t, s.Performs .crossbarGrant (.crossbarGrant d o) t ∧ t.dies = s.dies ∧
        s.Sends t (.crossbarGrant d o) (if x.waiting.all may then 8 - now % 8 else 1)) ∧
    (∃ t, s.Performs .d2dDelivery (.d2dDelivery d p) t ∧ (t.die d).outs[p.outPort] = { y with waiting := y.waiting ++ [p] } ∧
      s.Sends t (.crossbarGrant d p.outPort) (y.freeAt - now)) ∧
    (x.buffer = [] → s.Performs .memoryPortArrival (.memoryPortArrival d o) { s with event := .memoryPortArrival d o }) ∧
    (x.buffer ≠ [] → s.nextServed now x.buffer = some p →
      (0 < (s.portWait d o p).2 → serves fun t => t.hbm = s.hbm ∧ s.Sends t (.memoryPortArrival d o) (s.portWait d o p).2) ∧
      ((s.portWait d o p).2 = 0 → p.sp = .hbm →
        (p.msg.ops = [.bytes .hbm [(a, v)] false] → s.hbm.mem.wf = true → (∀ n, p.msg.of_ ≠ .copy n ∧ p.msg.of_ ≠ .scalar n ∧ p.msg.of_ ≠ .inbound n) →
          serves fun t => t.hbm.mem.read a = v ∧ (b ≠ a → t.hbm.mem.read b = s.hbm.mem.read b) ∧ t.tier2 = s.tier2 ∧ t.wstore = s.wstore ∧
            ((t.die d).outs[o]).buffer = x.buffer.filter fun e => e.2.num ≠ p.num) ∧
        (p.msg.ops = [.accum .hbm a 4 0 (BitVec.ofNat 64 b) false] → s.hbm.mem.wf = true → (∀ n, p.msg.of_ ≠ .scalar n ∧ p.msg.of_ ≠ .inbound n) →
          serves fun t => Memory.readNat t.hbm.mem a 4 = (Memory.readNat s.hbm.mem a 4 + b % 2 ^ 32) % 2 ^ 32) ∧
        (p.msg.ops = [.read .hbm a b false] → p.msg.of_ = .tile id → serves fun t => t.hbm = s.hbm ∧ (t.core c).x = (s.core c).x ∧
          ∃ e ∈ t.agenda, s.time ≤ e.due ∧ e.what = .crossbarGrant d (if dieOf p.msg.src = d then Fin.ofNat 64 (localOf p.msg.src).val
            else Fin.ofNat 64 (48 + (dieOf p.msg.src).val)))) ∧
      (p.msg.ops = [.back] → p.msg.of_ = .scalar id → p.msg.src = c → serves fun t => t.hbm = s.hbm ∧ (t.core c).x = (s.core c).x ∧
        ∀ g ∈ (t.core c).globals, g.num = id → g.back = true)) ∧
    (∃ t, s.Performs .noticeWindow (.noticeWindow d) t ∧ t.cores = s.cores ∧ t.casts = s.casts ∧
      ∀ w, m.die = d → m.window = some w → 8 * w + 24 ≤ now → s.nextCastAt c = some m → s.castReady c m = true →
        s.Sends t (.multicastApply c m.src m.id) 0) ∧
    (s.hub.hubQueue = [] → s.Performs .hubNotice .hubNotice { s with event := .hubNotice }) ∧
    (∀ dies rest, s.hub.hubQueue = (id, dies) :: rest → s.casts.find? (fun m => m.id = id && m.window.isNone) = some m →
      ∃ t, s.Performs .hubNotice .hubNotice t ∧ t.hub.hubQueue = rest ∧ t.cores = s.cores ∧
        ∀ c ∈ m.dsts, dieOf c ∈ dies →
          ∃ k ∈ t.casts, k.id = id ∧ k.die = dieOf c ∧ c ∈ k.dsts ∧ k.window.isSome = true ∧ k.cells = m.cells) ∧
    (s.nextCastAt c = some m → m.id = id → s.castReady c m = true → (∀ k ∈ s.casts, k.id = id → k.die = m.die → k = m) →
      ∃ t, s.Performs .multicastApply (.multicastApply c m.src id) t ∧ (∀ k ∈ t.casts, k.id = id → k.die = m.die → c ∉ k.dsts) ∧
        (t.core c).x = (s.core c).x ∧ (m.copy = none → (t.core c).plate = ((s.core c).writePlate m.cells m.marked).plate) ∧
        (m.copy = none → m.inval = none → m.cells = [] → ∀ r ∈ m.sem,
          t.core c = { s.core c with sems := (s.core c).sems.set r.1 { (s.core c).sems[r.1] with value := r.2 } })) ∧
    (s.nextCastAt c = some m → s.castReady c m = false →
      s.Performs .multicastApply (.multicastApply c m.src id) { s with event := .multicastApply c m.src id })

/-- R126, R267, R300, R301, R317, R348–R350, R352, R363, R370, R375: the ports to other modules. A flit with a wrong CRC is NACKed, one out of
sequence is not taken; one for another module is relayed, unapplied; acknowledged flits are dropped; a packet is taken once, for a paired
tenant whose context allows it, crosses this module, and is acknowledged or refused end to end; one that has been taken before is answered
again. A flit that fails eight retries takes the port down, and so do 20 µs without an acknowledgement; a lane above its threshold makes it
fall back; a
port without a lane runs on the half that is whole; packets without an acknowledgement leave by the next path that is up, or
are lost; status bits are cleared by ones, also through the management window, which shows the error banks. The module OS writes pairings,
paths and their state, slot tables, page tables and their bases, the marks
that open pages to the host, breakpoints, the lanes' threshold, save areas and the capability records (their bodies are the model's choice: log entry
99; so are the flits of an answer and the CRC's bit order: log entries 19 and 20; the time of a reduction packet: log entry 124; what a save
area holds: log entry 113; and on which lane a retry counts, since when, and the threshold: log entry 21). -/
def Obligations.PeerPortSteps : Prop :=
  ∀ (s : State) (port : Fin 16) (f : Flit) (m : Option PeerMsg) (lseq : BitVec 16) (lane : Fin 8) (lanes : BitVec 8) (v : Word) (n seq : Nat)
    (l : PeerLink) (p : PeerPacket) (q : PeerPath) (tn va : Nat) (bytes : List Byte) (pairs : List (Nat × TenantId))
    (paths : List (Fin 16 × List Nat)) (out : Port) (tenant : TenantId) (open_ bad : Bool) (c : CoreId) (points : List Word) (context : Fin 9)
    (msg : PeerMsg) (bank : Fin 16) (dst : Nat),
    let b := s.ports[port]
    let after (t : State) : BiryarPort := t.ports[port]
    let up (t : State) : Bool := bitOf (after t).status 0
    let whole (half : Nat) (w : Nat) : Bool := w / half % 16 = 15
    let runs (t : State) (w : Nat) : Prop :=
      (w % 256 = 255 → bitsOf (after t).status 0 3 = 1) ∧ (w % 256 ≠ 255 → whole 1 w = true → bitsOf (after t).status 0 3 = 3) ∧
      (whole 1 w = false → whole 16 w = true → bitsOf (after t).status 0 3 = 7) ∧ (whole 1 w = false → whole 16 w = false → up t = false)
    let receive := Event.biryarFlitReceive port f m
    let src := f.srcMod.toNat
    let acked (t : State) (kind lseq : BitVec 16) : Prop := ∃ r ∈ (after t).replies, r.kind = kind ∧ r.lseq = lseq ∧ flitCrc r = r.crc
    let answered (t : State) (n : Byte) : Prop := ∃ r ∈ (after t).replies.getLast?, r.kind = 3 ∧ r.pairSeq = f.pairSeq ∧
      r.dstMod = f.srcMod ∧ r.payload = [n]
    let whole_ : Prop := flitCrc f = f.crc ∧ f.kind = 0 ∧ f.lseq = b.rxSeq ∧ f.dstMod.toNat = s.hub.moduleNo ∧ bitOf f.last 0 = true ∧ s.linkTo src = some l
    let local_ := (l.pairing.find? (·.1 = msgTenant msg)).map (·.2)
    let still (t : State) : Prop := t.hbm = s.hbm ∧ t.cores = s.cores
    let inward : Port := Fin.ofNat 64 (52 + port.val % 4)
    let takes (ok : State → Prop) : Prop := ∃ t, s.Performs .biryarFlitReceive receive t ∧ acked t 1 f.lseq ∧ ok t
    (flitCrc f ≠ f.crc → ∃ t, s.Performs .biryarFlitReceive receive t ∧ t = { s with event := receive, ports := t.ports } ∧
      ∃ r ∈ (after t).replies, after t = { b with replies := b.replies ++ [r] } ∧ r.kind = 2 ∧ r.lseq = b.rxSeq ∧ flitCrc r = r.crc) ∧
    (flitCrc f = f.crc → f.kind = 0 → f.lseq ≠ b.rxSeq → s.Performs .biryarFlitReceive receive { s with event := receive }) ∧
    (flitCrc f = f.crc → f.kind = 0 → f.lseq = b.rxSeq → f.dstMod.toNat ≠ s.hub.moduleNo →
      ∃ t, s.Performs .biryarFlitReceive receive t ∧ t = { s with event := receive, ports := t.ports } ∧ (after t).rxSeq = b.rxSeq + 1 ∧
        acked t 1 f.lseq ∧ (∀ q, s.pathPort f.dstMod.toNat = some q → (t.ports[q]).txSeq = (s.ports[q]).txSeq + 1 ∧
          ∃ g ∈ (t.ports[q]).unacked, g.lseq = (s.ports[q]).txSeq ∧ g.payload = f.payload ∧ g.pairSeq = f.pairSeq ∧ g.dstMod = f.dstMod ∧
            flitCrc g = g.crc)) ∧
    (flitCrc f = f.crc → f.kind = 1 → ∃ t, s.Performs .biryarFlitReceive receive t ∧
      after t = { b with retries := 0, lastAck := s.time, unacked := b.unacked.filter fun u => (f.lseq - u.lseq).toNat ≥ 32768 }) ∧
    (flitCrc f = f.crc → f.kind = 2 → ∃ t, s.Performs .biryarFlitReceive receive t ∧ s.Sends t (.biryarNack port f.lseq) 0) ∧
    (whole_ → m = some msg → (∀ b k, msg ≠ .data b k) →
      (l.seen.contains f.pairSeq.toNat = true → (∀ x ∈ s.inbound, x.module ≠ src ∨ x.seq ≠ f.pairSeq.toNat) →
        takes fun t => answered t 0 ∧ still t) ∧
      (l.seen.contains f.pairSeq.toNat = false → (∀ o ∈ local_, s.lets o msg = false) → takes fun t => answered t 1 ∧ still t ∧
        t.inbound = s.inbound) ∧
      (∀ parts, l.seen.contains f.pairSeq.toNat = false → local_ = some tenant → (∀ k r, msg ≠ .reduce k r) →
        s.inParts tenant msg = some parts → parts ≠ [] →
        takes fun t => still t ∧ (∀ k ∈ t.linkTo src, k.seen.contains f.pairSeq.toNat = true) ∧
          ∃ x ∈ t.inbound, x.port = port ∧ x.module = src ∧ x.seq = f.pairSeq.toNat ∧ x.tenant = tenant ∧ x.out.length = parts.length ∧
            ∀ y ∈ parts, ∃ o, ∃ k ∈ ((t.die (portDie port)).outs[(o : Port)]).waiting, k.inPort = inward ∧ k.msg.ops = [y.op] ∧
              k.msg.of_ = .inbound x.id ∧ k.addr = y.addr ∧ k.bytes = y.n ∧ k.num ∈ x.out) ∧
      (∀ r, l.seen.contains f.pairSeq.toNat = false → local_ = some tenant → msg = .reduce tn r → (s.core r.dstCore).tenant = tenant →
        takes fun t => answered t 0 ∧ still t ∧ ∃ e ∈ t.agenda, ∃ z, e.what = .reductionPacketArrival z ∧ z.tile = r.tile ∧
          z.dstCore = r.dstCore ∧ z.dstNode = r.dstNode ∧ z.bitmap = r.bitmap ∧
          s.time + (if dieOf r.dstCore = portDie port then 12 else 28) + (r.tile.length + 255) / 256 ≤ e.due)) ∧
    (whole_ → m = some (.data bytes bad) → l.unacked.find? (·.pairSeq = f.pairSeq.toNat) = some p → p.ops = [.read (.peer n) va seq false] →
      takes fun t => t.peers = (s.writeSpace (.peer n) (cellsFrom va (bytes.take seq)) bad).peers ∧ still t) ∧
    (let again := (b.unacked.filter fun u => (u.lseq - lseq).toNat < 32768).length
     let fails := if b.retries = 0 ∨ b.failing ≠ lseq then 1 else b.retries + 1
     let nacks (ok : State → Prop) : Prop := ∃ t, s.Performs .biryarNack (.biryarNack port lseq) t ∧ ok t
     (again = 0 → nacks fun t => t = { s with event := .biryarNack port lseq }) ∧
     (again ≠ 0 → fails ≤ 8 → nacks fun t => (after t).retries = fails ∧ (after t).failing = lseq ∧ (after t).unacked = b.unacked ∧ up t = up s ∧
        bitsOf (after t).status 16 16 = min (bitsOf b.status 16 16 + again) 65535 ∧
        ∃ k : Fin 8, (after t).laneRetries = b.laneRetries.set k (b.laneRetries[k] + 1) ∧
          (bitOf b.status 1 = true → (bitOf b.status 2 = true ↔ 4 ≤ k.val)) ∧
          (∀ limit ∈ s.hub.laneLimit, limit ≤ b.laneRetries[k] → s.Sends t (.laneFallback port k) 0)) ∧
     (again ≠ 0 → 8 < fails → nacks fun t => up t = false ∧ bitOf (after t).status 3 = true)) ∧
    (let down := Event.portDown port
     (b.unacked = [] → s.Performs .portDown down { s with event := down }) ∧
     (b.unacked ≠ [] → s.time < b.lastAck + 32000 → ∃ t, s.Performs .portDown down t ∧ t.ports = s.ports ∧
        s.Sends t down (b.lastAck + 32000 - s.time)) ∧
     (b.unacked ≠ [] → b.lastAck + 32000 ≤ s.time → ∃ t, s.Performs .portDown down t ∧ up t = false ∧ bitOf (after t).status 3 = true ∧
        t.links = s.links ∧ ∀ l ∈ s.links, (∃ p ∈ l.unacked, p.port = port) → s.Sends t (.pathResend l.module) 0)) ∧
    (∃ t, s.Performs .laneFallback (.laneFallback port lane) t ∧ runs t ((bitsOf b.status 8 8) &&& (255 - 2 ^ lane.val)) ∧
      (up t = true → (after t).unacked = b.unacked)) ∧
    (∃ t, s.Performs .biryarPortTrained (.biryarPortTrained port lanes) t ∧ runs t lanes.toNat ∧
      bitsOf (after t).status 8 8 = lanes.toNat) ∧
    (∃ t, s.Performs .biryarStatusWrite (.biryarStatusWrite (.pairing n pairs)) t ∧ ∃ k ∈ t.linkTo n, k.pairing = pairs) ∧
    (∃ t, s.Performs .biryarStatusWrite (.biryarStatusWrite (.paths n paths)) t ∧ ∃ k ∈ t.linkTo n,
      k.paths = (paths.take 4).map fun p => ⟨p.1, p.2, false⟩) ∧
    (let put := Event.biryarStatusWrite (.slots (portDie port) out bytes)
     let u := s.modOut (portDie port) out fun o => { o with slots := slotTable bytes }
     (u.shareBroken = true → s.Performs .biryarStatusWrite put { s with event := put }) ∧
     (u.shareBroken = false → ∃ t, s.Performs .biryarStatusWrite put t ∧
        ∀ i : Fin 64, (((t.die (portDie port)).outs[out]).slots)[i] = bytes.getD i.val 0)) ∧
    (∃ t, s.Performs .biryarStatusWrite (.biryarStatusWrite (.visible tenant va open_)) t ∧ t.hbm = s.hbm ∧
      (t.tenantOf tenant).visible.contains (va / 65536) = open_) ∧
    (∃ t, s.Performs .biryarStatusWrite (.biryarStatusWrite (.breakpoints c points)) t ∧ t.core c = { s.core c with breakpoints := points } ∧
      ∀ o, o ≠ c → t.core o = s.core o) ∧
    (∃ t, s.Performs .biryarStatusWrite (.biryarStatusWrite (.laneLimit n)) t ∧ t.hub = { s.hub with laneLimit := some n } ∧ t.ports = s.ports) ∧
    (s.linkTo n = some l → l.paths[seq]? = some q → ∃ t, s.Performs .biryarStatusWrite (.biryarStatusWrite (.pathState n seq open_)) t ∧
      t.ports = s.ports ∧ (∀ k ∈ t.linkTo n, k.paths = l.paths.set seq { q with down := !open_ }) ∧
      (open_ = false → (∃ p ∈ l.unacked, p.port = q.port ∧ p.via = q.via) → s.Sends t (.pathResend n) 0)) ∧
    (∃ t, s.Performs .biryarStatusWrite (.biryarStatusWrite (.saveArea tenant va)) t ∧ (t.tenantOf tenant).saveArea = va ∧ still t) ∧
    (∃ t, s.Performs .biryarStatusWrite (.biryarStatusWrite (.readWindow (0x1000 + 8 * port.val))) t ∧ t.hub.windowData = b.status ∧ still t) ∧
    (let d := portDie port
     let x := (s.die d).banks[bank]
     let offset := 0x2000 + 0x40 * (16 * d.val + bank.val)
     (∀ r ∈ [(0x00, x.stat), (0x08, x.addr), (0x10, x.info), (0x18, x.time), (0x20, x.ce.setWidth 64)],
       ∃ t, s.Performs .biryarStatusWrite (.biryarStatusWrite (.readWindow (offset + r.1))) t ∧ t.hub.windowData = r.2 ∧ t.dies = s.dies) ∧
     ∃ t, s.Performs .biryarStatusWrite (.biryarStatusWrite (.mmio offset v)) t ∧
       (bitOf v 0 = true → (t.die d).banks[bank] = { ErrorBank.empty with ce := x.ce }) ∧
       (bitOf v 0 = false → bitOf v 2 = false → (t.die d).banks[bank] = x)) ∧
    (s.hbm.mem.wf = true → seq < 65536 → va + 8 ≤ 65536 * dst ∨ 65536 * dst + 65536 ≤ va →
      ∃ t, s.Performs .biryarStatusWrite (.biryarStatusWrite (.moveFrame n dst va)) t ∧
        t.hbm.mem.read (65536 * dst + seq) = s.hbm.mem.read (65536 * n + seq) ∧ t.cores = s.cores) ∧
    (∃ t, s.Performs .biryarStatusWrite (.biryarStatusWrite (.capabilities tenant)) t ∧ t.agenda = s.agenda ∧
      t.hbm = (s.osWrite tenant Config.capPtr.toNat s.capabilityRecords).hbm) ∧
    (bytesAt s.capabilityRecords 0 2 = 1 ∧ bytesAt s.capabilityRecords 2 1 = 1 ∧ bytesAt s.capabilityRecords 3 1 = 16 ∧
      bytesAt s.capabilityRecords 4 2 = 16 ∧ bytesAt s.capabilityRecords 16 2 = 2 ∧ bytesAt s.capabilityRecords 19 1 = 8) ∧
    (∃ t, s.Performs .biryarStatusWrite (.biryarStatusWrite (.root context va)) t ∧ t.rootOf context = va ∧ t.cores = s.cores ∧ t.hbm = s.hbm) ∧
    (s.hbm.mem.wf = true → ∃ t, s.Performs .biryarStatusWrite (.biryarStatusWrite (.pte va v)) t ∧
      Memory.readNat t.hbm.mem va 8 = v.toNat ∧ t.cores = s.cores) ∧
    (∃ t, s.Performs .biryarStatusWrite (.biryarStatusWrite (.status port v)) t ∧ up t = up s ∧
      bitOf (after t).status 3 = (bitOf b.status 3 && !bitOf v 3) ∧
      bitsOf (after t).status 16 16 = (if bitsOf v 16 16 ≠ 0 then 0 else bitsOf b.status 16 16) ∧
      bitsOf (after t).status 32 16 = (if bitsOf v 32 16 ≠ 0 then 0 else bitsOf b.status 32 16) ∧
      bitsOf (after t).status 8 8 = bitsOf b.status 8 8) ∧
    (s.linkTo n = some l → l.unacked = [p] → l.held = [] →
      (s.pathUp n p.port p.via = true → s.Performs .pathResend (.pathResend n) { s with event := .pathResend n }) ∧
      (s.pathUp n p.port p.via = false → (s.livePaths n).head? = some q → ∃ t, s.Performs .pathResend (.pathResend n) t ∧
        (t.linkTo n).map (·.unacked) = some [{ p with port := q.port, via := q.via }] ∧ (∃ e ∈ t.agenda, e.what = .endToEndAck n p.pairSeq) ∧
        (p.port ≠ q.port → ∃ g ∈ (t.ports[q.port]).unacked, g.lseq = (t.ports[q.port]).txSeq - 1 ∧ g.pairSeq = BitVec.ofNat 32 p.pairSeq)) ∧
      (s.pathUp n p.port p.via = false → s.livePaths n = [] → ∃ t, s.Performs .pathResend (.pathResend n) t ∧
        (t.linkTo n).map (·.unacked) = some [])) ∧
    (s.linkTo n = some l → l.unacked.find? (·.pairSeq = seq) = some p →
      (peerBehind l.unacked p = true → ∃ t, s.Performs .endToEndAck (.endToEndAck n seq) t ∧ t.links = s.links ∧
        s.Sends t (.endToEndAck n seq) 1) ∧
      (peerBehind l.unacked p = false → l.held = [] → ∃ t, s.Performs .endToEndAck (.endToEndAck n seq) t ∧
        (t.linkTo n).map (·.unacked) = some (l.unacked.filter (·.pairSeq ≠ seq)) ∧
        ∀ c id k, p.copy = some (c, id) → (s.core c).copies.find? (·.id = id) = some k → k.srcs = [] → k.dsts = [] →
          (∀ sp a i b, p.ops.head? ≠ some (.read sp a i b)) →
          ((t.core c).copies.find? (·.id = id)).map (·.out) = some (k.out.erase p.num)))


/-- R11, R79–R81, R275, R314, R321, R322, R363, R368–R370: what the host and the module OS write. A function's block is its tenant's: the
physical function's block is tenant 0's while virtual function 1 is disabled, and before the module OS runs there is none (log entry 100).
ACTIVATE puts an activation behind the others, and what a module that accepts nothing does with it is log entry 98's; CANCEL faults the tenant's
kernel; GBASE, GCOUNT, LOGBASE and LOGLEN take their bits and read back, and LOGHEAD reads modulo LOGLEN; each function enables its own vectors;
BAR 2 reaches the tenant's memory where its pages are open to the host, and elsewhere reads as ones and discards (log entry 84); error banks are
cleared by ones. A refused image or tenant pool is noted in the module OS's log (log entry 50), and no image is taken before the module OS runs.
A core changes owner with its Plate cleared, once no kernel holds it, and the change is tried again after 64 die cycles (log entry 122). -/
def Obligations.HostSteps : Prop :=
  ∀ (s : State) (fn : Fin 9) (tn : TenantId) (v : Word) (num kid : BitVec 32) (off : Nat) (d : DieId) (bank : Fin 16) (c : CoreId)
    (u : Fin 8) (bytes : List Byte) (n a1 a2 a3 a4 a5 : Nat) (own : Option TenantId) (w : Kernel) (enabled : List Nat),
    let k := s.tenantOf tn
    let live := s.hub.phase ≠ .off ∧ s.hub.phase ≠ .updateOnly
    let acts : Prop := live ∧ ((fn.val = tn.val + 1 ∧ k.vf = true) ∨ (fn = 0 ∧ tn = 0 ∧ k.vf = false))
    let b := (s.die d).banks[bank]
    let e : Fin 5 := Fin.ofNat 5 d.val
    let noted (t : State) : Prop := t.hub.osLog.length = s.hub.osLog.length + 1 ∧ t.kernels = s.kernels ∧ t.cores = s.cores ∧ t.hbm = s.hbm
    let load := Event.kernelImageLoad tn bytes a1 a2 a3 a4 a5
    let create := Event.tenantPoolCreate tn c u bytes
    let dst : CoreId := Fin.ofNat 128 (n / 8)
    let here := (s.core dst).pools[Fin.ofNat 8 n]
    let change := Event.coreOwnershipChange c own
    (acts → s.hub.phase = .ready → s.hub.accepting = true → num.toNat < k.gcount.toNat → k.pending.length < 4096 →
      ∃ t, s.Performs .activate (.activate fn num) t ∧ ∃ a ∈ (t.tenantOf tn).pending, (t.tenantOf tn).pending = k.pending ++ [a] ∧
        a.node = num.toNat ∧ a.gbase = k.gbase.toNat ∧ a.gcount = k.gcount.toNat ∧ a.staged = none ∧ a.readyAt = s.time) ∧
    (acts → s.hub.phase ≠ .ready ∨ s.hub.accepting = false → ∃ t, s.Performs .activate (.activate fn num) t ∧ noted t ∧ t.tenants = s.tenants) ∧
    (fn.val = tn.val + 1 → k.vf = false → s.Performs .activate (.activate fn num) { s with event := .activate fn num }) ∧
    (acts → s.kernel kid.toNat = some w → w.fault = none →
      (w.tenant = tn → ∃ t, s.Performs .cancel (.cancel fn kid) t ∧ t.cores = s.cores ∧ s.Sends t (.kernelEnd w.kid) 0 ∧
        ∃ x ∈ t.kernel kid.toNat, ∃ f ∈ x.fault, f.host = true ∧ x = { w with fault := some f }) ∧
      (w.tenant ≠ tn → s.Performs .cancel (.cancel fn kid) { s with event := .cancel fn kid })) ∧
    (∃ t, s.Performs .hostRegisterWrite (.hostRegisterWrite fn (.readReg off)) t ∧ t.cores = s.cores ∧ t.hbm = s.hbm ∧ t.tenants = s.tenants ∧
      bytesNat t.hub.hostData = (s.blockRead fn off).toNat) ∧
    (acts → off ∉ [0, 8, 0x18, 0x20, 0x28, 0x30] → s.blockRead fn off = 0) ∧
    (acts → s.blockRead fn 0x18 = BitVec.ofNat 64 k.pending.length ∧ s.blockRead fn 0 = k.gbase ∧
      (s.blockRead fn 8).toNat = k.gcount.toNat ∧ s.blockRead fn 0x20 = k.logbase ∧ (s.blockRead fn 0x28).toNat = k.loglen.toNat ∧
      (s.blockRead fn 0x30).toNat = k.loghead.toNat % max 1 k.loglen.toNat) ∧
    (s.hub.phase = .updateOnly → s.blockRead 0 off = BitVec.allOnes 64) ∧
    (¬ live → (fn ≠ 0 → s.blockRead fn off = 0) ∧ s.Performs .activate (.activate fn num) { s with event := .activate fn num } ∧
      s.Performs .cancel (.cancel fn kid) { s with event := .cancel fn kid }) ∧
    (∃ t, s.Performs .hostRegisterWrite (.hostRegisterWrite fn (.memory a1 bytes)) t ∧ t.tenants = s.tenants ∧ t.cores = s.cores ∧
      t.hbm = s.hbm ∧ (s.host.mem.wf = true → Memory.readBytes t.host.mem a1 bytes.length = bytes)) ∧
    (acts → s.hostVisible tn a1 n = true → ∀ bs b, s.readVa tn a1 n = some (bs, b) →
      ∃ t, s.Performs .hostRegisterWrite (.hostRegisterWrite fn (.read a1 n)) t ∧ t.hub.hostData = bs ∧ t.hbm = s.hbm ∧ t.cores = s.cores) ∧
    (acts → s.hostVisible tn a1 n = false →
      ∃ t, s.Performs .hostRegisterWrite (.hostRegisterWrite fn (.read a1 n)) t ∧ t.hub.hostData = List.replicate n 0xFF ∧ t.hbm = s.hbm) ∧
    (acts → s.hostVisible tn a1 bytes.length = true → s.Performs .hostRegisterWrite (.hostRegisterWrite fn (.write a1 bytes))
      ({ s with event := .hostRegisterWrite fn (.write a1 bytes) }.writeVa tn a1 bytes)) ∧
    (acts → s.hostVisible tn a1 bytes.length = false → s.Performs .hostRegisterWrite (.hostRegisterWrite fn (.write a1 bytes))
      { s with event := .hostRegisterWrite fn (.write a1 bytes) }) ∧
    (acts → ∃ t, s.Performs .hostRegisterWrite (.hostRegisterWrite fn (.writeReg off v)) t ∧
      t.tenantOf tn = (if off = 0 then { k with gbase := v &&& 0xFFFFFFFFFFC0 } else if off = 8 then { k with gcount := v.setWidth 32 }
        else if off = 0x20 then { k with logbase := v &&& 0xFFFFFFFFFFC0 } else if off = 0x28 then { k with loglen := v.setWidth 16 } else k) ∧
      (∀ o, o ≠ tn → t.tenantOf o = s.tenantOf o) ∧ t.cores = s.cores ∧ t.agenda = s.agenda) ∧
    (s.Performs .hostRegisterWrite (.hostRegisterWrite fn (.vectors enabled)) { s with
      event := .hostRegisterWrite fn (.vectors enabled), hub := { s.hub with vectors := s.hub.vectors.set fn (enabled.filter (· < 2048)) } }) ∧
    (∃ t, s.Performs .vfEnable .vfEnable t ∧ t.blockOf 0 = none ∧ (live → t.blockOf 1 = some 0) ∧ ∀ o, o ≠ 0 → t.tenantOf o = s.tenantOf o) ∧
    (∃ t, s.Performs .vfDisable .vfDisable t ∧ (live → t.blockOf 0 = some 0) ∧ t.blockOf 1 = none ∧ ∀ o, o ≠ 0 → t.tenantOf o = s.tenantOf o) ∧
    (∃ t, s.Performs .ebstatWrite (.ebstatWrite e bank v) t ∧ t.cores = s.cores ∧
      (t.die d).banks[bank] = (if v.getLsbD 0 then { stat := 0, addr := 0, info := 0, time := 0, ce := b.ce }
        else if v.getLsbD 2 then { b with stat := b.stat &&& 0xFFFFFFFFFFFFFFFB } else b)) ∧
    (∃ t, s.Performs .ebceWrite (.ebceWrite e bank v) t ∧ t.cores = s.cores ∧
      (t.die d).banks[bank] = { b with ce := if v.toNat % 2 ^ 32 = 0 then b.ce else 0 }) ∧
    (live → bytesAt bytes 0 4 ≠ 0x4D494B57 ∨ ascending (imagePoints bytes) = false → ∃ t, s.Performs .kernelImageLoad load t ∧ noted t) ∧
    (¬ live → s.Performs .kernelImageLoad load { s with event := load }) ∧
    (live → imageRefused bytes = false → ∃ t, s.Performs .kernelImageLoad load t ∧ t.hub = s.hub ∧ t.kernels = s.kernels ∧ t.agenda = s.agenda ∧
      (t.core c).x = (s.core c).x) ∧
    (s.ownerOf c = some tn → s.privatePoolOk tn bytes = true → bytesAt bytes 19 1 ≠ 0 → (s.core c).pools[u] = none →
      ∃ t, s.Performs .tenantPoolCreate create t ∧ ∃ p ∈ (t.core c).pools[u], p.kid = none ∧ p.tenant = tn ∧ p.s = bytesAt bytes 16 1 ∧
        p.r = bytesAt bytes 17 1 ∧ p.w = bytesAt bytes 18 1 ∧ p.seq = 0 ∧ p.opens = 0 ∧ p.pins = 0 ∧ p.fresh = 0x7F ∧
        t.core c = { s.core c with pools := (s.core c).pools.set u (some p) }) ∧
    (s.ownerOf c ≠ some tn ∨ s.privatePoolOk tn bytes = false ∨ bytesAt bytes 19 1 = 0 ∨ (s.core c).pools[u] ≠ none →
      ∃ t, s.Performs .tenantPoolCreate create t ∧ noted t) ∧
    (n < 1024 → ∃ t, s.Performs .tenantPoolDestroy (.tenantPoolDestroy n) t ∧
      t.core dst = { s.core dst with pools := (s.core dst).pools.set (Fin.ofNat 8 n) (if here.any (·.kid.isSome) then here else none) }) ∧
    (s.ownerOf c = own → s.Performs .coreOwnershipChange change { s with event := change }) ∧
    (s.ownerOf c ≠ own → (∀ k ∈ s.kernels, c ∉ k.cores) → ∃ t, s.Performs .coreOwnershipChange change t ∧ t.ownerOf c = own ∧
      t.core c = { s.core c with plate := [], marks := [], wiped := [], flags := [], guards := [] } ∧ ∀ o, o ≠ c → t.core o = s.core o) ∧
    (s.ownerOf c ≠ own → s.kernels.find? (fun k => k.cores.contains c) = some w → ∃ t, s.Performs .coreOwnershipChange change t ∧ t.hub = s.hub ∧
      s.Sends t (.preemptRequest w.kid) 0 ∧ s.Sends t change 64)

/-- R367, R370–R376: boot, management and shutting down. The first flash copy that verifies starts the module OS; with none, only an update is
taken. The module OS clears the Plates, takes the expanders of type 3, enables the virtual functions and starts the Easel. Once it runs, requests
are answered, measurements by their index (the words of an answer are the model's: log entries 59 and 95), and change nothing that a program
sees. An update never replaces the only copy that verifies. A power limit is taken from 1,500 to 3,600 W. At 105 °C, and above the limit, cores are
held in die time; at 120 °C the module accepts nothing more and asks its kernels to leave (log entry 98). Only flash survives a loss of power; the
values that cores, dies and memories then have are those of reset (log entries 1 and 2). What boot, management and heat do beyond this is as
log entries 43 and 49 have it. -/
def Obligations.ModuleSteps : Prop :=
  ∀ (s : State) (repair : List (DieId × Fin 64 × Nat)) (owners : List (CoreId × TenantId)) (n : Nat) (j : Fin 2) (img i : FlashImage)
    (d : DieId) (c : CoreId) (tables : List OsWrite) (found : List (Fin 4 × Bool × Nat)) (temp : Int),
    let good (j : Fin 2) : Bool := (s.hub.flash[j]).any fun i => i.verifies && s.hub.minVersion ≤ i.version
    let same (i : Instr) (e : Event) : Prop := s.Performs i e { s with event := e }
    let init := Event.moduleOsInit repair owners n tables found
    let heat := Event.thermalLimit d temp n
    let answered (i : Instr) (e : Event) (a : List Nat) : Prop :=
      s.Performs i e { s with event := e, hub := { s.hub with reports := s.hub.reports + 1, answer := a } }
    let tooMuch := s.hub.powerLimit < n
    let live := s.hub.phase ≠ .off ∧ s.hub.phase ≠ .updateOnly
    let u := s.core c
    (s.hub.phase = .off → good 0 = true → s.hub.flash[(0 : Fin 2)] = some i → ∃ t, s.Performs .powerOn .powerOn t ∧
      t.hub = { s.hub with phase := .osStarted, booted := some i } ∧ t.cores = s.cores ∧
      ∀ d : DieId, ∀ g : Reg, s.Sends t (.wsBackstopRefresh d g) 102400) ∧
    (s.hub.phase = .off → good 0 = false → good 1 = true → s.hub.flash[(1 : Fin 2)] = some i → ∃ t, s.Performs .powerOn .powerOn t ∧
      t.hub = { s.hub with phase := .osStarted, booted := some i }) ∧
    (s.hub.phase = .off → good 0 = false → good 1 = false → ∃ t, s.Performs .powerOn .powerOn t ∧
      t.hub = { s.hub with phase := .updateOnly } ∧ t.agenda = s.agenda) ∧
    (s.hub.phase ≠ .off → same .powerOn .powerOn) ∧
    (s.hub.phase = .osStarted → ∃ t, s.Performs .moduleOsInit init t ∧ t.hub.phase = .ready ∧
      t.hub.powerLimit = (if 1500 ≤ n ∧ n ≤ 3600 then n else s.hub.powerLimit) ∧ (∀ tn : TenantId, (t.tenantOf tn).vf = true) ∧
      t.hub.repairMaps = s.hub.repairMaps ++ repair ∧ t.hub.expanders = (found.filter (·.2.1)).map (fun e => (e.1, e.2.2)) ∧ (t.core c).x = u.x ∧
      (tables = [] → s.hbm.mem = [] → (t.core c).plate = [] ∧ (t.core c).marks = [] ∧ (t.core c).guards = []) ∧
      t.ownerOf c = (owners.find? (·.1 = c)).map (·.2) ∧ s.Sends t .lifeRecordUpdate (600 * 1600000000)) ∧
    (s.hub.phase ≠ .osStarted → same .moduleOsInit init) ∧
    (live → answered .spdmRequest (.spdmRequest n) (s.measurement n)) ∧
    (¬ live → same .spdmRequest (.spdmRequest n) ∧ same .pldmReport .pldmReport ∧ same .powerLimitSet (.powerLimitSet n)) ∧
    (s.measurement 1 = [Config.romDigest] ∧ s.measurement 2 = (s.hub.booted.map (·.digest)).toList ∧
      s.measurement 3 = [s.hub.configDigest] ∧ s.measurement 4 = s.hub.repairMaps.flatMap (fun r => [r.1.val, r.2.1.val, r.2.2]) ∧
      s.measurement 5 = s.hub.owners.toList.map (fun o => (o.map Fin.val).getD 8) ∧ (5 < n → s.measurement n = [])) ∧
    (live → answered .pldmReport .pldmReport s.pldmWords) ∧
    (good j = true → good (1 - j) = false → same .pldmFwUpdate (.pldmFwUpdate j img)) ∧
    (good j = false ∨ good (1 - j) = true → s.Performs .pldmFwUpdate (.pldmFwUpdate j img)
      { s with event := .pldmFwUpdate j img, hub := { s.hub with flash := s.hub.flash.set j (some img) } }) ∧
    (live → 1500 ≤ n ∧ n ≤ 3600 → s.Performs .powerLimitSet (.powerLimitSet n)
      { s with event := .powerLimitSet n, hub := { s.hub with powerLimit := n } }) ∧
    (n < 1500 ∨ 3600 < n → same .powerLimitSet (.powerLimitSet n)) ∧
    (temp < 105 → ¬ tooMuch → ∃ t, s.Performs .thermalLimit heat t ∧ (t.die d).celsius = temp ∧ t.cores = s.cores ∧
      t.hub = { s.hub with watts := n }) ∧
    (105 ≤ temp ∨ tooMuch → ∃ t, s.Performs .thermalLimit heat t ∧ (t.die d).celsius = temp ∧ (t.core c).x = u.x ∧ t.hub.watts = n ∧
      (dieOf c ≠ d → ¬ tooMuch → t.core c = u) ∧
      (dieOf c = d ∨ tooMuch → u.activity = .running → u.freeze = none → ∃ f ∈ (t.core c).freeze, ∃ m ∈ (match f with | .untilCycle m => some m | _ => none),
        s.now c < m)) ∧
    (120 ≤ temp → s.hub.phase = .ready → ∃ t, s.Performs .thermalLimit heat t ∧ t.hub.accepting = false ∧ t.hub.closing = true ∧
      ∀ k ∈ s.kernels, k.started = true → k.saved = none → s.Sends t (.preemptRequest k.kid) 0) ∧
    (∃ t, s.Performs .powerLoss .powerLoss t ∧ t.hub.phase = .off ∧ t.hub.flash = s.hub.flash ∧ t.hub.lifeFlash = s.hub.lifeFlash ∧
      t.cores = State.reset.cores ∧ t.hbm = Store.empty ∧ t.kernels = [] ∧ t.agenda = [] ∧ t.dies = State.reset.dies)

/-- R306–R309, R313, R320: the graph nodes, of a tenant without a completion log so that its successors alone count. Each takes its activation; COND follows NEXT or ALT by its word,
LOOP counts its word down and follows NEXT until it is 0, JOIN follows when it has arrived COUNT times, SIGNAL stores or interrupts, COPY goes
on one command at a time, KERN makes an instance of its record, END ends. What is malformed, unreadable or refused follows ERR, with an entry in the tenant's
log where it has one. The order of nodes, the target of SIGNAL and the copy engine are as log entries 48, 51 and 53 have them, successors are
discarded where the module accepts nothing (log entry 98), and what LOOP's and SIGNAL's stores release is log entry 92's. -/
def Obligations.GraphNodes : Prop :=
  ∀ (s : State) (a : Activation) (bs r : List Byte) (w : Word) (h : HubCopy) (src dst : StreamBinding),
    let tn := a.tenant
    let k := s.tenantOf tn
    let field (off n : Nat) : Nat := bytesAt bs off n
    let taken := k.pending.filter (·.order ≠ a.order)
    let pending (t : State) : List Activation := (t.tenantOf tn).pending
    let follows (n : Nat) (t : State) : Prop :=
      (n = 0xFFFFFFFF ∨ s.hub.accepting = false → pending t = taken) ∧
      (s.hub.accepting = true → n < a.gcount → n ≠ 0xFFFFFFFF → taken.length < 4096 →
        ∃ v ∈ pending t, pending t = taken ++ [v] ∧ v.node = n ∧ v.gbase = a.gbase ∧ v.gcount = a.gcount ∧ v.tenant = tn)
    let does (i : Instr) (e : Activation → Event) (ok : State → Prop) : Prop := ∃ t, s.Performs i (e a) t ∧ ok t
    let fails (i : Instr) (e : Activation → Event) : Prop := does i e fun t => follows (field 12 4) t ∧ t.hbm = s.hbm ∧ t.kernels = s.kernels
    let stored (va : Nat) (v : List Byte) : State := s.writeVa tn va v
    let sound (t : State) : Prop := ∀ b ∈ t.nodeBytes tn a.gbase a.node, b.take 16 = bs.take 16
    let entry := LogEntry.plain a.node 4 1
    let vectors := s.hub.vectors[s.functionOf tn]
    s.nodeBytes tn a.gbase a.node = some bs →
    (endMalformed bs = true → k.loglen ≠ 0 → field 12 4 = 0xFFFFFFFF →
      ((s.takeActivation a).logEntry tn entry).nodeBytes tn a.gbase a.node = some bs → does .endNode .endNode fun t => pending t = taken ∧
        (t.tenantOf tn).loghead.toNat = (k.loghead.toNat + 1) % k.loglen.toNat ∧
        t.cores = (stored (k.logbase.toNat + 64 * (k.loghead.toNat % k.loglen.toNat)) entry.bytes).cores) ∧
    (k.loglen = 0 →
    (condMalformed bs = true → fails .condNode .condNode) ∧ (loopMalformed bs = true → fails .loopNode .loopNode) ∧
    (joinMalformed bs = true → fails .joinNode .joinNode) ∧ (signalMalformed bs = true → fails .signalNode .signalNode) ∧
    (endMalformed bs = true → fails .endNode .endNode) ∧ (kernMalformed bs = true → fails .kernNode .kernNode) ∧
    (condMalformed bs = false → s.graphWord tn (field 16 8) = none → fails .condNode .condNode) ∧
    (condMalformed bs = false → s.graphWord tn (field 16 8) = some w →
      does .condNode .condNode (follows (field (if condHolds (field 32 1) w (BitVec.ofNat 64 (field 24 8)) then 4 else 8) 4))) ∧
    (loopMalformed bs = false → s.graphWord tn (field 16 8) = some w → (s.placeOf tn (field 16 8) .write).isSome = true →
      (w = 0 → does .loopNode .loopNode fun t => follows (field 8 4) t ∧ t.hbm = s.hbm ∧ t.cores = s.cores) ∧
      (w ≠ 0 → does .loopNode .loopNode fun t => follows (field 4 4) t ∧
        t.hbm.mem = (stored (field 16 8) (natBytes 8 (w.toNat - 1))).hbm.mem ∧
        ∀ c, (t.core c).plate = ((stored (field 16 8) (natBytes 8 (w.toNat - 1))).core c).plate)) ∧
    (joinMalformed bs = false → field 20 4 + 1 ≠ field 16 4 → does .joinNode .joinNode fun t => pending t = taken ∧
      t.cores = (stored (a.gbase + 64 * a.node + 20) (natBytes 4 (field 20 4 + 1))).cores) ∧
    (joinMalformed bs = false → field 20 4 + 1 = field 16 4 → field 8 4 = 0xFFFFFFFF → sound (stored (a.gbase + 64 * a.node + 20) (natBytes 4 0)) →
      (stored (a.gbase + 64 * a.node + 20) (natBytes 4 0)).nodeBytes tn a.gbase a.node ≠ none →
      does .joinNode .joinNode fun t => follows (field 4 4) t ∧ t.cores = (stored (a.gbase + 64 * a.node + 20) (natBytes 4 0)).cores) ∧
    (signalMalformed bs = false → field 8 4 = 0xFFFFFFFF →
      (field 32 1 = 2 → field 33 2 ∈ vectors → does .signalNode .signalNode fun t => follows (field 4 4) t ∧
        (t.tenantOf tn).msix = k.msix ++ [field 33 2] ∧ t.host = s.host) ∧
      (field 32 1 = 2 → field 33 2 ∉ vectors → fails .signalNode .signalNode) ∧
      (field 32 1 % 2 = 1 → s.signalPlace tn (field 16 8) = none → fails .signalNode .signalNode) ∧
      (field 32 1 % 2 = 1 → (s.signalPlace tn (field 16 8)).isSome = true → does .signalNode .signalNode fun t =>
        t.host.mem = (stored (field 16 8) ((bs.drop 24).take 8)).host.mem ∧ t.hbm.mem = (stored (field 16 8) ((bs.drop 24).take 8)).hbm.mem ∧
        (t.tenantOf tn).msix = k.msix ++ (if field 32 1 = 3 ∧ field 33 2 ∈ vectors then [field 33 2] else []))) ∧
    (endMalformed bs = false → does .endNode .endNode fun t => pending t = taken ∧ t.cores = s.cores ∧ t.hbm = s.hbm ∧ t.agenda = s.agenda) ∧
    (kernMalformed bs = false → s.readVa tn (field 16 8) 256 = some (r, false) →
      (s.refusal tn r a.staged ≠ none → fails .kernNode .kernNode) ∧
      (s.refusal tn r a.staged = none → a.staged = none → does .kernNode .kernNode fun t => pending t = taken ∧
        (∃ v ∈ t.kernels, t.kernels = s.kernels ++ [v] ∧ v.kid = s.nextKid ∧ v.tenant = tn ∧ v.record = r ∧ v.started = false) ∧
        s.Sends t (.kernelPlacement s.nextKid) 0)) ∧
    (s.copyNodes.find? (·.id = a.order) = none → copyMalformed bs = true → fails .copyNode .copyNode) ∧
    (s.copyNodes.find? (·.id = a.order) = none → copyMalformed bs = false → field 36 1 = 0 → s.recordAt tn (field 16 8) = some src →
      s.recordAt tn (field 24 8) = some dst → does .copyNode .copyNode fun t => pending t = taken ∧
        t.copyNodes = s.copyNodes ++ [{ act := a, id := a.order, left := field 32 4, src, dst, dies := [] }] ∧
        ∃ e ∈ t.agenda, e.what = .copyNode a ∧ s.time < e.due)) ∧
    (s.copyNodes.find? (·.id = a.order) = some h →
      let status := (({ s with event := .copyNode a }.takeActivation a).hubCommand tn ⟨scopeOfCode (bytesAt bs 37 1 % 8), a.known⟩ (copyCmd bs) (bytesAt bs 40 4) h.src h.dst).2
      (status = 0 → 1 < h.left → does .copyNode .copyNode fun t =>
        t.copyNodes = (s.copyNodes.map fun x => if x.id = h.id
          then { h with left := h.left - 1, src := h.src.advance 1, dst := h.dst.advance 1 } else x) ∧ ∃ e ∈ t.agenda, e.what = .copyNode a) ∧
      (status ≠ 0 ∨ h.left ≤ 1 → does .copyNode .copyNode fun t => t.copyNodes = s.copyNodes.filter (·.id ≠ a.order)))

/-- R9, R16, R276, R288, R311, R316, R318, R320–R324: a kernel's life. Placed, its cores take their start values; staged, its Plate image and
translations are ready, and it starts once its launcher has ended; each iteration starts on a core that has none with the values of R16. A
faulted kernel's rings break and its group's FAULT flags are set once its operations have been serviced; at the end, all of its operations
serviced, its cores are released; until then the end is tried again in the next die cycle (log entry 83). A request to leave keeps the walker from
starting iterations, and is completed by a save that frees the cores, or withdrawn after 1 ms; a saved kernel resumes on one of the placements that
have the cores (log entry 104); a core at its stop counts as stopped (log entry 114). The start of a gang, the save and the retries of a placement are as log entries 45, 46, 47, 80 and 81 have them. -/
def Obligations.KernelSteps : Prop :=
  ∀ (s : State) (kid : Nat) (k : Kernel) (c : CoreId) (cs : List CoreId) (w : Kernel) (ctx : List SavedCore) (t0 n : Nat),
    let u := s.core c
    let places := placementsLike k.record (s.freeCore k.tenant none)
    let waitsOn : Prop := s.unserviced k = true ∨ s.nodesBusy k = true ∨ ∃ c ∈ k.cores, s.stuckStores c ≠ []
    let does (i : Instr) (e : Nat → Event) (ok : State → Prop) : Prop := ∃ t, s.Performs i (e kid) t ∧ ok t
    let idle (i : Instr) (e : Nat → Event) : Prop := s.Performs i (e kid) { s with event := e kid }
    s.kernel kid = some k →
    (k.waits = true → s.firstWaiting k = true → placementOf k.record (s.freeCore k.tenant none) = some cs →
      s.startBarred k cs = false → does .kernelPlacement .kernelPlacement fun t =>
        (∃ k' ∈ t.kernel kid, k'.started = true ∧ k'.cores = cs ∧ k'.record = k.record ∧ k'.nextIter = k.nextIter) ∧
        (∀ c ∈ cs, (t.core c).activity = .idle ∧ (t.core c).kernid = BitVec.ofNat 32 kid ∧ (t.core c).tenant = k.tenant ∧
          (t.core c).sems = Vector.replicate 32 ⟨0, false⟩ ∧ (t.core c).sclk = 0 ∧ (t.core c).vstat = 0) ∧
        (∀ c, c ∉ cs → (t.core c).x = (s.core c).x) ∧ s.Sends t (.iterationStart kid) 0) ∧
    (k.waits = true → s.firstWaiting k = true → placementOf k.record (s.freeCore k.tenant none) = some cs → s.startBarred k cs = true →
      does .kernelPlacement .kernelPlacement fun t => t.cores = s.cores ∧ t.kernels = s.kernels ∧ s.Sends t (.kernelPlacement kid) 64) ∧
    (k.waits = true → s.firstWaiting k = true → placementOf k.record (s.freeCore k.tenant none) = none →
      (s.preemptable k = some w → does .kernelPlacement .kernelPlacement fun t => t.kernels = s.kernels ∧ s.Sends t (.preemptRequest w.kid) 0) ∧
      (s.preemptable k = none → idle .kernelPlacement .kernelPlacement)) ∧
    (k.started = false → k.fault = none → k.staged = some n → k.stagedReady = true → s.kernel n = none → s.startBarred k k.cores = false →
      does .kernelPlacement .kernelPlacement fun t =>
        (∃ k' ∈ t.kernel kid, k'.started = true ∧ k'.cores = k.cores ∧ k'.staged = none) ∧ s.Sends t (.iterationStart kid) 0) ∧
    (k.started = true → idle .kernelPlacement .kernelPlacement ∧ idle .stagingComplete .stagingComplete) ∧
    (k.started = false → k.fault = none → does .stagingComplete .stagingComplete fun t =>
      (∃ k' ∈ t.kernel kid, k'.stagedReady = true ∧ k'.cores = k.cores) ∧ s.Sends t (.kernelPlacement kid) 0 ∧ (t.core c).x = u.x) ∧
    (k.started = true → k.fault = none → k.preempt = none → k.saved = none → k.nextIter < k.total → s.nextCore k = some c →
      s.gangFirst k c = false → s.now c < k.lastStart → does .iterationStart .iterationStart fun t =>
        t.cores = s.cores ∧ t.kernels = s.kernels ∧ s.Sends t (.iterationStart kid) (k.lastStart - s.now c)) ∧
    (k.started = true → k.fault = none → k.preempt = none → k.saved = none → k.nextIter < k.total → s.nextCore k = some c →
      s.gangFirst k c = true ∨ k.lastStart ≤ s.now c → does .iterationStart .iterationStart fun t =>
        (t.core c).freeze = some (.untilCycle (if s.gangFirst k c = true then k.gangStart (dieOf c)
          else max ((u.haltedAt.map (· + 16)).getD 0) (s.now c))) ∧
        (t.core c).activity = .running ∧ (t.core c).iter = k.nextIter ∧ (t.core c).x[(0 : Fin 32)] = 0 ∧ (t.core c).x[(23 : Fin 32)] = k.argp ∧
        (t.core c).x[(30 : Fin 32)] = BitVec.ofNat 64 k.nextIter ∧ (t.core c).chain.c0 = BitVec.ofNat 64 (bytesAt k.record 0 8) ∧
        (t.core c).masks = Vector.replicate 8 (BitVec.allOnes 4096) ∧ (t.core c).plate = u.plate ∧ (t.core c).sems = u.sems ∧
        (t.core c).vstat = u.vstat ∧ (∃ k' ∈ t.kernel kid, k'.nextIter = k.nextIter + 1) ∧ s.Sends t (.iterationStart kid) 0) ∧
    (k.total ≤ k.nextIter ∨ k.preempt ≠ none ∨ s.nextCore k = none → idle .iterationStart .iterationStart) ∧
    (k.fault ≠ none → k.broken = false → (∀ f ∈ k.fault, s.signalsOut k f.marked = true) → does .kernelEnd .kernelEnd fun t =>
      t.cores = s.cores ∧ t.kernels = s.kernels ∧ s.Sends t (.kernelEnd kid) 1) ∧
    (k.fault ≠ none → k.broken = false → (∀ f ∈ k.fault, s.signalsOut k f.marked = false) → does .kernelEnd .kernelEnd fun t =>
      (∃ k' ∈ t.kernel kid, k' = { k with broken := true }) ∧ s.Sends t (.kernelEnd kid) 0 ∧
      ∀ c ∈ k.cores, (s.core c).kernid.toNat = kid → ∀ i : Reg, ((t.core c).sems[i]).fault = true) ∧
    (k.fault = none ∨ k.broken = true → s.kernelOver k = false → idle .kernelEnd .kernelEnd) ∧
    (k.fault = none ∨ k.broken = true → s.kernelOver k = true → s.unserviced k = true → does .kernelEnd .kernelEnd fun t =>
      t.cores = s.cores ∧ t.kernels = s.kernels ∧ s.Sends t (.kernelEnd kid) 1) ∧
    (k.fault = none ∨ k.broken = true → s.kernelOver k = true → s.unserviced k = false → does .kernelEnd .kernelEnd fun t => t.kernel kid = none ∧
      ∀ c ∈ s.coresOf k, (t.core c).activity = .idle ∧ (t.core c).kernid = 0 ∧ (t.core c).guards = []) ∧
    (k.started = true → k.saved = none → k.fault = none → k.preempt = none → does .preemptRequest .preemptRequest fun t =>
      (∃ k' ∈ t.kernel kid, k' = { k with preempt := some s.time }) ∧ t.cores = s.cores ∧
      s.Sends t (.preemptSave kid) 0 ∧ s.Sends t (.preemptWithdraw kid) 1600000) ∧
    (k.preempt ≠ none → k.saved = none → k.fault = none → k.done ≠ k.total → s.allStopped k = true → ¬ waitsOn →
      does .preemptSave .preemptSave fun t =>
        (∃ k' ∈ t.kernel kid, k'.cores = [] ∧ k'.preempt = none ∧ (k'.saved.map List.length) = some k.cores.length) ∧
        ∀ c ∈ k.cores, (t.core c).activity = .idle ∧ (t.core c).kernid = 0 ∧ (t.core c).x = (s.core c).x) ∧
    (k.preempt ≠ none → k.saved = none → k.fault = none → k.done ≠ k.total → s.allStopped k = true →
      waitsOn → does .preemptSave .preemptSave fun t => t.cores = s.cores ∧ t.kernels = s.kernels ∧
        s.Sends t (.preemptSave kid) 1) ∧
    (s.allStopped k = false → idle .preemptSave .preemptSave) ∧
    (k.preempt = some t0 → k.saved = none → t0 + 1600000 ≤ s.time → does .preemptWithdraw .preemptWithdraw fun t =>
      (∃ k' ∈ t.kernel kid, k' = { k with preempt := none }) ∧ s.Sends t (.iterationStart kid) 0 ∧
      ∀ c ∈ k.cores, (s.core c).activity = .preempted → t.core c = { s.core c with activity := .running }) ∧
    (k.preempt = none → idle .preemptWithdraw .preemptWithdraw) ∧
    (k.saved = some ctx → k.fault = none → places[s.choice % places.length]? = some cs → cs.Nodup →
      (∀ w ∈ s.kernels, w.tenant = k.tenant → w.waits = true → w.prio ≤ k.prio) → s.resumeBarred k ctx cs = false →
      does .resumption .resumption fun t =>
        (∃ k' ∈ t.kernel kid, k'.cores = cs ∧ k'.saved = none) ∧ s.Sends t (.iterationStart kid) 0 ∧
        ∀ p ∈ ctx.zip cs, (t.core p.2).kernid = BitVec.ofNat 32 kid ∧ (t.core p.2).sclk = p.1.sclk ∧ (t.core p.2).chain.c0 = p.1.addr ∧
          (t.core p.2).activity = (if p.1.running then .running else .idle) ∧ (t.core p.2).lc = p.1.lc ∧ (t.core p.2).mode = p.1.mode) ∧
    (k.saved = none → idle .resumption .resumption)


/-! ### The whole machine -/

/-- R9, R256, R372: after reset no part of the module works: every core is idle with nothing queued, in flight, pending or
recorded, every memory lists nothing, time stands at zero and nothing is on its way. The values of the general registers, masks and
permutation registers, and the phase of the module OS, are the model's choice (log entry 1), as are the empty memories (log entry 2). -/
def Obligations.ResetState : Prop :=
  ∀ (c : CoreId) (d : DieId) (n : Reg) (e : Fin 5),
    let s := State.reset
    let k := s.core c
    (k.activity = .idle ∧ k.trapMode = false ∧ k.queues[e] = [] ∧ k.landings = [] ∧ k.globals = [] ∧ k.copies = [] ∧ k.homeOps = [] ∧
      k.traps = [] ∧ k.evq = [] ∧ k.freeze = none ∧ k.sclk = 0 ∧ k.mode = 0 ∧ k.guards = [] ∧ k.streams[n] = none ∧
      (∀ t : Fin 10, k.tokens[t] = 0) ∧ (∀ l : Fin 4, k.levelOpen l = false)) ∧
    (k.x[n] = 0 ∧ (∀ m : Fin 8, k.masks[m] = BitVec.allOnes 4096) ∧ (∀ p : Fin 16, k.perms[p] = PermReg.identity256)) ∧
    (s.hbm.mem = [] ∧ s.tier2.mem = [] ∧ (s.wstore[d]).mem = [] ∧ s.host.mem = [] ∧ k.plate = [] ∧ Memory.wf s.hbm.mem = true) ∧
    (s.hub.phase = .off ∧ s.kernels = [] ∧ s.time = 0 ∧ (s.die d).dclk = 0 ∧ s.agenda = []) ∧
    s.OnTime

/-- R56, R58–R61, R65, R69–R74: instruction words written from the fields of the four formats decode to the instructions they stand for. -/
def Obligations.DecodesSpecWords : Prop :=
  -- ADD X3, X1, X2: D 12:8, A 17:13, B 22:18, FN 29:23, W 30.
  decode [0x00 * 2 ^ 2 + 3 * 2 ^ 8 + 1 * 2 ^ 13 + 2 * 2 ^ 18] = .ok (.add false 3 1 2) ∧
  -- SUBW X31, X30, X29.
  decode [0x00 * 2 ^ 2 + 31 * 2 ^ 8 + 30 * 2 ^ 13 + 29 * 2 ^ 18 + 1 * 2 ^ 23 + 2 ^ 30] = .ok (.sub true 31 30 29) ∧
  -- ADDI X5, X4, −1: IMM14 31:18.
  decode [0x01 * 2 ^ 2 + 5 * 2 ^ 8 + 4 * 2 ^ 13 + 0x3FFF * 2 ^ 18] = .ok (.addi 5 4 (-1)) ∧
  -- BNE.T X1, X2, −3: COND 20:18, NUL 22:21, DISP9 31:23.
  decode [0x16 * 2 ^ 2 + 1 * 2 ^ 8 + 2 * 2 ^ 13 + 1 * 2 ^ 18 + 2 * 2 ^ 21 + 0x1FD * 2 ^ 23] = .ok (.bne 1 2 .taken (-3)) ∧
  -- TRAP 600: SYS FN 29:23 = 2, number in 17:8.
  decode [0x18 * 2 ^ 2 + 600 * 2 ^ 8 + 2 * 2 ^ 23] = .ok (.trap 600) ∧
  -- SEMADD 7, X9 at die scope: IDX 31:27, OPX 26:23, scope in D.
  decode [0x1E * 2 ^ 2 + 3 * 2 ^ 8 + 9 * 2 ^ 13 + 0 * 2 ^ 23 + 7 * 2 ^ 27] = .ok (.semadd 7 .die 9) ∧
  -- LI X6, 0x12345678.
  decode [1 + 0x00 * 2 ^ 2 + 6 * 2 ^ 8, 0x12345678] = .ok (.li 6 0x12345678) ∧
  -- BGEI X2, 100, +5: compare value in 15:0 and displacement in 31:16 of the second parcel.
  decode [1 + 0x07 * 2 ^ 2 + 2 * 2 ^ 13 + 3 * 2 ^ 18, 100 + 5 * 2 ^ 16] = .ok (.bgei 2 .none 100 5) ∧
  -- VADD VW1 row 2, VW3, X4 with format 3, posting L.
  decode [2 + 0x00 * 2 ^ 2 + 2 ^ 16 + 3 * 2 ^ 27, (1 * 2 ^ 2 + 2 * 2 ^ 7) + (3 * 2 ^ 2) * 2 ^ 16, 2 + 4 * 2 ^ 2] =
    .ok (.vadd { fmt := 3, mod := 0, bit21 := false, pm := 0, tok := ⟨false, false, true, false⟩, d := .view 1 2 0 0,
                 s1 := .view 3 0 0 0, s2 := .op (.reg 4), xfn := 0 }) ∧
  -- WBINV: M major 2, FN 1, slot 5 and three slots.
  decode [3 + 0x02 * 2 ^ 2 + 1 * 2 ^ 8, 5 * 2 ^ 18 + 2 * 2 ^ 24, 0, 0, 0, 0] =
    .ok (.wbinv { asc := false, za := false, ft := false, mrepM1 := 0, acc := 0, aview := 0, tok := ⟨false, false, false, false⟩,
                  kstepM1 := 2, wslot := 5, akb := 0, arow := 0, mod := 0, sview := 0, cfmt := 0, bfmt := 0, afmt := 0, qview := 0,
                  dfmt := 0, drow := 0, dview := 0, scale := 0 }) ∧
  -- An all-zero parcel is ADD X0, X0, X0, and a parcel of all ones is unassigned (R57).
  decode [0] = .ok (.add false 0 0 0) ∧
  decode [0xFFFFFFFF, 0, 0, 0, 0, 0] = .error .reserved

/-- R56–R65, R76: an instruction that keeps the field rules decodes from its encoding, with every operand; parcels that decode are the
encoding of what they decode to, so that no encoding stands for two instructions and no bit is ignored; and an encoding is as long as
bits 1:0 of its first parcel say. -/
def Obligations.EncodingRoundTrip : Prop :=
  ∀ (i : Instr) (ps : List Nat),
    (encode i ≠ [] → WellFormed i = true → decode (encode i) = .ok i) ∧
    ((∀ p ∈ ps, p < 2 ^ 32) → decode ps = .ok i → encode i = ps ∧ WellFormed i = true ∧ ps.length = parcelCount (ps.headD 0))

/-- R38, R39, R41, R56: while nothing else comes first, the bytes at the address of the instruction that is due decode to it, and it may
issue, a step is that instruction's meaning followed by the end of the S-cycle, or in trap mode of the die cycle. The end of the S-cycle
advances SCLK and ends the core's turn; an instruction that leaves the core idle ends nothing.
Where the spec leaves it to the model, the reading is that of log entry 25. -/
def Obligations.StepRunsDecoded : Prop :=
  ∀ (s t : State) (i : Instr) (p : Nat) (ps : List Nat),
    let c := s.cpu
    let pc := c.chain.c0
    ((∀ a ∈ s.agenda, s.time < a.due) → (s.hub.phase = .ready → s.nextActivation = none) →
      s.curDone = false → c.activity = .running → c.freeze = none →
      (c.trapMode = true → c.rttWait = false ∧ c.nextTrap = none) →
      (c.trapMode = false → c.sOpen = true ∧ nextDue c.sclk c.landings = none ∧ s.nextDispatch = none ∧ s.cpWait = false ∧
        c.draining = none ∧ c.issued = false ∧ s.atStop = false) →
      s.present s.cur pc.toNat = true → s.fetchParcel s.cur pc.toNat = some p →
      s.fetchParcels s.cur (parcelCount p) pc.toNat = some ps → decode ps = .ok i →
      c.chain.annul0 = false → s.issueWait i = .go → s.issueMiss i ps.length = none →
      step s = onNext (exec i s) s.afterIssue) ∧
    (t.cur = s.cur → t.cpu.activity = .running → t.cpu.issued = true →
      (c.trapMode = false → t.cpu.trapMode = false → t.cpu.draining = none →
        (s.afterIssue t).cpu.sclk = t.cpu.sclk + 1 ∧ (s.afterIssue t).curDone = true ∧ (s.afterIssue t).cpu.sOpen = false ∧
        (s.afterIssue t).cpu.issued = false) ∧
      (c.trapMode = true → (s.afterIssue t).cpu.sclk = t.cpu.sclk ∧ (s.afterIssue t).curDone = true ∧ (s.afterIssue t).cpu.issued = false) ∧
      (s.afterIssue t).cpu.x = t.cpu.x ∧ (s.afterIssue t).cpu.plate = t.cpu.plate ∧ (s.afterIssue t).cpu.chain = t.cpu.chain ∧
      (s.afterIssue t).hbm = t.hbm ∧ (s.afterIssue t).cur = s.cur) ∧
    (t.cur = s.cur → t.cpu.activity ≠ .running → s.afterIssue t = t)

/-- R57, R76, R119–R127: nothing a program or the outside world does stops the module: what the spec calls illegal is trapped, recorded or
logged, and every state has a next state. That the model needs no stop of its own is its design (log entry 57). -/
def Obligations.NeverStops : Prop :=
  ∀ (s : State),
    (∃ t, Steps s t) ∧ Safe s

/-- R3, R38: every step keeps the order of time: no step of the part is overdue, and DCLK advances on every die in every die cycle, so
that it stands at the number of die cycles since reset. That what the outside world does is listed with its time, and that every die counts the same die
cycles, is the model's choice (log entries 3, 25 and 87). -/
def Obligations.TimeStaysInOrder : Prop :=
  ∀ (s t : State),
    s.OnTime → Steps s t → t.OnTime
end

