-- ==== Sys2Proof/Laws/Issue.lean ====
section
/-! SUPPORT. What issuing an instruction comes to: the opening and the close of an issue change only the sequencing of the core in
focus, and an instruction whose effect is on that core goes on as `State.GoesOn` says. -/

namespace Sys2Proof.Machine

/-! ### The core in focus -/

@[simp] theorem State.cpu_setCpu (s : State) (k : Core) : (s.setCpu k).cpu = k := by
  simp [State.cpu, State.setCpu, State.core, State.setCore]

@[simp] theorem State.setCpu_setCpu (s : State) (k l : Core) : (s.setCpu k).setCpu l = s.setCpu l := by
  simp [State.setCpu, State.setCore]

@[simp] theorem State.setCpu_cpu (s : State) : s.setCpu s.cpu = s := by
  simp [State.setCpu, State.setCore, State.cpu, State.core]

theorem State.modCpu_eq (s : State) (f : Core → Core) : s.modCpu f = s.setCpu (f s.cpu) := rfl

@[simp] theorem State.cpu_modCpu (s : State) (f : Core → Core) : (s.modCpu f).cpu = f s.cpu := s.cpu_setCpu _

@[simp] theorem State.modCpu_setCpu (s : State) (k : Core) (f : Core → Core) : (s.setCpu k).modCpu f = s.setCpu (f k) := by
  simp [State.modCpu_eq]

@[simp] theorem State.cur_setCpu (s : State) (k : Core) : (s.setCpu k).cur = s.cur := rfl

@[simp] theorem State.now_setCpu (s : State) (k : Core) (c : CoreId) : (s.setCpu k).now c = s.now c := rfl

@[simp] theorem State.core_setCpu_ne (s : State) (k : Core) {c : CoreId} (h : c ≠ s.cur) : (s.setCpu k).core c = s.core c := by
  have : ¬ s.cur.val = c.val := fun e => h (Fin.ext e.symm)
  simp [State.setCpu, State.setCore, State.core, this]

/-! ### Sequencing -/

/-- `k` is the core `c` but for its sequencing: what the opening and the close of an issue may change. -/
def Core.Passes (c k : Core) : Prop :=
  k = { c with chain := k.chain, lc := k.lc, fc := k.fc, order := k.order, vw := k.vw, ftlvl := k.ftlvl,
               seg := { c.seg with crc := k.seg.crc }, issued := k.issued, seqNo := k.seqNo, skipBreak := k.skipBreak,
               loopDeferred := k.loopDeferred }

theorem Core.Passes.refl (c : Core) : Core.Passes c c := rfl

theorem Core.Passes.trans {a b c : Core} (h : Core.Passes a b) (k : Core.Passes b c) : Core.Passes a c :=
  Eq.trans k (congrArg (fun x : Core => { x with
    chain := c.chain, lc := c.lc, fc := c.fc, order := c.order, vw := c.vw, ftlvl := c.ftlvl,
    seg := { x.seg with crc := c.seg.crc }, issued := c.issued, seqNo := c.seqNo, skipBreak := c.skipBreak,
    loopDeferred := c.loopDeferred }) h)

theorem Core.closeExited_passes (c : Core) (pc : Word) : c.Passes (c.closeExited pc) := by
  unfold Core.closeExited; split <;> rfl

theorem Core.feed_passes (c : Core) (p : Nat) : c.Passes (c.feed p) := by
  unfold Core.feed; split <;> rfl

theorem Core.seqFrom_passes (c : Core) (x : Word) (n : Nat) : c.Passes (c.seqFrom x n).2 := by
  unfold Core.seqFrom
  split
  · rfl
  · dsimp only; split <;> rfl

theorem Core.loopBackOver_passes (ks : List (Fin 4)) (c : Core) : c.Passes (c.loopBackOver ks) := by
  induction ks generalizing c with
  | nil => rfl
  | cons k ks ih =>
    unfold Core.loopBackOver
    split
    · dsimp only; split <;> split <;> rfl
    · exact Core.Passes.trans (b := { c with lc := c.lc.set k 0, order := c.order.filter (· ≠ k) }) rfl (ih _)

theorem Core.loopBack_passes (c : Core) (last : Nat) : c.Passes (c.loopBack last) := by
  unfold Core.loopBack; split
  · rfl
  · exact Core.loopBackOver_passes _ _

theorem Core.finishBody_passes (c : Core) (last : Nat) : c.Passes (c.finishBody last) := by
  unfold Core.finishBody; split
  · rfl
  · exact Core.loopBack_passes _ _

/-- Passing to the next instruction changes only the sequencing of the core. -/
theorem Core.passed_passes (c : Core) (n : Word) (annul branch guess : Bool) (last : Nat) :
    c.Passes (c.passed n annul branch guess last) :=
  Core.Passes.trans (b := c.shift n annul branch guess) rfl ((Core.finishBody_passes _ last).trans rfl)

/-- The opening of an issue as a change of the core in focus. -/
def Core.opened (c : Core) (i : Instr) : Core := (c.closeExited c.chain.c0).feed (firstParcel i)

theorem State.beginIssue_eq (s : State) (i : Instr) : s.beginIssue i = s.setCpu (s.cpu.opened i) := rfl

theorem Core.opened_passes (c : Core) (i : Instr) : c.Passes (c.opened i) :=
  (c.closeExited_passes _).trans (Core.feed_passes _ _)

/-- The close of an issue as a change of the core in focus, with the next address of the chain and what finding it has used. -/
def Core.closed (c : Core) (i : Instr) (guess : Bool) (q : Word × Core) : Core :=
  q.2.passed q.1 false (isBranch i) guess (c.chain.c0.toNat + 4 * (encode i).length - 4)

theorem State.endIssue_eq (s : State) (i : Instr) :
    s.endIssue i =
      s.setCpu (s.cpu.closed i s.guesses (s.cpu.seqFrom s.cpu.chain.c2 (s.lengthAt s.cur s.cpu.chain.c2))) := by
  unfold State.endIssue State.seq
  simp only [State.modCpu_setCpu]
  rfl

/-- The close of an issue changes only the sequencing of the core in focus. -/
theorem State.endIssue_passes (s : State) (i : Instr) : ∃ k, s.cpu.Passes k ∧ s.endIssue i = s.setCpu k :=
  ⟨_, (Core.seqFrom_passes _ _ _).trans (Core.passed_passes _ _ _ _ _ _), s.endIssue_eq i⟩

/-! ### What the levels do not look at -/

/-- The core with another chain, other fetch counts and another signature. -/
def Core.reseq (c : Core) (ch : FetchChain) (fc : Vector Nat 4) (crc : BitVec 32) : Core :=
  { c with chain := ch, fc, seg := { c.seg with crc } }

theorem Core.insertInner_congr {a b : Core} (h1 : a.lb = b.lb) (h2 : a.le = b.le) (k : Fin 4) (l : List (Fin 4)) :
    a.insertInner k l = b.insertInner k l := by
  induction l with
  | nil => rfl
  | cons j js ih =>
    have hw : ∀ i, a.bodyWithin i k = b.bodyWithin i k := fun i => by
      unfold Core.bodyWithin Core.levelBegin Core.levelEnd; rw [h1, h2]
    simp only [Core.insertInner, ih, hw]

theorem Core.innermost_congr {a b : Core} (h1 : a.lb = b.lb) (h2 : a.le = b.le) (h3 : a.lc = b.lc) (h4 : a.order = b.order) :
    a.innermost = b.innermost := by
  simp only [Core.innermost, Core.levelOpen, h3, h4, Core.insertInner_congr h1 h2]

theorem Core.loopBackOver_reseq (ks : List (Fin 4)) (c : Core) (ch : FetchChain) (fc : Vector Nat 4) (crc : BitVec 32) :
    (c.reseq ch fc crc).loopBackOver ks = (c.loopBackOver ks).reseq ch fc crc := by
  induction ks generalizing c with
  | nil => rfl
  | cons k ks ih =>
    simp only [Core.loopBackOver]
    split
    · rename_i h
      rw [if_pos (show 1 < c.lc[k].toNat from h)]
      by_cases h1 : bitOf c.le[k] 48 = true <;> by_cases h2 : (bitOf c.ftlvl 2 && bitsOf c.ftlvl 0 2 = k.val) = true <;>
        simp only [Core.reseq, h1, h2, if_true, if_false, Bool.false_eq_true]
    · rename_i h
      rw [if_neg (show ¬ 1 < c.lc[k].toNat from h)]
      exact ih { c with lc := c.lc.set k 0, order := c.order.filter (· ≠ k) }

theorem Core.loopBack_reseq (c : Core) (last : Nat) (ch : FetchChain) (fc : Vector Nat 4) (crc : BitVec 32) :
    (c.reseq ch fc crc).loopBack last = (c.loopBack last).reseq ch fc crc := by
  have hi : (c.reseq ch fc crc).innermost = c.innermost := Core.innermost_congr rfl rfl rfl rfl
  unfold Core.loopBack
  rw [hi]
  show (if c.trapMode = true then _ else _) = _
  split
  · rfl
  · exact Core.loopBackOver_reseq _ _ _ _ _

theorem Core.finishBody_reseq (c : Core) (last : Nat) (ch : FetchChain) (fc : Vector Nat 4) (crc : BitVec 32) :
    (c.reseq ch fc crc).finishBody last = (c.finishBody last).reseq ch fc crc := by
  have hi : (c.reseq ch fc crc).innermost = c.innermost := Core.innermost_congr rfl rfl rfl rfl
  unfold Core.finishBody
  rw [hi, Core.loopBack_reseq]
  show (if (!c.trapMode && _ && _) = true then _ else _) = _
  split
  · rename_i h
    have h' : (!c.trapMode && (c.traps.any fun t => !t.handler) && c.innermost.any fun k => decide (c.levelEnd k = last)) = true := h
    rw [if_pos h']; rfl
  · rename_i h
    have h' : ¬ (!c.trapMode && (c.traps.any fun t => !t.handler) && c.innermost.any fun k => decide (c.levelEnd k = last)) = true := h
    rw [if_neg h']

/-- seq changes nothing but a fetch count. -/
theorem Core.seqFrom_eq (c : Core) (x : Word) (n : Nat) : (c.seqFrom x n).2 = c.reseq c.chain (c.seqFrom x n).2.fc c.seg.crc := by
  unfold Core.seqFrom
  split
  · rfl
  · dsimp only; split <;> rfl

/-- A loop-back event changes nothing but the loop counts, their order, the views and FTLVL. -/
theorem Core.loopBackOver_eq (ks : List (Fin 4)) (c : Core) :
    c.loopBackOver ks = { c with lc := (c.loopBackOver ks).lc, order := (c.loopBackOver ks).order, vw := (c.loopBackOver ks).vw,
                                 ftlvl := (c.loopBackOver ks).ftlvl } := by
  induction ks generalizing c with
  | nil => rfl
  | cons k ks ih =>
    simp only [Core.loopBackOver]
    split
    · by_cases h1 : bitOf c.le[k] 48 = true <;> by_cases h2 : (bitOf c.ftlvl 2 && bitsOf c.ftlvl 0 2 = k.val) = true <;>
        simp only [h1, h2, if_true, if_false, Bool.false_eq_true]
    · exact ih { c with lc := c.lc.set k 0, order := c.order.filter (· ≠ k) }

theorem Core.finishBody_eq (c : Core) (last : Nat) :
    c.finishBody last = { c with lc := (c.finishBody last).lc, order := (c.finishBody last).order, vw := (c.finishBody last).vw,
                                 ftlvl := (c.finishBody last).ftlvl, loopDeferred := (c.finishBody last).loopDeferred } := by
  unfold Core.finishBody Core.loopBack
  split
  · rfl
  · split
    · rfl
    · rw [Core.loopBackOver_eq]

theorem Core.closeExited_eq (c : Core) (pc : Word) :
    c.closeExited pc = { c with lc := (c.closeExited pc).lc, order := (c.closeExited pc).order } := by
  unfold Core.closeExited; split <;> rfl

theorem Core.opened_eq (c : Core) (i : Instr) :
    c.opened i = (c.closeExited c.chain.c0).reseq c.chain c.fc (c.feed (firstParcel i)).seg.crc := by
  unfold Core.opened
  rw [Core.closeExited_eq]
  generalize (c.closeExited c.chain.c0).lc = a
  generalize (c.closeExited c.chain.c0).order = b
  unfold Core.feed
  by_cases h : (c.seg.open_ && !c.trapMode) = true
  · have h' : (({ c with lc := a, order := b } : Core).seg.open_ && !({ c with lc := a, order := b } : Core).trapMode) = true := h
    rw [if_pos h, if_pos h']; rfl
  · have h' : ¬ (({ c with lc := a, order := b } : Core).seg.open_ && !({ c with lc := a, order := b } : Core).trapMode) = true := h
    rw [if_neg h, if_neg h']; rfl

/-! ### Issue -/

/-- Passing an instruction, from the levels that it has not left. -/
theorem Core.passed_reseq (o : Core) (ch : FetchChain) (fc : Vector Nat 4) (crc : BitVec 32) (q : Word) (b g : Bool) (last : Nat) :
    (o.reseq ch fc crc).passed q false b g last =
      let e := o.finishBody last
      { o with chain := ⟨ch.c1, ch.c2, q, ch.annul1, false, b, ch.prior1, ch.guess2, g⟩, fc, seg := { o.seg with crc }, issued := true,
               seqNo := o.seqNo + 1, skipBreak := false, lc := e.lc, order := e.order, vw := e.vw, ftlvl := e.ftlvl,
               loopDeferred := e.loopDeferred } := by
  have h : (o.reseq ch fc crc).shift q false b g = o.reseq ⟨ch.c1, ch.c2, q, ch.annul1, false, b, ch.prior1, ch.guess2, g⟩ fc crc := by
    unfold Core.shift; rw [Bool.false_or]; rfl
  unfold Core.passed
  rw [h, Core.finishBody_reseq, Core.finishBody_eq]
  rfl

/-- The opening and the close of an issue, with the effects of `c` between them (R101, R105, R111, R112, R118). -/
theorem State.endIssue_sequenced (s : State) (i : Instr) (c : Core) :
    ((s.setCpu c).beginIssue i).endIssue i = s.setCpu (s.sequenced i c) := by
  have hc : (c.opened i).chain = c.chain := by rw [Core.opened_eq]; rfl
  unfold State.sequenced State.seq
  rw [State.beginIssue_eq, State.endIssue_eq]
  simp only [State.cpu_setCpu, State.setCpu_setCpu, State.cur_setCpu, hc]
  congr 1
  unfold Core.closed
  rw [Core.seqFrom_eq (c.opened i), hc]
  generalize (State.guesses _) = g
  generalize ((c.opened i).seqFrom c.chain.c2 _).1 = q
  generalize ((c.opened i).seqFrom c.chain.c2 _).2.fc = f
  rw [show (c.opened i).reseq c.chain f (c.opened i).seg.crc =
    (c.closeExited c.chain.c0).reseq c.chain f (c.feed (firstParcel i)).seg.crc by rw [Core.opened_eq]; rfl, Core.passed_reseq]
  unfold Core.lastOf
  have he := c.closeExited_eq c.chain.c0
  generalize (c.closeExited c.chain.c0).finishBody _ = e
  rw [he]
  rfl

/-- An issue that is not turned away, whose effect on the core in focus is that of `c`. -/
theorem State.issue_goesOn {s : State} {i : Instr} {fault : State → Option (Cause × Word)} {eff : State → State} {c : Core}
    (he : exec i s = s.issue i fault eff) (ha : s.Allowed i) (hf : fault s = none)
    (hc : eff (s.beginIssue i) = (s.setCpu c).beginIssue i) : s.GoesOn i c := by
  unfold State.GoesOn
  rw [he, ← State.endIssue_sequenced, ← hc]
  unfold State.issue
  rw [show issueCheck i s.cpu = none from ha, hf]
  rfl

theorem Core.writeX_eq (c : Core) (d : Reg) (v : Word) : c.writeX d v = c.puts d v := by
  unfold Core.writeX Core.puts; simp only [Bool.and_eq_true, decide_eq_true_eq]

theorem State.resultXs_eq (s : State) (lat : Nat) (l : List (Reg × Word)) :
    s.resultXs lat l = s.setCpu (s.cpu.getsAll (s.now s.cur) lat l) := by
  unfold State.resultXs Core.getsAll
  dsimp only
  split
  · simp only [Core.writeX_eq]
  · rfl

theorem State.resultX_eq (s : State) (lat : Nat) (d : Reg) (v : Word) :
    s.resultX lat d v = s.setCpu (s.cpu.gets (s.now s.cur) lat d v) := by
  rw [Core.gets, ← State.resultXs_eq]
  rfl

/-! ### The opening does not touch what a result touches -/

/-- The core with other loop counts in another order, and another signature. -/
def Core.relevel (c : Core) (lc : Vector Word 4) (order : List (Fin 4)) (crc : BitVec 32) : Core :=
  { c with lc, order, seg := { c.seg with crc } }

theorem Core.puts_relevel (c : Core) (d : Reg) (v : Word) (lc : Vector Word 4) (o : List (Fin 4)) (r : BitVec 32) :
    (c.relevel lc o r).puts d v = (c.puts d v).relevel lc o r := by
  unfold Core.puts
  by_cases h : d = 0
  · rw [if_pos h, if_pos h]
  · rw [if_neg h, if_neg h]
    by_cases h2 : c.trapMode = true ∧ 24 ≤ d.val
    · have h3 : (c.relevel lc o r).trapMode = true ∧ 24 ≤ d.val := h2
      rw [if_pos h2, if_pos h3]; rfl
    · have h3 : ¬ ((c.relevel lc o r).trapMode = true ∧ 24 ≤ d.val) := h2
      rw [if_neg h2, if_neg h3]; rfl

theorem Core.foldPuts_relevel (l : List (Reg × Word)) (c : Core) (lc : Vector Word 4) (o : List (Fin 4)) (r : BitVec 32) :
    l.foldl (fun k p => k.puts p.1 p.2) (c.relevel lc o r) = (l.foldl (fun k p => k.puts p.1 p.2) c).relevel lc o r := by
  induction l generalizing c with
  | nil => rfl
  | cons p ps ih => simp only [List.foldl_cons, Core.puts_relevel, ih]

theorem Core.getsAll_relevel (c : Core) (now lat : Nat) (l : List (Reg × Word)) (lc : Vector Word 4) (o : List (Fin 4)) (r : BitVec 32) :
    (c.relevel lc o r).getsAll now lat l = (c.getsAll now lat l).relevel lc o r := by
  unfold Core.getsAll
  rw [Core.foldPuts_relevel]
  show (if c.trapMode = true then _ else _) = _
  split <;> rfl

theorem Core.opened_relevel (c : Core) (i : Instr) :
    c.opened i = c.relevel (c.closeExited c.chain.c0).lc (c.closeExited c.chain.c0).order (c.feed (firstParcel i)).seg.crc := by
  rw [Core.opened_eq, Core.closeExited_eq]; rfl

theorem Core.puts_eq (c : Core) (d : Reg) (v : Word) : c.puts d v = { c with x := (c.puts d v).x, tx := (c.puts d v).tx } := by
  unfold Core.puts; split
  · rfl
  · split <;> rfl

theorem Core.foldPuts_eq (l : List (Reg × Word)) (c : Core) :
    l.foldl (fun k p => k.puts p.1 p.2) c =
      { c with x := (l.foldl (fun k p => k.puts p.1 p.2) c).x, tx := (l.foldl (fun k p => k.puts p.1 p.2) c).tx } := by
  induction l generalizing c with
  | nil => rfl
  | cons p ps ih => rw [List.foldl_cons, Core.puts_eq]; exact ih _

/-- Values for registers touch the registers, or wait as a landing. -/
theorem Core.getsAll_eq (c : Core) (now lat : Nat) (l : List (Reg × Word)) :
    c.getsAll now lat l = { c with x := (c.getsAll now lat l).x, tx := (c.getsAll now lat l).tx, hReady := (c.getsAll now lat l).hReady,
                                   landings := (c.getsAll now lat l).landings } := by
  unfold Core.getsAll; split
  · rw [Core.foldPuts_eq]
  · rfl

/-- The registers that the opening looks at are not those that a result writes. -/
theorem Core.opened_getsAll (c : Core) (i : Instr) (now lat : Nat) (l : List (Reg × Word)) :
    (c.opened i).getsAll now lat l = (c.getsAll now lat l).opened i := by
  rw [Core.opened_relevel c, Core.getsAll_relevel, Core.opened_relevel (c.getsAll now lat l)]
  have h := c.getsAll_eq now lat l
  generalize c.getsAll now lat l = k at h
  have h1 : k.lc = c.lc := by rw [h]
  have h2 : k.order = c.order := by rw [h]
  have h3 : k.lb = c.lb := by rw [h]
  have h4 : k.le = c.le := by rw [h]
  have h5 : k.chain = c.chain := by rw [h]
  have h6 : k.seg = c.seg := by rw [h]
  have h7 : k.trapMode = c.trapMode := by rw [h]; rfl
  have e (p : Word) : (k.closeExited p).lc = (c.closeExited p).lc ∧ (k.closeExited p).order = (c.closeExited p).order := by
    unfold Core.closeExited Core.levelOpen Core.levelBegin Core.levelEnd
    simp only [h1, h2, h3, h4, h7]
    split <;> simp [h1, h2]
  have f (p : Nat) : (k.feed p).seg.crc = (c.feed p).seg.crc := by
    unfold Core.feed; simp only [h6, h7]; split <;> simp [h6]
  rw [h5, (e _).1, (e _).2, f]

@[simp] theorem Core.opened_x (c : Core) (i : Instr) : (c.opened i).x = c.x := by rw [Core.opened_relevel]; rfl
@[simp] theorem Core.opened_tx (c : Core) (i : Instr) : (c.opened i).tx = c.tx := by rw [Core.opened_relevel]; rfl
@[simp] theorem Core.opened_trapMode (c : Core) (i : Instr) : (c.opened i).trapMode = c.trapMode := by rw [Core.opened_relevel]; rfl
@[simp] theorem Core.opened_readX (c : Core) (i : Instr) (n : Reg) : (c.opened i).readX n = c.readX n := by
  unfold Core.readX; simp

/-- An instruction of one register result (R83): what `State.issueX` does where it is not turned away. -/
theorem State.issueX_yields {s : State} {i : Instr} {lat : Nat} {d : Reg} {v : Core → Word} (hv : v (s.cpu.opened i) = v s.cpu)
    (he : exec i s = s.issueX i lat d v) : s.Yields i lat d (v s.cpu) := by
  intro ha
  refine State.issue_goesOn he ha rfl ?_
  rw [State.beginIssue_eq, State.resultX_eq, State.beginIssue_eq]
  simp only [State.cpu_setCpu, State.now_setCpu, State.cur_setCpu, State.setCpu_setCpu, hv, Core.gets, Core.opened_getsAll]

end Sys2Proof.Machine
end

