-- ==== Sys2Proof/Laws/Memory.lean ====
section
/-! SUPPORT. The memory laws: reads of writes, and that every memory operation keeps the canonical form. -/

namespace Sys2Proof.Machine

/-- Every listed address lies at or above a bound: what stands behind a cell. -/
def Memory.above (lo : Nat) (m : Memory) : Prop := ∀ c ∈ m, lo ≤ c.1

theorem Memory.above_mono {lo hi : Nat} {m : Memory} (h : lo ≤ hi) (k : Memory.above hi m) : Memory.above lo m :=
  fun c hc => Nat.le_trans h (k c hc)

@[simp] theorem Memory.wf_nil : Memory.wf [] = true := rfl

theorem Memory.wf_cons (c : Host.Cell) (m : Memory) :
    Memory.wf (c :: m) = true ↔ c.2 ≠ 0 ∧ Memory.above (c.1 + 1) m ∧ Memory.wf m = true := by
  induction m generalizing c with
  | nil => simp [Memory.wf, Memory.above]
  | cons d r ih =>
    have hd := ih d
    constructor
    · intro h
      simp only [Memory.wf, Bool.and_eq_true, decide_eq_true_eq] at h
      refine ⟨h.1.2, ?_, h.2⟩
      intro e he
      have k := hd.1 h.2
      rcases List.mem_cons.1 he with rfl | he
      · exact h.1.1
      · have := k.2.1 e he; omega
    · rintro ⟨h0, ha, hw⟩
      have := ha d (by simp)
      simp only [Memory.wf, Bool.and_eq_true, decide_eq_true_eq]
      exact ⟨⟨by omega, h0⟩, hw⟩

theorem Memory.wf_tail {c : Host.Cell} {m : Memory} (h : Memory.wf (c :: m) = true) : Memory.wf m = true :=
  ((Memory.wf_cons c m).1 h).2.2

/-! ### Reads -/

theorem Memory.read_above {m : Memory} {lo x : Nat} (h : Memory.above lo m) (hx : x < lo) : m.read x = 0 := by
  induction m with
  | nil => rfl
  | cons c r ih =>
    have hc := h c (by simp)
    have : ¬ c.1 = x := by omega
    simp only [Memory.read, this, if_false]
    exact ih fun d hd => h d (by simp [hd])

@[simp] theorem Memory.read_cons (a : Nat) (b : Byte) (m : Memory) (x : Nat) (h : Memory.above (a + 1) m) :
    (Memory.cons a b m).read x = if a = x then b else m.read x := by
  unfold Memory.cons
  by_cases hb : b = 0
  · simp only [hb, if_true]
    split
    · subst x; exact Memory.read_above h (by omega)
    · rfl
  · rw [if_neg hb]; rfl

theorem Memory.read_write {m : Memory} (h : m.wf = true) (a : Nat) (b : Byte) (x : Nat) :
    (m.write a b).read x = if a = x then b else m.read x := by
  induction m with
  | nil =>
    rw [Memory.write, Memory.read_cons _ _ _ _ (by intro c hc; cases hc)]
  | cons c r ih =>
    have hc := (Memory.wf_cons c r).1 h
    obtain ⟨ca, cb⟩ := c
    simp only [Memory.write]
    split
    · have := ih hc.2.2
      simp only [Memory.read, this]
      split <;> split <;> first | rfl | omega
    · rename_i h1
      split
      · rename_i h2
        subst h2
        rw [Memory.read_cons _ _ _ _ hc.2.1]
        simp only [Memory.read]
        split <;> rfl
      · rename_i h2
        have ha : Memory.above (a + 1) ((ca, cb) :: r) := by
          intro d hd
          rcases List.mem_cons.1 hd with rfl | hd
          · simp at h1 h2 ⊢; omega
          · have := hc.2.1 d hd; simp at *; omega
        rw [Memory.read_cons _ _ _ _ ha]

@[simp] theorem Memory.read_write_same {m : Memory} (h : m.wf = true) (a : Nat) (b : Byte) : (m.write a b).read a = b := by
  simp [Memory.read_write h]

theorem Memory.read_write_other {m : Memory} (h : m.wf = true) {a x : Nat} (b : Byte) (k : a ≠ x) :
    (m.write a b).read x = m.read x := by
  simp [Memory.read_write h, k]

/-! ### The canonical form is kept -/

theorem Memory.write_above {lo a : Nat} {m : Memory} (h : Memory.above lo m) (k : lo ≤ a) (b : Byte) :
    Memory.above lo (m.write a b) := by
  induction m with
  | nil =>
    intro c hc
    simp only [Memory.write, Memory.cons] at hc
    split at hc
    · cases hc
    · simp at hc; subst hc; exact k
  | cons d r ih =>
    obtain ⟨da, db⟩ := d
    have hr : Memory.above lo r := fun c hc => h c (by simp [hc])
    have hd : lo ≤ da := h (da, db) (by simp)
    intro c hc
    simp only [Memory.write, Memory.cons] at hc
    split at hc
    · rcases List.mem_cons.1 hc with rfl | hc
      · exact hd
      · exact ih hr c hc
    · split at hc <;> split at hc
      · exact hr c hc
      · rcases List.mem_cons.1 hc with rfl | hc
        · exact k
        · exact hr c hc
      · exact h c hc
      · rcases List.mem_cons.1 hc with rfl | hc
        · exact k
        · exact h c hc

theorem Memory.wf_consCell {a : Nat} {b : Byte} {m : Memory} (h : Memory.above (a + 1) m) (k : m.wf = true) :
    (Memory.cons a b m).wf = true := by
  unfold Memory.cons
  split
  · exact k
  · exact (Memory.wf_cons _ _).2 ⟨by assumption, h, k⟩

theorem Memory.wf_write {m : Memory} (h : m.wf = true) (a : Nat) (b : Byte) : (m.write a b).wf = true := by
  induction m with
  | nil => exact Memory.wf_consCell (by intro c hc; cases hc) rfl
  | cons c r ih =>
    obtain ⟨ca, cb⟩ := c
    have hc := (Memory.wf_cons _ _).1 h
    simp only [Memory.write]
    split
    · exact (Memory.wf_cons _ _).2 ⟨hc.1, Memory.write_above hc.2.1 (by simpa using by assumption) b, ih hc.2.2⟩
    · rename_i h1
      split
      · rename_i h2
        subst h2
        exact Memory.wf_consCell hc.2.1 hc.2.2
      · rename_i h2
        refine Memory.wf_consCell ?_ h
        intro d hd
        rcases List.mem_cons.1 hd with rfl | hd
        · simp at h1 h2 ⊢; omega
        · have := hc.2.1 d hd; simp at *; omega

theorem Memory.wf_writeBytes {m : Memory} (h : m.wf = true) (a : Nat) (bs : List Byte) : (m.writeBytes a bs).wf = true := by
  induction bs generalizing m a with
  | nil => exact h
  | cons b bs ih => exact ih (Memory.wf_write h a b) (a + 1)

theorem Memory.wf_writeCells {m : Memory} (h : m.wf = true) (cs : List (Nat × Byte)) : (m.writeCells cs).wf = true := by
  induction cs generalizing m with
  | nil => exact h
  | cons c cs ih => exact ih (Memory.wf_write h c.1 c.2)

theorem Memory.wf_filter {m : Memory} (h : m.wf = true) (p : Host.Cell → Bool) : Memory.wf (m.filter p) = true := by
  induction m with
  | nil => exact h
  | cons c r ih =>
    have hc := (Memory.wf_cons c r).1 h
    rw [List.filter_cons]
    split
    · exact (Memory.wf_cons _ _).2 ⟨hc.1, fun d hd => hc.2.1 d (List.mem_filter.1 hd).1, ih hc.2.2⟩
    · exact ih hc.2.2

theorem Memory.wf_clear {m : Memory} (h : m.wf = true) (a n : Nat) : (m.clear a n).wf = true := Memory.wf_filter h _

theorem Memory.wf_overlay {m : Memory} (h : m.wf = true) (n : Memory) : (m.overlay n).wf = true := by
  induction n generalizing m with
  | nil => exact h
  | cons c n ih => exact ih (Memory.wf_write h c.1 c.2)

theorem Memory.wf_writeNat {m : Memory} (h : m.wf = true) (a n v : Nat) : (m.writeNat a n v).wf = true :=
  Memory.wf_writeBytes h a _

/-! ### Runs of bytes -/

theorem Memory.read_writeBytes {m : Memory} (h : m.wf = true) (a : Nat) (bs : List Byte) (x : Nat) :
    (m.writeBytes a bs).read x = if a ≤ x ∧ x < a + bs.length then bs.getD (x - a) 0 else m.read x := by
  induction bs generalizing m a with
  | nil =>
    have : ¬ (a ≤ x ∧ x < a + 0) := by omega
    simp only [Memory.writeBytes, List.length_nil, if_neg this]
  | cons b bs ih =>
    rw [Memory.writeBytes, ih (Memory.wf_write h a b), Memory.read_write h]
    simp only [List.length_cons]
    by_cases hx : a = x
    · subst hx
      rw [if_neg (by omega), if_pos rfl, if_pos (by omega), Nat.sub_self]
      rfl
    · by_cases h1 : a + 1 ≤ x ∧ x < a + 1 + bs.length
      · have e : x - a = x - (a + 1) + 1 := by omega
        rw [if_pos h1, if_pos (by omega), e]
        rfl
      · rw [if_neg h1, if_neg hx, if_neg (by omega)]

theorem Memory.run_eq {m : Memory} (h : m.wf = true) (a n : Nat) (k : Memory.above a m) :
    m.run a n = (List.range' a n).map m.read := by
  induction n generalizing m a with
  | zero => cases m <;> rfl
  | succ n ih =>
    cases m with
    | nil =>
      have e := ih (m := []) rfl (a + 1) (by intro c hc; cases hc)
      simp only [Memory.run, List.range'_succ, List.map_cons, e]
      rfl
    | cons c r =>
      obtain ⟨ca, cb⟩ := c
      have hc := (Memory.wf_cons _ _).1 h
      have ha : a ≤ ca := k (ca, cb) (by simp)
      simp only [Memory.run, List.range'_succ, List.map_cons]
      split
      · rename_i e
        subst e
        rw [ih hc.2.2 (ca + 1) hc.2.1, show Memory.read ((ca, cb) :: r) ca = cb by simp [Memory.read]]
        refine congrArg (cb :: ·) (List.map_congr_left fun x hx => ?_)
        have := (List.mem_range'_1.1 hx).1
        have : ¬ ca = x := by omega
        simp [Memory.read, this]
      · rename_i e
        have k' : Memory.above (a + 1) ((ca, cb) :: r) := by
          intro d hd
          rcases List.mem_cons.1 hd with rfl | hd
          · simp at *; omega
          · have := hc.2.1 d hd; simp at this; omega
        rw [ih h (a + 1) k', Memory.read_above k' (by omega)]

theorem Memory.dropWhile_above {m : Memory} (h : m.wf = true) (a : Nat) :
    Memory.above a (m.dropWhile fun c => c.1 < a) ∧ Memory.wf (m.dropWhile fun c => c.1 < a) = true ∧
      ∀ x, a ≤ x → Memory.read (m.dropWhile fun c => c.1 < a) x = m.read x := by
  induction m with
  | nil => exact ⟨(by intro c hc; cases hc), rfl, fun _ _ => rfl⟩
  | cons c r ih =>
    have hc := (Memory.wf_cons c r).1 h
    obtain ⟨i1, i2, i3⟩ := ih hc.2.2
    by_cases e : c.1 < a
    · rw [List.dropWhile_cons_of_pos (by simpa using e)]
      refine ⟨i1, i2, fun x hx => ?_⟩
      rw [i3 x hx]
      have : ¬ c.1 = x := by omega
      simp [Memory.read, this]
    · rw [List.dropWhile_cons_of_neg (by simpa using e)]
      refine ⟨?_, h, fun _ _ => rfl⟩
      intro d hd
      rcases List.mem_cons.1 hd with rfl | hd
      · omega
      · have := hc.2.1 d hd; omega

/-- A read of several bytes is the reads of each. -/
theorem Memory.readBytes_eq {m : Memory} (h : m.wf = true) (a n : Nat) :
    m.readBytes a n = (List.range' a n).map m.read := by
  obtain ⟨i1, i2, i3⟩ := Memory.dropWhile_above h a
  rw [Memory.readBytes, Memory.run_eq i2 a n i1]
  exact List.map_congr_left fun x hx => i3 x (List.mem_range'_1.1 hx).1

end Sys2Proof.Machine
end

