-- ==== Sys2Proof/Laws/PerInstr.lean ====
section
/-! SUPPORT. One family of statements per instruction: framing (R56). -/

namespace Sys2Proof.Laws.Framed

open Sys2Proof

/-- Parcels below 2^32, as many as bits 1:0 of the first one say; none for a step of the part. -/
def WordsFit (ps : List Nat) : Prop :=
  ps.length = (match ps with | [] => 0 | p :: _ => parcelCount p) ∧ ∀ p ∈ ps, p < 2 ^ 32

/-- The encoding of an instruction is as long as its first parcel says, and each of its parcels has 32 bits (R56). -/
def Statement (i : Instr) : Prop := WordsFit (encode i)

theorem framed_nil : WordsFit [] := ⟨rfl, by simp⟩

theorem framed_one {p : Nat} (h : p % 4 = 0) (k : p < 2 ^ 32) : WordsFit [p] := by
  refine ⟨by simp [parcelCount, h], ?_⟩
  intro q hq
  rw [List.mem_singleton.1 hq]
  exact k

theorem framed_two {p q : Nat} (h : p % 4 = 1) (k : p < 2 ^ 32) (l : q < 2 ^ 32) : WordsFit [p, q] := by
  refine ⟨by simp [parcelCount, h], ?_⟩
  intro r hr
  simp only [List.mem_cons, List.not_mem_nil, or_false] at hr
  omega

theorem bit_le (b : Bool) : bit b ≤ 1 := by cases b <;> simp [bit]

theorem nulCode_le (n : Nul) : nulCode n ≤ 2 := by cases n <;> simp [nulCode]

theorem fenceCode_le (k : FenceKind) : fenceCode k ≤ 3 := by cases k <;> simp [fenceCode]

theorem scopeCode_le (s : Scope) : scopeCode s ≤ 7 := by cases s <;> simp [scopeCode]

theorem framed_SR {fn : Nat} (h : fn < 128) (w : Bool) (d a b : Reg) : WordsFit [encSR 0 fn w d a b] := by
  have := bit_le w
  apply framed_one <;> unfold encSR <;> omega

theorem framed_SI {m imm : Nat} (h : m < 64) (k : imm < 2 ^ 14) (d a : Reg) : WordsFit [encSI m d a imm] := by
  apply framed_one <;> unfold encSI <;> omega

theorem framed_SB {cond disp : Nat} (h : cond < 8) (k : disp < 2 ^ 9) (a b : Reg) (nul : Nul) : WordsFit [encSB cond a b nul disp] := by
  have := nulCode_le nul
  apply framed_one <;> unfold encSB <;> omega

theorem framed_Sys {fn f : Nat} (h : fn < 128) (k : f < 2 ^ 15) : WordsFit [encSys fn f] := by
  apply framed_one <;> unfold encSys <;> omega

theorem framed_SX {m op i b a d : Nat} (h1 : m < 64) (h2 : op < 16) (h3 : i < 32) (h4 : b < 32) (h5 : a < 32) (h6 : d < 32) :
    WordsFit [encSX m op i b a d] := by
  apply framed_one <;> unfold encSX <;> omega

theorem framed_L {m ext lit : Nat} (h : m < 64) (k : ext < 2 ^ 14) (l : lit < 2 ^ 32) (d a : Reg) : WordsFit (encL m d a ext lit) := by
  unfold encL
  apply framed_two <;> omega

theorem encOperand_lt (o : Operand) : encOperand o < 2 ^ 16 := by
  cases o <;> simp only [encOperand] <;> omega

theorem parcelCount_two {p : Nat} (h : p % 4 = 2) : parcelCount p = 3 := by simp [parcelCount, h]

theorem parcelCount_three {p : Nat} (h : p % 4 = 3) : parcelCount p = 6 := by simp [parcelCount, h]

theorem framed_V {m fn : Nat} (h : m < 64) (k : fn < 64) (v : VWord) : WordsFit (encV m fn v) := by
  have h1 := bit_le v.tok.waitL
  have h2 := bit_le v.tok.waitR
  have h3 := bit_le v.tok.postL
  have h4 := bit_le v.tok.postR
  have h5 := bit_le v.bit21
  have h6 := encOperand_lt v.d
  have h7 := encOperand_lt v.s1
  have h8 := v.mod.isLt
  have h9 := v.fmt.isLt
  have h10 := v.xfn.isLt
  unfold encV
  dsimp only
  generalize hb : bit (match v.s2 with | .lit _ => true | .op _ => false) = lit
  have h11 : lit ≤ 1 := by rw [← hb]; exact bit_le _
  refine ⟨(parcelCount_two (by omega)).symm, ?_⟩
  · intro p hp
    simp only [List.mem_cons, List.not_mem_nil, or_false] at hp
    rcases hp with rfl | rfl | rfl
    · omega
    · omega
    · split
      · rename_i l _; exact l.isLt
      · rename_i o _; have := encOperand_lt o; omega

theorem framed_M {mj fn : Nat} (h : mj < 64) (k : fn < 16) (m : MWord) : WordsFit (encM mj fn m) := by
  have h1 := bit_le m.tok.waitL
  have h2 := bit_le m.tok.waitR
  have h3 := bit_le m.tok.postL
  have h4 := bit_le m.tok.postR
  have h5 := bit_le m.ft
  have h6 := bit_le m.za
  have h7 := bit_le m.asc
  have h8 := m.arow.isLt
  have h9 := m.afmt.isLt
  have h10 := m.bfmt.isLt
  have h11 := m.cfmt.isLt
  have h12 := m.mod.isLt
  have h13 := m.drow.isLt
  have h14 := m.dfmt.isLt
  have h15 := m.scale.isLt
  unfold encM
  refine ⟨(parcelCount_three (by omega)).symm, ?_⟩
  · intro p hp
    simp only [List.mem_cons, List.not_mem_nil, or_false] at hp
    rcases hp with rfl | rfl | rfl | rfl | rfl | rfl <;> omega

theorem add (w : Bool) (d a b : Reg) : Statement (.add w d a b) := framed_SR (by decide) w d a b
theorem sub (w : Bool) (d a b : Reg) : Statement (.sub w d a b) := framed_SR (by decide) w d a b
theorem and (w : Bool) (d a b : Reg) : Statement (.and w d a b) := framed_SR (by decide) w d a b
theorem or (w : Bool) (d a b : Reg) : Statement (.or w d a b) := framed_SR (by decide) w d a b
theorem xor (w : Bool) (d a b : Reg) : Statement (.xor w d a b) := framed_SR (by decide) w d a b
theorem andn (w : Bool) (d a b : Reg) : Statement (.andn w d a b) := framed_SR (by decide) w d a b
theorem sll (w : Bool) (d a b : Reg) : Statement (.sll w d a b) := framed_SR (by decide) w d a b
theorem srl (w : Bool) (d a b : Reg) : Statement (.srl w d a b) := framed_SR (by decide) w d a b
theorem sra (w : Bool) (d a b : Reg) : Statement (.sra w d a b) := framed_SR (by decide) w d a b
theorem rol (w : Bool) (d a b : Reg) : Statement (.rol w d a b) := framed_SR (by decide) w d a b
theorem mul (w : Bool) (d a b : Reg) : Statement (.mul w d a b) := framed_SR (by decide) w d a b
theorem mulh (w : Bool) (d a b : Reg) : Statement (.mulh w d a b) := framed_SR (by decide) w d a b
theorem mulhu (w : Bool) (d a b : Reg) : Statement (.mulhu w d a b) := framed_SR (by decide) w d a b
theorem div (w : Bool) (d a b : Reg) : Statement (.div w d a b) := framed_SR (by decide) w d a b
theorem divu (w : Bool) (d a b : Reg) : Statement (.divu w d a b) := framed_SR (by decide) w d a b
theorem rem (w : Bool) (d a b : Reg) : Statement (.rem w d a b) := framed_SR (by decide) w d a b
theorem remu (w : Bool) (d a b : Reg) : Statement (.remu w d a b) := framed_SR (by decide) w d a b
theorem min (w : Bool) (d a b : Reg) : Statement (.min w d a b) := framed_SR (by decide) w d a b
theorem max (w : Bool) (d a b : Reg) : Statement (.max w d a b) := framed_SR (by decide) w d a b
theorem minu (w : Bool) (d a b : Reg) : Statement (.minu w d a b) := framed_SR (by decide) w d a b
theorem maxu (w : Bool) (d a b : Reg) : Statement (.maxu w d a b) := framed_SR (by decide) w d a b
theorem slt (w : Bool) (d a b : Reg) : Statement (.slt w d a b) := framed_SR (by decide) w d a b
theorem sltu (w : Bool) (d a b : Reg) : Statement (.sltu w d a b) := framed_SR (by decide) w d a b
theorem seq (w : Bool) (d a b : Reg) : Statement (.seq w d a b) := framed_SR (by decide) w d a b
theorem clz (w : Bool) (d a : Reg) : Statement (.clz w d a) := framed_SR (by decide) w d a 0
theorem ctz (w : Bool) (d a : Reg) : Statement (.ctz w d a) := framed_SR (by decide) w d a 0
theorem popc (w : Bool) (d a : Reg) : Statement (.popc w d a) := framed_SR (by decide) w d a 0
theorem brev (w : Bool) (d a : Reg) : Statement (.brev w d a) := framed_SR (by decide) w d a 0
theorem bswap (w : Bool) (d a : Reg) : Statement (.bswap w d a) := framed_SR (by decide) w d a 0
theorem movz (w : Bool) (d a b : Reg) : Statement (.movz w d a b) := framed_SR (by decide) w d a b
theorem movn (w : Bool) (d a b : Reg) : Statement (.movn w d a b) := framed_SR (by decide) w d a b
theorem addi (d a : Reg) (imm : BitVec 14) : Statement (.addi d a imm) := by
  have := imm.isLt
  exact framed_SI (by decide) (by omega) d a
theorem andi (d a : Reg) (imm : BitVec 14) : Statement (.andi d a imm) := by
  have := imm.isLt
  exact framed_SI (by decide) (by omega) d a
theorem ori (d a : Reg) (imm : BitVec 14) : Statement (.ori d a imm) := by
  have := imm.isLt
  exact framed_SI (by decide) (by omega) d a
theorem xori (d a : Reg) (imm : BitVec 14) : Statement (.xori d a imm) := by
  have := imm.isLt
  exact framed_SI (by decide) (by omega) d a
theorem slli (d a : Reg) (sh : Fin 64) : Statement (.slli d a sh) := framed_SI (by decide) (by omega) d a
theorem srli (d a : Reg) (sh : Fin 64) : Statement (.srli d a sh) := framed_SI (by decide) (by omega) d a
theorem srai (d a : Reg) (sh : Fin 64) : Statement (.srai d a sh) := framed_SI (by decide) (by omega) d a
theorem slti (d a : Reg) (imm : BitVec 14) : Statement (.slti d a imm) := by
  have := imm.isLt
  exact framed_SI (by decide) (by omega) d a
theorem sltiu (d a : Reg) (imm : BitVec 14) : Statement (.sltiu d a imm) := by
  have := imm.isLt
  exact framed_SI (by decide) (by omega) d a
theorem seqi (d a : Reg) (imm : BitVec 14) : Statement (.seqi d a imm) := by
  have := imm.isLt
  exact framed_SI (by decide) (by omega) d a
theorem ldb (d a : Reg) (imm : BitVec 14) : Statement (.ldb d a imm) := by
  have := imm.isLt
  exact framed_SI (by decide) (by omega) d a
theorem ldbu (d a : Reg) (imm : BitVec 14) : Statement (.ldbu d a imm) := by
  have := imm.isLt
  exact framed_SI (by decide) (by omega) d a
theorem ldh (d a : Reg) (imm : BitVec 14) : Statement (.ldh d a imm) := by
  have := imm.isLt
  exact framed_SI (by decide) (by omega) d a
theorem ldhu (d a : Reg) (imm : BitVec 14) : Statement (.ldhu d a imm) := by
  have := imm.isLt
  exact framed_SI (by decide) (by omega) d a
theorem ldw (d a : Reg) (imm : BitVec 14) : Statement (.ldw d a imm) := by
  have := imm.isLt
  exact framed_SI (by decide) (by omega) d a
theorem ldwu (d a : Reg) (imm : BitVec 14) : Statement (.ldwu d a imm) := by
  have := imm.isLt
  exact framed_SI (by decide) (by omega) d a
theorem ldd (d a : Reg) (imm : BitVec 14) : Statement (.ldd d a imm) := by
  have := imm.isLt
  exact framed_SI (by decide) (by omega) d a
theorem stb (s a : Reg) (imm : BitVec 14) : Statement (.stb s a imm) := by
  have := imm.isLt
  exact framed_SI (by decide) (by omega) s a
theorem sth (s a : Reg) (imm : BitVec 14) : Statement (.sth s a imm) := by
  have := imm.isLt
  exact framed_SI (by decide) (by omega) s a
theorem stw (s a : Reg) (imm : BitVec 14) : Statement (.stw s a imm) := by
  have := imm.isLt
  exact framed_SI (by decide) (by omega) s a
theorem std (s a : Reg) (imm : BitVec 14) : Statement (.std s a imm) := by
  have := imm.isLt
  exact framed_SI (by decide) (by omega) s a
theorem beq (a b : Reg) (nul : Nul) (disp : BitVec 9) : Statement (.beq a b nul disp) := framed_SB (by decide) disp.isLt a b nul
theorem bne (a b : Reg) (nul : Nul) (disp : BitVec 9) : Statement (.bne a b nul disp) := framed_SB (by decide) disp.isLt a b nul
theorem blt (a b : Reg) (nul : Nul) (disp : BitVec 9) : Statement (.blt a b nul disp) := framed_SB (by decide) disp.isLt a b nul
theorem bge (a b : Reg) (nul : Nul) (disp : BitVec 9) : Statement (.bge a b nul disp) := framed_SB (by decide) disp.isLt a b nul
theorem bltu (a b : Reg) (nul : Nul) (disp : BitVec 9) : Statement (.bltu a b nul disp) := framed_SB (by decide) disp.isLt a b nul
theorem bgeu (a b : Reg) (nul : Nul) (disp : BitVec 9) : Statement (.bgeu a b nul disp) := framed_SB (by decide) disp.isLt a b nul
theorem bra (nul : Nul) (disp : BitVec 9) : Statement (.bra nul disp) := framed_SB (by decide) disp.isLt 0 0 nul
theorem jalr (d a : Reg) (imm : BitVec 14) : Statement (.jalr d a imm) := by
  have := imm.isLt
  exact framed_SI (by decide) (by omega) d a
theorem nop : Statement (.nop) := by
  exact framed_Sys (by decide) (by omega)
theorem halt : Statement (.halt) := by
  exact framed_Sys (by decide) (by omega)
theorem trap (n : BitVec 10) : Statement (.trap n) := by
  have := n.isLt
  exact framed_Sys (by decide) (by omega)
theorem rtt : Statement (.rtt) := by
  exact framed_Sys (by decide) (by omega)
theorem fence (kind : FenceKind) (scope : Scope) : Statement (.fence kind scope) := by
  have := fenceCode_le kind
  have := scopeCode_le scope
  exact framed_Sys (by decide) (by omega)
theorem qdrain (m : BitVec 5) : Statement (.qdrain m) := by
  have := m.isLt
  exact framed_Sys (by decide) (by omega)
theorem modeset (v : BitVec 3) : Statement (.modeset v) := by
  have := v.isLt
  exact framed_Sys (by decide) (by omega)
theorem segb : Statement (.segb) := by
  exact framed_Sys (by decide) (by omega)
theorem tmark : Statement (.tmark) := by
  exact framed_Sys (by decide) (by omega)
theorem gset (a b : Reg) : Statement (.gset a b) := by
  exact framed_Sys (by decide) (by omega)
theorem gclr (a b : Reg) : Statement (.gclr a b) := by
  exact framed_Sys (by decide) (by omega)
theorem evpop (d : Reg) : Statement (.evpop d) := by
  exact framed_Sys (by decide) (by omega)
theorem evpeek (d : Reg) : Statement (.evpeek d) := by
  exact framed_Sys (by decide) (by omega)
theorem tlbinv (a b : Reg) : Statement (.tlbinv a b) := by
  exact framed_Sys (by decide) (by omega)
theorem lbrk (lvl : Fin 4) : Statement (.lbrk lvl) := by
  exact framed_Sys (by decide) (by omega)
theorem csrr (d : Reg) (idx : BitVec 10) : Statement (.csrr d idx) := by
  have := idx.isLt
  exact framed_SI (by decide) (by omega) d 0
theorem csrw (d a : Reg) (idx : BitVec 10) : Statement (.csrw d a idx) := by
  have := idx.isLt
  exact framed_SI (by decide) (by omega) d a
theorem csrs (d a : Reg) (idx : BitVec 10) : Statement (.csrs d a idx) := by
  have := idx.isLt
  exact framed_SI (by decide) (by omega) d a
theorem csrc (d a : Reg) (idx : BitVec 10) : Statement (.csrc d a idx) := by
  have := idx.isLt
  exact framed_SI (by decide) (by omega) d a
theorem loop (lvl : Fin 4) (rot fti : Bool) (a : Reg) (len : BitVec 14) : Statement (.loop lvl rot fti a len) := by
  have := bit_le rot
  have := bit_le fti
  have := len.isLt
  unfold Statement encode
  apply framed_one <;> omega
theorem semadd (i : Reg) (scope : Scope) (a : Reg) : Statement (.semadd i scope a) := by
  have := scopeCode_le scope
  exact framed_SX (by decide) (by decide) (by omega) (by omega) (by omega) (by omega)
theorem semset (i : Reg) (scope : Scope) (a : Reg) : Statement (.semset i scope a) := by
  have := scopeCode_le scope
  exact framed_SX (by decide) (by decide) (by omega) (by omega) (by omega) (by omega)
theorem semwait (i : Reg) (scope : Scope) (a : Reg) : Statement (.semwait i scope a) := by
  have := scopeCode_le scope
  exact framed_SX (by decide) (by decide) (by omega) (by omega) (by omega) (by omega)
theorem semrd (d i : Reg) : Statement (.semrd d i) := by
  exact framed_SX (by decide) (by decide) (by omega) (by omega) (by omega) (by omega)
theorem semradd (i : Reg) (scope : Scope) (a b : Reg) : Statement (.semradd i scope a b) := by
  have := scopeCode_le scope
  exact framed_SX (by decide) (by decide) (by omega) (by omega) (by omega) (by omega)
theorem semmset (i : Reg) (scope : Scope) (a b : Reg) : Statement (.semmset i scope a b) := by
  have := scopeCode_le scope
  exact framed_SX (by decide) (by decide) (by omega) (by omega) (by omega) (by omega)
theorem pwbegin (d p : Reg) : Statement (.pwbegin d p) := by
  exact framed_SX (by decide) (by decide) (by omega) (by omega) (by omega) (by omega)
theorem pwend (p : Reg) (scope : Scope) : Statement (.pwend p scope) := by
  have := scopeCode_le scope
  exact framed_SX (by decide) (by decide) (by omega) (by omega) (by omega) (by omega)
theorem pwnext (d p : Reg) (scope : Scope) : Statement (.pwnext d p scope) := by
  have := scopeCode_le scope
  exact framed_SX (by decide) (by decide) (by omega) (by omega) (by omega) (by omega)
theorem prbegin (d p : Reg) (scope : Scope) : Statement (.prbegin d p scope) := by
  have := scopeCode_le scope
  exact framed_SX (by decide) (by decide) (by omega) (by omega) (by omega) (by omega)
theorem prend (p : Reg) : Statement (.prend p) := by
  exact framed_SX (by decide) (by decide) (by omega) (by omega) (by omega) (by omega)
theorem prnext (d p : Reg) (scope : Scope) : Statement (.prnext d p scope) := by
  have := scopeCode_le scope
  exact framed_SX (by decide) (by decide) (by omega) (by omega) (by omega) (by omega)
theorem pquery (d p : Reg) : Statement (.pquery d p) := by
  exact framed_SX (by decide) (by decide) (by omega) (by omega) (by omega) (by omega)
theorem racq (d r : Reg) (scope : Scope) : Statement (.racq d r scope) := by
  have := scopeCode_le scope
  exact framed_SX (by decide) (by decide) (by omega) (by omega) (by omega) (by omega)
theorem rpub (r : Reg) (scope : Scope) : Statement (.rpub r scope) := by
  have := scopeCode_le scope
  exact framed_SX (by decide) (by decide) (by omega) (by omega) (by omega) (by omega)
theorem rtake (d r : Reg) (scope : Scope) : Statement (.rtake d r scope) := by
  have := scopeCode_le scope
  exact framed_SX (by decide) (by decide) (by omega) (by omega) (by omega) (by omega)
theorem rfree (r : Reg) (scope : Scope) : Statement (.rfree r scope) := by
  have := scopeCode_le scope
  exact framed_SX (by decide) (by decide) (by omega) (by omega) (by omega) (by omega)
theorem rclose (r : Reg) (scope : Scope) (err : Bool) : Statement (.rclose r scope err) := by
  have := scopeCode_le scope
  have := bit_le err
  exact framed_SX (by decide) (by decide) (by omega) (by omega) (by omega) (by omega)
theorem rbrk (r : Reg) : Statement (.rbrk r) := by
  exact framed_SX (by decide) (by decide) (by omega) (by omega) (by omega) (by omega)
theorem rstat (d r : Reg) : Statement (.rstat d r) := by
  exact framed_SX (by decide) (by decide) (by omega) (by omega) (by omega) (by omega)
theorem launch (a : Reg) : Statement (.launch a) := by
  exact framed_SX (by decide) (by decide) (by omega) (by omega) (by omega) (by omega)
theorem launchs (a : Reg) : Statement (.launchs a) := by
  exact framed_SX (by decide) (by decide) (by omega) (by omega) (by omega) (by omega)
theorem vwset (i a b : Reg) : Statement (.vwset i a b) := by
  exact framed_SX (by decide) (by decide) (by omega) (by omega) (by omega) (by omega)
theorem vwget (d i : Reg) : Statement (.vwget d i) := by
  exact framed_SX (by decide) (by decide) (by omega) (by omega) (by omega) (by omega)
theorem shpset (a : Reg) : Statement (.shpset a) := by
  exact framed_SX (by decide) (by decide) (by omega) (by omega) (by omega) (by omega)
theorem ftset (i : Fin 16) (a : Reg) : Statement (.ftset i a) := by
  exact framed_SX (by decide) (by decide) (by omega) (by omega) (by omega) (by omega)
theorem mset (i a b : Reg) : Statement (.mset i a b) := by
  exact framed_SX (by decide) (by decide) (by omega) (by omega) (by omega) (by omega)
theorem rotset (i a : Reg) : Statement (.rotset i a) := by
  exact framed_SX (by decide) (by decide) (by omega) (by omega) (by omega) (by omega)
theorem li (d : Reg) (v : BitVec 32) : Statement (.li d v) := by
  have := v.isLt
  exact framed_L (by decide) (by omega) (by omega) d 0
theorem lih (d : Reg) (v : BitVec 32) : Statement (.lih d v) := by
  have := v.isLt
  exact framed_L (by decide) (by omega) (by omega) d 0
theorem addil (d a : Reg) (v : BitVec 32) : Statement (.addil d a v) := by
  have := v.isLt
  exact framed_L (by decide) (by omega) (by omega) d a
theorem andil (d a : Reg) (v : BitVec 32) : Statement (.andil d a v) := by
  have := v.isLt
  exact framed_L (by decide) (by omega) (by omega) d a
theorem oril (d a : Reg) (v : BitVec 32) : Statement (.oril d a v) := by
  have := v.isLt
  exact framed_L (by decide) (by omega) (by omega) d a
theorem xoril (d a : Reg) (v : BitVec 32) : Statement (.xoril d a v) := by
  have := v.isLt
  exact framed_L (by decide) (by omega) (by omega) d a
theorem jal (d : Reg) (disp : BitVec 32) : Statement (.jal d disp) := by
  have := disp.isLt
  exact framed_L (by decide) (by omega) (by omega) d 0
theorem beqi (a : Reg) (nul : Nul) (v disp : BitVec 16) : Statement (.beqi a nul v disp) := by
  have := nulCode_le nul
  have := v.isLt
  have := disp.isLt
  exact framed_L (by decide) (by omega) (by omega) 0 a
theorem bnei (a : Reg) (nul : Nul) (v disp : BitVec 16) : Statement (.bnei a nul v disp) := by
  have := nulCode_le nul
  have := v.isLt
  have := disp.isLt
  exact framed_L (by decide) (by omega) (by omega) 0 a
theorem blti (a : Reg) (nul : Nul) (v disp : BitVec 16) : Statement (.blti a nul v disp) := by
  have := nulCode_le nul
  have := v.isLt
  have := disp.isLt
  exact framed_L (by decide) (by omega) (by omega) 0 a
theorem bgei (a : Reg) (nul : Nul) (v disp : BitVec 16) : Statement (.bgei a nul v disp) := by
  have := nulCode_le nul
  have := v.isLt
  have := disp.isLt
  exact framed_L (by decide) (by omega) (by omega) 0 a
theorem bltui (a : Reg) (nul : Nul) (v disp : BitVec 16) : Statement (.bltui a nul v disp) := by
  have := nulCode_le nul
  have := v.isLt
  have := disp.isLt
  exact framed_L (by decide) (by omega) (by omega) 0 a
theorem bgeui (a : Reg) (nul : Nul) (v disp : BitVec 16) : Statement (.bgeui a nul v disp) := by
  have := nulCode_le nul
  have := v.isLt
  have := disp.isLt
  exact framed_L (by decide) (by omega) (by omega) 0 a
theorem loopi (lvl : Fin 4) (rot fti : Bool) (len : BitVec 9) (count : BitVec 32) : Statement (.loopi lvl rot fti len count) := by
  have := bit_le rot
  have := bit_le fti
  have := len.isLt
  have := count.isLt
  exact framed_L (by decide) (by omega) (by omega) 0 0
theorem sege (a : Reg) (sig : BitVec 32) : Statement (.sege a sig) := by
  have := sig.isLt
  exact framed_L (by decide) (by omega) (by omega) 0 a
theorem vadd (v : VWord) : Statement (.vadd v) := framed_V (by decide) (by decide) v
theorem vsub (v : VWord) : Statement (.vsub v) := framed_V (by decide) (by decide) v
theorem vmul (v : VWord) : Statement (.vmul v) := framed_V (by decide) (by decide) v
theorem vfma (v : VWord) : Statement (.vfma v) := framed_V (by decide) (by decide) v
theorem vfms (v : VWord) : Statement (.vfms v) := framed_V (by decide) (by decide) v
theorem vfnma (v : VWord) : Statement (.vfnma v) := framed_V (by decide) (by decide) v
theorem vmin (v : VWord) : Statement (.vmin v) := framed_V (by decide) (by decide) v
theorem vmax (v : VWord) : Statement (.vmax v) := framed_V (by decide) (by decide) v
theorem vabs (v : VWord) : Statement (.vabs v) := framed_V (by decide) (by decide) v
theorem vneg (v : VWord) : Statement (.vneg v) := framed_V (by decide) (by decide) v
theorem vaddsub (v : VWord) : Statement (.vaddsub v) := framed_V (by decide) (by decide) v
theorem vavg (v : VWord) : Statement (.vavg v) := framed_V (by decide) (by decide) v
theorem vmulh (v : VWord) : Statement (.vmulh v) := framed_V (by decide) (by decide) v
theorem vshl (v : VWord) : Statement (.vshl v) := framed_V (by decide) (by decide) v
theorem vshr (v : VWord) : Statement (.vshr v) := framed_V (by decide) (by decide) v
theorem vsra (v : VWord) : Statement (.vsra v) := framed_V (by decide) (by decide) v
theorem vand (v : VWord) : Statement (.vand v) := framed_V (by decide) (by decide) v
theorem vor (v : VWord) : Statement (.vor v) := framed_V (by decide) (by decide) v
theorem vxor (v : VWord) : Statement (.vxor v) := framed_V (by decide) (by decide) v
theorem vnot (v : VWord) : Statement (.vnot v) := framed_V (by decide) (by decide) v
theorem vsel (v : VWord) : Statement (.vsel v) := framed_V (by decide) (by decide) v
theorem vmov (v : VWord) : Statement (.vmov v) := framed_V (by decide) (by decide) v
theorem vclamp (v : VWord) : Statement (.vclamp v) := framed_V (by decide) (by decide) v
theorem vabsd (v : VWord) : Statement (.vabsd v) := framed_V (by decide) (by decide) v
theorem vcmpeq (v : VWord) : Statement (.vcmpeq v) := framed_V (by decide) (by decide) v
theorem vcmpne (v : VWord) : Statement (.vcmpne v) := framed_V (by decide) (by decide) v
theorem vcmplt (v : VWord) : Statement (.vcmplt v) := framed_V (by decide) (by decide) v
theorem vcmple (v : VWord) : Statement (.vcmple v) := framed_V (by decide) (by decide) v
theorem vcmpgt (v : VWord) : Statement (.vcmpgt v) := framed_V (by decide) (by decide) v
theorem vcmpge (v : VWord) : Statement (.vcmpge v) := framed_V (by decide) (by decide) v
theorem vclass (v : VWord) : Statement (.vclass v) := framed_V (by decide) (by decide) v
theorem vrcp (v : VWord) : Statement (.vrcp v) := framed_V (by decide) (by decide) v
theorem vrsqrt (v : VWord) : Statement (.vrsqrt v) := framed_V (by decide) (by decide) v
theorem vsqrt (v : VWord) : Statement (.vsqrt v) := framed_V (by decide) (by decide) v
theorem vexp2 (v : VWord) : Statement (.vexp2 v) := framed_V (by decide) (by decide) v
theorem vlog2 (v : VWord) : Statement (.vlog2 v) := framed_V (by decide) (by decide) v
theorem vexp (v : VWord) : Statement (.vexp v) := framed_V (by decide) (by decide) v
theorem vtanh (v : VWord) : Statement (.vtanh v) := framed_V (by decide) (by decide) v
theorem vsigm (v : VWord) : Statement (.vsigm v) := framed_V (by decide) (by decide) v
theorem vsilu (v : VWord) : Statement (.vsilu v) := framed_V (by decide) (by decide) v
theorem vgelu (v : VWord) : Statement (.vgelu v) := framed_V (by decide) (by decide) v
theorem vsin (v : VWord) : Statement (.vsin v) := framed_V (by decide) (by decide) v
theorem vcos (v : VWord) : Statement (.vcos v) := framed_V (by decide) (by decide) v
theorem vdiv (v : VWord) : Statement (.vdiv v) := framed_V (by decide) (by decide) v
theorem vrsum (v : VWord) : Statement (.vrsum v) := framed_V (by decide) (by decide) v
theorem vrmax (v : VWord) : Statement (.vrmax v) := framed_V (by decide) (by decide) v
theorem vrmin (v : VWord) : Statement (.vrmin v) := framed_V (by decide) (by decide) v
theorem vramax (v : VWord) : Statement (.vramax v) := framed_V (by decide) (by decide) v
theorem vcsum (v : VWord) : Statement (.vcsum v) := framed_V (by decide) (by decide) v
theorem vcmax (v : VWord) : Statement (.vcmax v) := framed_V (by decide) (by decide) v
theorem vscan (v : VWord) : Statement (.vscan v) := framed_V (by decide) (by decide) v
theorem vdot (v : VWord) : Statement (.vdot v) := framed_V (by decide) (by decide) v
theorem vtopk (v : VWord) : Statement (.vtopk v) := framed_V (by decide) (by decide) v
theorem vsortr (v : VWord) : Statement (.vsortr v) := framed_V (by decide) (by decide) v
theorem vmrgk (v : VWord) : Statement (.vmrgk v) := framed_V (by decide) (by decide) v
theorem vcompr (v : VWord) : Statement (.vcompr v) := framed_V (by decide) (by decide) v
theorem vexpnd (v : VWord) : Statement (.vexpnd v) := framed_V (by decide) (by decide) v
theorem vbcast (v : VWord) : Statement (.vbcast v) := framed_V (by decide) (by decide) v
theorem vtrans (v : VWord) : Statement (.vtrans v) := framed_V (by decide) (by decide) v
theorem viota (v : VWord) : Statement (.viota v) := framed_V (by decide) (by decide) v
theorem vgathr (v : VWord) : Statement (.vgathr v) := framed_V (by decide) (by decide) v
theorem vscatr (v : VWord) : Statement (.vscatr v) := framed_V (by decide) (by decide) v
theorem vcvt (v : VWord) : Statement (.vcvt v) := framed_V (by decide) (by decide) v
theorem vrqnt (v : VWord) : Statement (.vrqnt v) := framed_V (by decide) (by decide) v
theorem vmxq (v : VWord) : Statement (.vmxq v) := framed_V (by decide) (by decide) v
theorem vmxdq (v : VWord) : Statement (.vmxdq v) := framed_V (by decide) (by decide) v
theorem vunpk3 (v : VWord) : Statement (.vunpk3 v) := framed_V (by decide) (by decide) v
theorem vpack3 (v : VWord) : Statement (.vpack3 v) := framed_V (by decide) (by decide) v
theorem vunpk4 (v : VWord) : Statement (.vunpk4 v) := framed_V (by decide) (by decide) v
theorem vpack4 (v : VWord) : Statement (.vpack4 v) := framed_V (by decide) (by decide) v
theorem vsat (v : VWord) : Statement (.vsat v) := framed_V (by decide) (by decide) v
theorem vrnd (v : VWord) : Statement (.vrnd v) := framed_V (by decide) (by decide) v
theorem pld (v : VWord) : Statement (.pld v) := framed_V (by decide) (by decide) v
theorem pst (v : VWord) : Statement (.pst v) := framed_V (by decide) (by decide) v
theorem pcomp (v : VWord) : Statement (.pcomp v) := framed_V (by decide) (by decide) v
theorem pinv (v : VWord) : Statement (.pinv v) := framed_V (by decide) (by decide) v
theorem ppow (v : VWord) : Statement (.ppow v) := framed_V (by decide) (by decide) v
theorem prand (v : VWord) : Statement (.prand v) := framed_V (by decide) (by decide) v
theorem pidn (v : VWord) : Statement (.pidn v) := framed_V (by decide) (by decide) v
theorem pcyc (v : VWord) : Statement (.pcyc v) := framed_V (by decide) (by decide) v
theorem pxch (v : VWord) : Statement (.pxch v) := framed_V (by decide) (by decide) v
theorem vperm (v : VWord) : Statement (.vperm v) := framed_V (by decide) (by decide) v
theorem pcycv (v : VWord) : Statement (.pcycv v) := framed_V (by decide) (by decide) v
theorem tld (v : VWord) : Statement (.tld v) := framed_V (by decide) (by decide) v
theorem tldi (v : VWord) : Statement (.tldi v) := framed_V (by decide) (by decide) v
theorem tldw (v : VWord) : Statement (.tldw v) := framed_V (by decide) (by decide) v
theorem tpref (v : VWord) : Statement (.tpref v) := framed_V (by decide) (by decide) v
theorem sbind (v : VWord) : Statement (.sbind v) := framed_V (by decide) (by decide) v
theorem sadv (v : VWord) : Statement (.sadv v) := framed_V (by decide) (by decide) v
theorem wref (v : VWord) : Statement (.wref v) := framed_V (by decide) (by decide) v
theorem tst (v : VWord) : Statement (.tst v) := framed_V (by decide) (by decide) v
theorem tsti (v : VWord) : Statement (.tsti v) := framed_V (by decide) (by decide) v
theorem tstm (v : VWord) : Statement (.tstm v) := framed_V (by decide) (by decide) v
theorem cpy (v : VWord) : Statement (.cpy v) := framed_V (by decide) (by decide) v
theorem cpya (v : VWord) : Statement (.cpya v) := framed_V (by decide) (by decide) v
theorem cmcast (v : VWord) : Statement (.cmcast v) := framed_V (by decide) (by decide) v
theorem catom (v : VWord) : Statement (.catom v) := framed_V (by decide) (by decide) v
theorem cfill (v : VWord) : Statement (.cfill v) := framed_V (by decide) (by decide) v
theorem rnode (v : VWord) : Statement (.rnode v) := framed_V (by decide) (by decide) v
theorem rcont (v : VWord) : Statement (.rcont v) := framed_V (by decide) (by decide) v
theorem wstore (v : VWord) : Statement (.wstore v) := framed_V (by decide) (by decide) v
theorem mma (m : MWord) : Statement (.mma m) := framed_M (by decide) (by decide) m
theorem mmas (m : MWord) : Statement (.mmas m) := framed_M (by decide) (by decide) m
theorem mmat (m : MWord) : Statement (.mmat m) := framed_M (by decide) (by decide) m
theorem mdrain (m : MWord) : Statement (.mdrain m) := framed_M (by decide) (by decide) m
theorem mdrainmx (m : MWord) : Statement (.mdrainmx m) := framed_M (by decide) (by decide) m
theorem mldac (m : MWord) : Statement (.mldac m) := framed_M (by decide) (by decide) m
theorem mclr (m : MWord) : Statement (.mclr m) := framed_M (by decide) (by decide) m
theorem wbld (m : MWord) : Statement (.wbld m) := framed_M (by decide) (by decide) m
theorem wbinv (m : MWord) : Statement (.wbinv m) := framed_M (by decide) (by decide) m
theorem engineDispatch : Statement (.engineDispatch) := framed_nil
theorem resultLanding : Statement (.resultLanding) := framed_nil
theorem group4ReadPromotion : Statement (.group4ReadPromotion) := framed_nil
theorem handlerTrap : Statement (.handlerTrap) := framed_nil
theorem rttResume : Statement (.rttResume) := framed_nil
theorem haltComplete : Statement (.haltComplete) := framed_nil
theorem modesetComplete : Statement (.modesetComplete) := framed_nil
theorem qdrainComplete : Statement (.qdrainComplete) := framed_nil
theorem fenceAck : Statement (.fenceAck) := framed_nil
theorem semwaitSatisfied : Statement (.semwaitSatisfied) := framed_nil
theorem semRemoteService : Statement (.semRemoteService) := framed_nil
theorem poolService : Statement (.poolService) := framed_nil
theorem ringService : Statement (.ringService) := framed_nil
theorem ringWaitServiced : Statement (.ringWaitServiced) := framed_nil
theorem homeReplyArrival : Statement (.homeReplyArrival) := framed_nil
theorem lateAccessArrival : Statement (.lateAccessArrival) := framed_nil
theorem evqRecordArrival : Statement (.evqRecordArrival) := framed_nil
theorem copyComplete : Statement (.copyComplete) := framed_nil
theorem copyDispatchFaultRecord : Statement (.copyDispatchFaultRecord) := framed_nil
theorem memoryPortArrival : Statement (.memoryPortArrival) := framed_nil
theorem nodeArmingRecord : Statement (.nodeArmingRecord) := framed_nil
theorem reductionPacketArrival : Statement (.reductionPacketArrival) := framed_nil
theorem nodeDeadline : Statement (.nodeDeadline) := framed_nil
theorem rootRecordWrite : Statement (.rootRecordWrite) := framed_nil
theorem rcontAnswer : Statement (.rcontAnswer) := framed_nil
theorem iterationStart : Statement (.iterationStart) := framed_nil
theorem tlbMissResolved : Statement (.tlbMissResolved) := framed_nil
theorem pageFaultResolved : Statement (.pageFaultResolved) := framed_nil
theorem tlbinvComplete : Statement (.tlbinvComplete) := framed_nil
theorem replayRereadDone : Statement (.replayRereadDone) := framed_nil
theorem wsBackstopRefresh : Statement (.wsBackstopRefresh) := framed_nil
theorem wsRefreshEnd : Statement (.wsRefreshEnd) := framed_nil
theorem hbmRefresh : Statement (.hbmRefresh) := framed_nil
theorem patrolScrub : Statement (.patrolScrub) := framed_nil
theorem hbmLaneRepair : Statement (.hbmLaneRepair) := framed_nil
theorem hbmRepairPauseEnd : Statement (.hbmRepairPauseEnd) := framed_nil
theorem cxlPortFailure : Statement (.cxlPortFailure) := framed_nil
theorem crossbarGrant : Statement (.crossbarGrant) := framed_nil
theorem d2dDelivery : Statement (.d2dDelivery) := framed_nil
theorem noticeWindow : Statement (.noticeWindow) := framed_nil
theorem hubNotice : Statement (.hubNotice) := framed_nil
theorem multicastApply : Statement (.multicastApply) := framed_nil
theorem biryarFlitReceive : Statement (.biryarFlitReceive) := framed_nil
theorem biryarNack : Statement (.biryarNack) := framed_nil
theorem laneFallback : Statement (.laneFallback) := framed_nil
theorem portDown : Statement (.portDown) := framed_nil
theorem pathResend : Statement (.pathResend) := framed_nil
theorem endToEndAck : Statement (.endToEndAck) := framed_nil
theorem headerError : Statement (.headerError) := framed_nil
theorem packetAbandon : Statement (.packetAbandon) := framed_nil
theorem coreStateParity : Statement (.coreStateParity) := framed_nil
theorem activate : Statement (.activate) := framed_nil
theorem cancel : Statement (.cancel) := framed_nil
theorem hostRegisterWrite : Statement (.hostRegisterWrite) := framed_nil
theorem vfEnable : Statement (.vfEnable) := framed_nil
theorem ebstatWrite : Statement (.ebstatWrite) := framed_nil
theorem ebceWrite : Statement (.ebceWrite) := framed_nil
theorem kernNode : Statement (.kernNode) := framed_nil
theorem kernelPlacement : Statement (.kernelPlacement) := framed_nil
theorem stagingComplete : Statement (.stagingComplete) := framed_nil
theorem copyNode : Statement (.copyNode) := framed_nil
theorem condNode : Statement (.condNode) := framed_nil
theorem loopNode : Statement (.loopNode) := framed_nil
theorem joinNode : Statement (.joinNode) := framed_nil
theorem signalNode : Statement (.signalNode) := framed_nil
theorem endNode : Statement (.endNode) := framed_nil
theorem kernelEnd : Statement (.kernelEnd) := framed_nil
theorem tenantPoolCreate : Statement (.tenantPoolCreate) := framed_nil
theorem preemptRequest : Statement (.preemptRequest) := framed_nil
theorem preemptSave : Statement (.preemptSave) := framed_nil
theorem preemptWithdraw : Statement (.preemptWithdraw) := framed_nil
theorem resumption : Statement (.resumption) := framed_nil
theorem powerOn : Statement (.powerOn) := framed_nil
theorem moduleOsInit : Statement (.moduleOsInit) := framed_nil
theorem spdmRequest : Statement (.spdmRequest) := framed_nil
theorem pldmReport : Statement (.pldmReport) := framed_nil
theorem pldmFwUpdate : Statement (.pldmFwUpdate) := framed_nil
theorem powerLimitSet : Statement (.powerLimitSet) := framed_nil
theorem thermalLimit : Statement (.thermalLimit) := framed_nil
theorem lifeRecordUpdate : Statement (.lifeRecordUpdate) := framed_nil
theorem kernelImageLoad : Statement (.kernelImageLoad) := framed_nil
theorem tenantPoolDestroy : Statement (.tenantPoolDestroy) := framed_nil
theorem coreOwnershipChange : Statement (.coreOwnershipChange) := framed_nil
theorem biryarPortTrained : Statement (.biryarPortTrained) := framed_nil
theorem biryarStatusWrite : Statement (.biryarStatusWrite) := framed_nil
theorem vfDisable : Statement (.vfDisable) := framed_nil
theorem powerLoss : Statement (.powerLoss) := framed_nil

end Sys2Proof.Laws.Framed
end

