-- ==== Sys2Proof/Laws/State.lean ====
section
/-! SUPPORT. What each named update of the state leaves as it was: one lemma for each field and update, true by unfolding, so that no
later proof opens a record update. -/

namespace Sys2Proof.Machine

/-! ### What an update writes -/

@[simp] theorem State.core_setCore (s : State) (c : CoreId) (k : Core) : (s.setCore c k).core c = k := by
  simp [State.core, State.setCore]

theorem State.core_setCore_ne (s : State) {c d : CoreId} (k : Core) (h : c ≠ d) : (s.setCore c k).core d = s.core d := by
  have : ¬ c.val = d.val := fun e => h (Fin.ext e)
  simp [State.core, State.setCore, this]

@[simp] theorem State.die_setDie (s : State) (d : DieId) (k : Die) : (s.setDie d k).die d = k := by
  simp [State.die, State.setDie]

theorem State.die_setDie_ne (s : State) {d e : DieId} (k : Die) (h : d ≠ e) : (s.setDie d k).die e = s.die e := by
  have : ¬ d.val = e.val := fun x => h (Fin.ext x)
  simp [State.die, State.setDie, this]

@[simp] theorem State.tenantOf_modTenant (s : State) (t : TenantId) (f : Tenant → Tenant) :
    (s.modTenant t f).tenantOf t = f (s.tenantOf t) := by
  simp [State.tenantOf, State.modTenant]

theorem State.tenantOf_modTenant_ne (s : State) {t u : TenantId} (f : Tenant → Tenant) (h : t ≠ u) :
    (s.modTenant t f).tenantOf u = s.tenantOf u := by
  have : ¬ t.val = u.val := fun x => h (Fin.ext x)
  simp [State.tenantOf, State.modTenant, this]

theorem State.modCore_eq (s : State) (c : CoreId) (f : Core → Core) : s.modCore c f = s.setCore c (f (s.core c)) := rfl

theorem State.modDie_eq (s : State) (d : DieId) (f : Die → Die) : s.modDie d f = s.setDie d (f (s.die d)) := rfl

/-- A step on its way is among the steps on their way. -/
theorem mem_insertAgenda {a b : AgendaItem} {l : List AgendaItem} : b ∈ insertAgenda a l ↔ b = a ∨ b ∈ l := by
  induction l with
  | nil => simp [insertAgenda]
  | cons c r ih =>
    unfold insertAgenda
    split
    · simp only [List.mem_cons, ih, or_left_comm]
    · simp [List.mem_cons]

/-- Placing a step on its way keeps the order of the agenda. -/
theorem pairwise_insertAgenda {a : AgendaItem} {l : List AgendaItem} (h : l.Pairwise fun x y => x.due ≤ y.due) :
    (insertAgenda a l).Pairwise fun x y => x.due ≤ y.due := by
  induction l with
  | nil => simp [insertAgenda]
  | cons c r ih =>
    obtain ⟨h1, h2⟩ := List.pairwise_cons.1 h
    unfold insertAgenda
    split
    · rename_i hc
      refine List.pairwise_cons.2 ⟨fun x hx => ?_, ih h2⟩
      rcases mem_insertAgenda.1 hx with rfl | hx
      · simp only [Bool.or_eq_true, Bool.and_eq_true, decide_eq_true_eq] at hc; omega
      · exact h1 x hx
    · rename_i hc
      simp only [Bool.or_eq_true, Bool.and_eq_true, decide_eq_true_eq, not_or, not_and] at hc
      refine List.pairwise_cons.2 ⟨fun x hx => ?_, h⟩
      rcases List.mem_cons.1 hx with rfl | hx
      · omega
      · have := h1 x hx; omega

theorem State.schedule_sends (s : State) (n : Nat) (e : Event) : ⟨s.time + n, e⟩ ∈ (s.schedule n e).agenda := by
  simp [State.schedule, mem_insertAgenda]

/-! ### setCore -/

@[simp] theorem State.setCore_dies (s : State) (c : CoreId) (k : Core) : (s.setCore c k).dies = s.dies := rfl
@[simp] theorem State.setCore_hbm (s : State) (c : CoreId) (k : Core) : (s.setCore c k).hbm = s.hbm := rfl
@[simp] theorem State.setCore_tier2 (s : State) (c : CoreId) (k : Core) : (s.setCore c k).tier2 = s.tier2 := rfl
@[simp] theorem State.setCore_wstore (s : State) (c : CoreId) (k : Core) : (s.setCore c k).wstore = s.wstore := rfl
@[simp] theorem State.setCore_host (s : State) (c : CoreId) (k : Core) : (s.setCore c k).host = s.host := rfl
@[simp] theorem State.setCore_peers (s : State) (c : CoreId) (k : Core) : (s.setCore c k).peers = s.peers := rfl
@[simp] theorem State.setCore_tenants (s : State) (c : CoreId) (k : Core) : (s.setCore c k).tenants = s.tenants := rfl
@[simp] theorem State.setCore_kernels (s : State) (c : CoreId) (k : Core) : (s.setCore c k).kernels = s.kernels := rfl
@[simp] theorem State.setCore_nextKid (s : State) (c : CoreId) (k : Core) : (s.setCore c k).nextKid = s.nextKid := rfl
@[simp] theorem State.setCore_nextOrder (s : State) (c : CoreId) (k : Core) : (s.setCore c k).nextOrder = s.nextOrder := rfl
@[simp] theorem State.setCore_nextRid (s : State) (c : CoreId) (k : Core) : (s.setCore c k).nextRid = s.nextRid := rfl
@[simp] theorem State.setCore_nextPacket (s : State) (c : CoreId) (k : Core) : (s.setCore c k).nextPacket = s.nextPacket := rfl
@[simp] theorem State.setCore_copyNodes (s : State) (c : CoreId) (k : Core) : (s.setCore c k).copyNodes = s.copyNodes := rfl
@[simp] theorem State.setCore_casts (s : State) (c : CoreId) (k : Core) : (s.setCore c k).casts = s.casts := rfl
@[simp] theorem State.setCore_nextCast (s : State) (c : CoreId) (k : Core) : (s.setCore c k).nextCast = s.nextCast := rfl
@[simp] theorem State.setCore_synced (s : State) (c : CoreId) (k : Core) : (s.setCore c k).synced = s.synced := rfl
@[simp] theorem State.setCore_joins (s : State) (c : CoreId) (k : Core) : (s.setCore c k).joins = s.joins := rfl
@[simp] theorem State.setCore_inbound (s : State) (c : CoreId) (k : Core) : (s.setCore c k).inbound = s.inbound := rfl
@[simp] theorem State.setCore_ports (s : State) (c : CoreId) (k : Core) : (s.setCore c k).ports = s.ports := rfl
@[simp] theorem State.setCore_links (s : State) (c : CoreId) (k : Core) : (s.setCore c k).links = s.links := rfl
@[simp] theorem State.setCore_hub (s : State) (c : CoreId) (k : Core) : (s.setCore c k).hub = s.hub := rfl
@[simp] theorem State.setCore_osRoot (s : State) (c : CoreId) (k : Core) : (s.setCore c k).osRoot = s.osRoot := rfl
@[simp] theorem State.setCore_time (s : State) (c : CoreId) (k : Core) : (s.setCore c k).time = s.time := rfl
@[simp] theorem State.setCore_cur (s : State) (c : CoreId) (k : Core) : (s.setCore c k).cur = s.cur := rfl
@[simp] theorem State.setCore_curDone (s : State) (c : CoreId) (k : Core) : (s.setCore c k).curDone = s.curDone := rfl
@[simp] theorem State.setCore_agenda (s : State) (c : CoreId) (k : Core) : (s.setCore c k).agenda = s.agenda := rfl
@[simp] theorem State.setCore_event (s : State) (c : CoreId) (k : Core) : (s.setCore c k).event = s.event := rfl
@[simp] theorem State.setCore_oracle (s : State) (c : CoreId) (k : Core) : (s.setCore c k).oracle = s.oracle := rfl
@[simp] theorem State.setCore_fresh (s : State) (c : CoreId) (k : Core) : (s.setCore c k).fresh = s.fresh := rfl
@[simp] theorem State.setCore_die (s : State) (c : CoreId) (k : Core) (x : DieId) : (s.setCore c k).die x = s.die x := rfl
@[simp] theorem State.setCore_tenantOf (s : State) (c : CoreId) (k : Core) (x : TenantId) : (s.setCore c k).tenantOf x = s.tenantOf x := rfl
@[simp] theorem State.setCore_now (s : State) (c : CoreId) (k : Core) (x : CoreId) : (s.setCore c k).now x = s.now x := rfl

/-! ### modCore -/

@[simp] theorem State.modCore_dies (s : State) (c : CoreId) (f : Core → Core) : (s.modCore c f).dies = s.dies := rfl
@[simp] theorem State.modCore_hbm (s : State) (c : CoreId) (f : Core → Core) : (s.modCore c f).hbm = s.hbm := rfl
@[simp] theorem State.modCore_tier2 (s : State) (c : CoreId) (f : Core → Core) : (s.modCore c f).tier2 = s.tier2 := rfl
@[simp] theorem State.modCore_wstore (s : State) (c : CoreId) (f : Core → Core) : (s.modCore c f).wstore = s.wstore := rfl
@[simp] theorem State.modCore_host (s : State) (c : CoreId) (f : Core → Core) : (s.modCore c f).host = s.host := rfl
@[simp] theorem State.modCore_peers (s : State) (c : CoreId) (f : Core → Core) : (s.modCore c f).peers = s.peers := rfl
@[simp] theorem State.modCore_tenants (s : State) (c : CoreId) (f : Core → Core) : (s.modCore c f).tenants = s.tenants := rfl
@[simp] theorem State.modCore_kernels (s : State) (c : CoreId) (f : Core → Core) : (s.modCore c f).kernels = s.kernels := rfl
@[simp] theorem State.modCore_nextKid (s : State) (c : CoreId) (f : Core → Core) : (s.modCore c f).nextKid = s.nextKid := rfl
@[simp] theorem State.modCore_nextOrder (s : State) (c : CoreId) (f : Core → Core) : (s.modCore c f).nextOrder = s.nextOrder := rfl
@[simp] theorem State.modCore_nextRid (s : State) (c : CoreId) (f : Core → Core) : (s.modCore c f).nextRid = s.nextRid := rfl
@[simp] theorem State.modCore_nextPacket (s : State) (c : CoreId) (f : Core → Core) : (s.modCore c f).nextPacket = s.nextPacket := rfl
@[simp] theorem State.modCore_copyNodes (s : State) (c : CoreId) (f : Core → Core) : (s.modCore c f).copyNodes = s.copyNodes := rfl
@[simp] theorem State.modCore_casts (s : State) (c : CoreId) (f : Core → Core) : (s.modCore c f).casts = s.casts := rfl
@[simp] theorem State.modCore_nextCast (s : State) (c : CoreId) (f : Core → Core) : (s.modCore c f).nextCast = s.nextCast := rfl
@[simp] theorem State.modCore_synced (s : State) (c : CoreId) (f : Core → Core) : (s.modCore c f).synced = s.synced := rfl
@[simp] theorem State.modCore_joins (s : State) (c : CoreId) (f : Core → Core) : (s.modCore c f).joins = s.joins := rfl
@[simp] theorem State.modCore_inbound (s : State) (c : CoreId) (f : Core → Core) : (s.modCore c f).inbound = s.inbound := rfl
@[simp] theorem State.modCore_ports (s : State) (c : CoreId) (f : Core → Core) : (s.modCore c f).ports = s.ports := rfl
@[simp] theorem State.modCore_links (s : State) (c : CoreId) (f : Core → Core) : (s.modCore c f).links = s.links := rfl
@[simp] theorem State.modCore_hub (s : State) (c : CoreId) (f : Core → Core) : (s.modCore c f).hub = s.hub := rfl
@[simp] theorem State.modCore_osRoot (s : State) (c : CoreId) (f : Core → Core) : (s.modCore c f).osRoot = s.osRoot := rfl
@[simp] theorem State.modCore_time (s : State) (c : CoreId) (f : Core → Core) : (s.modCore c f).time = s.time := rfl
@[simp] theorem State.modCore_cur (s : State) (c : CoreId) (f : Core → Core) : (s.modCore c f).cur = s.cur := rfl
@[simp] theorem State.modCore_curDone (s : State) (c : CoreId) (f : Core → Core) : (s.modCore c f).curDone = s.curDone := rfl
@[simp] theorem State.modCore_agenda (s : State) (c : CoreId) (f : Core → Core) : (s.modCore c f).agenda = s.agenda := rfl
@[simp] theorem State.modCore_event (s : State) (c : CoreId) (f : Core → Core) : (s.modCore c f).event = s.event := rfl
@[simp] theorem State.modCore_oracle (s : State) (c : CoreId) (f : Core → Core) : (s.modCore c f).oracle = s.oracle := rfl
@[simp] theorem State.modCore_fresh (s : State) (c : CoreId) (f : Core → Core) : (s.modCore c f).fresh = s.fresh := rfl
@[simp] theorem State.modCore_die (s : State) (c : CoreId) (f : Core → Core) (x : DieId) : (s.modCore c f).die x = s.die x := rfl
@[simp] theorem State.modCore_tenantOf (s : State) (c : CoreId) (f : Core → Core) (x : TenantId) : (s.modCore c f).tenantOf x = s.tenantOf x := rfl
@[simp] theorem State.modCore_now (s : State) (c : CoreId) (f : Core → Core) (x : CoreId) : (s.modCore c f).now x = s.now x := rfl

/-! ### setCpu -/

@[simp] theorem State.setCpu_dies (s : State) (k : Core) : (s.setCpu k).dies = s.dies := rfl
@[simp] theorem State.setCpu_hbm (s : State) (k : Core) : (s.setCpu k).hbm = s.hbm := rfl
@[simp] theorem State.setCpu_tier2 (s : State) (k : Core) : (s.setCpu k).tier2 = s.tier2 := rfl
@[simp] theorem State.setCpu_wstore (s : State) (k : Core) : (s.setCpu k).wstore = s.wstore := rfl
@[simp] theorem State.setCpu_host (s : State) (k : Core) : (s.setCpu k).host = s.host := rfl
@[simp] theorem State.setCpu_peers (s : State) (k : Core) : (s.setCpu k).peers = s.peers := rfl
@[simp] theorem State.setCpu_tenants (s : State) (k : Core) : (s.setCpu k).tenants = s.tenants := rfl
@[simp] theorem State.setCpu_kernels (s : State) (k : Core) : (s.setCpu k).kernels = s.kernels := rfl
@[simp] theorem State.setCpu_nextKid (s : State) (k : Core) : (s.setCpu k).nextKid = s.nextKid := rfl
@[simp] theorem State.setCpu_nextOrder (s : State) (k : Core) : (s.setCpu k).nextOrder = s.nextOrder := rfl
@[simp] theorem State.setCpu_nextRid (s : State) (k : Core) : (s.setCpu k).nextRid = s.nextRid := rfl
@[simp] theorem State.setCpu_nextPacket (s : State) (k : Core) : (s.setCpu k).nextPacket = s.nextPacket := rfl
@[simp] theorem State.setCpu_copyNodes (s : State) (k : Core) : (s.setCpu k).copyNodes = s.copyNodes := rfl
@[simp] theorem State.setCpu_casts (s : State) (k : Core) : (s.setCpu k).casts = s.casts := rfl
@[simp] theorem State.setCpu_nextCast (s : State) (k : Core) : (s.setCpu k).nextCast = s.nextCast := rfl
@[simp] theorem State.setCpu_synced (s : State) (k : Core) : (s.setCpu k).synced = s.synced := rfl
@[simp] theorem State.setCpu_joins (s : State) (k : Core) : (s.setCpu k).joins = s.joins := rfl
@[simp] theorem State.setCpu_inbound (s : State) (k : Core) : (s.setCpu k).inbound = s.inbound := rfl
@[simp] theorem State.setCpu_ports (s : State) (k : Core) : (s.setCpu k).ports = s.ports := rfl
@[simp] theorem State.setCpu_links (s : State) (k : Core) : (s.setCpu k).links = s.links := rfl
@[simp] theorem State.setCpu_hub (s : State) (k : Core) : (s.setCpu k).hub = s.hub := rfl
@[simp] theorem State.setCpu_osRoot (s : State) (k : Core) : (s.setCpu k).osRoot = s.osRoot := rfl
@[simp] theorem State.setCpu_time (s : State) (k : Core) : (s.setCpu k).time = s.time := rfl
@[simp] theorem State.setCpu_cur (s : State) (k : Core) : (s.setCpu k).cur = s.cur := rfl
@[simp] theorem State.setCpu_curDone (s : State) (k : Core) : (s.setCpu k).curDone = s.curDone := rfl
@[simp] theorem State.setCpu_agenda (s : State) (k : Core) : (s.setCpu k).agenda = s.agenda := rfl
@[simp] theorem State.setCpu_event (s : State) (k : Core) : (s.setCpu k).event = s.event := rfl
@[simp] theorem State.setCpu_oracle (s : State) (k : Core) : (s.setCpu k).oracle = s.oracle := rfl
@[simp] theorem State.setCpu_fresh (s : State) (k : Core) : (s.setCpu k).fresh = s.fresh := rfl
@[simp] theorem State.setCpu_die (s : State) (k : Core) (x : DieId) : (s.setCpu k).die x = s.die x := rfl
@[simp] theorem State.setCpu_tenantOf (s : State) (k : Core) (x : TenantId) : (s.setCpu k).tenantOf x = s.tenantOf x := rfl
@[simp] theorem State.setCpu_now (s : State) (k : Core) (x : CoreId) : (s.setCpu k).now x = s.now x := rfl

/-! ### modCpu -/

@[simp] theorem State.modCpu_dies (s : State) (f : Core → Core) : (s.modCpu f).dies = s.dies := rfl
@[simp] theorem State.modCpu_hbm (s : State) (f : Core → Core) : (s.modCpu f).hbm = s.hbm := rfl
@[simp] theorem State.modCpu_tier2 (s : State) (f : Core → Core) : (s.modCpu f).tier2 = s.tier2 := rfl
@[simp] theorem State.modCpu_wstore (s : State) (f : Core → Core) : (s.modCpu f).wstore = s.wstore := rfl
@[simp] theorem State.modCpu_host (s : State) (f : Core → Core) : (s.modCpu f).host = s.host := rfl
@[simp] theorem State.modCpu_peers (s : State) (f : Core → Core) : (s.modCpu f).peers = s.peers := rfl
@[simp] theorem State.modCpu_tenants (s : State) (f : Core → Core) : (s.modCpu f).tenants = s.tenants := rfl
@[simp] theorem State.modCpu_kernels (s : State) (f : Core → Core) : (s.modCpu f).kernels = s.kernels := rfl
@[simp] theorem State.modCpu_nextKid (s : State) (f : Core → Core) : (s.modCpu f).nextKid = s.nextKid := rfl
@[simp] theorem State.modCpu_nextOrder (s : State) (f : Core → Core) : (s.modCpu f).nextOrder = s.nextOrder := rfl
@[simp] theorem State.modCpu_nextRid (s : State) (f : Core → Core) : (s.modCpu f).nextRid = s.nextRid := rfl
@[simp] theorem State.modCpu_nextPacket (s : State) (f : Core → Core) : (s.modCpu f).nextPacket = s.nextPacket := rfl
@[simp] theorem State.modCpu_copyNodes (s : State) (f : Core → Core) : (s.modCpu f).copyNodes = s.copyNodes := rfl
@[simp] theorem State.modCpu_casts (s : State) (f : Core → Core) : (s.modCpu f).casts = s.casts := rfl
@[simp] theorem State.modCpu_nextCast (s : State) (f : Core → Core) : (s.modCpu f).nextCast = s.nextCast := rfl
@[simp] theorem State.modCpu_synced (s : State) (f : Core → Core) : (s.modCpu f).synced = s.synced := rfl
@[simp] theorem State.modCpu_joins (s : State) (f : Core → Core) : (s.modCpu f).joins = s.joins := rfl
@[simp] theorem State.modCpu_inbound (s : State) (f : Core → Core) : (s.modCpu f).inbound = s.inbound := rfl
@[simp] theorem State.modCpu_ports (s : State) (f : Core → Core) : (s.modCpu f).ports = s.ports := rfl
@[simp] theorem State.modCpu_links (s : State) (f : Core → Core) : (s.modCpu f).links = s.links := rfl
@[simp] theorem State.modCpu_hub (s : State) (f : Core → Core) : (s.modCpu f).hub = s.hub := rfl
@[simp] theorem State.modCpu_osRoot (s : State) (f : Core → Core) : (s.modCpu f).osRoot = s.osRoot := rfl
@[simp] theorem State.modCpu_time (s : State) (f : Core → Core) : (s.modCpu f).time = s.time := rfl
@[simp] theorem State.modCpu_cur (s : State) (f : Core → Core) : (s.modCpu f).cur = s.cur := rfl
@[simp] theorem State.modCpu_curDone (s : State) (f : Core → Core) : (s.modCpu f).curDone = s.curDone := rfl
@[simp] theorem State.modCpu_agenda (s : State) (f : Core → Core) : (s.modCpu f).agenda = s.agenda := rfl
@[simp] theorem State.modCpu_event (s : State) (f : Core → Core) : (s.modCpu f).event = s.event := rfl
@[simp] theorem State.modCpu_oracle (s : State) (f : Core → Core) : (s.modCpu f).oracle = s.oracle := rfl
@[simp] theorem State.modCpu_fresh (s : State) (f : Core → Core) : (s.modCpu f).fresh = s.fresh := rfl
@[simp] theorem State.modCpu_die (s : State) (f : Core → Core) (x : DieId) : (s.modCpu f).die x = s.die x := rfl
@[simp] theorem State.modCpu_tenantOf (s : State) (f : Core → Core) (x : TenantId) : (s.modCpu f).tenantOf x = s.tenantOf x := rfl
@[simp] theorem State.modCpu_now (s : State) (f : Core → Core) (x : CoreId) : (s.modCpu f).now x = s.now x := rfl

/-! ### setDie -/

@[simp] theorem State.setDie_cores (s : State) (d : DieId) (k : Die) : (s.setDie d k).cores = s.cores := rfl
@[simp] theorem State.setDie_hbm (s : State) (d : DieId) (k : Die) : (s.setDie d k).hbm = s.hbm := rfl
@[simp] theorem State.setDie_tier2 (s : State) (d : DieId) (k : Die) : (s.setDie d k).tier2 = s.tier2 := rfl
@[simp] theorem State.setDie_wstore (s : State) (d : DieId) (k : Die) : (s.setDie d k).wstore = s.wstore := rfl
@[simp] theorem State.setDie_host (s : State) (d : DieId) (k : Die) : (s.setDie d k).host = s.host := rfl
@[simp] theorem State.setDie_peers (s : State) (d : DieId) (k : Die) : (s.setDie d k).peers = s.peers := rfl
@[simp] theorem State.setDie_tenants (s : State) (d : DieId) (k : Die) : (s.setDie d k).tenants = s.tenants := rfl
@[simp] theorem State.setDie_kernels (s : State) (d : DieId) (k : Die) : (s.setDie d k).kernels = s.kernels := rfl
@[simp] theorem State.setDie_nextKid (s : State) (d : DieId) (k : Die) : (s.setDie d k).nextKid = s.nextKid := rfl
@[simp] theorem State.setDie_nextOrder (s : State) (d : DieId) (k : Die) : (s.setDie d k).nextOrder = s.nextOrder := rfl
@[simp] theorem State.setDie_nextRid (s : State) (d : DieId) (k : Die) : (s.setDie d k).nextRid = s.nextRid := rfl
@[simp] theorem State.setDie_nextPacket (s : State) (d : DieId) (k : Die) : (s.setDie d k).nextPacket = s.nextPacket := rfl
@[simp] theorem State.setDie_copyNodes (s : State) (d : DieId) (k : Die) : (s.setDie d k).copyNodes = s.copyNodes := rfl
@[simp] theorem State.setDie_casts (s : State) (d : DieId) (k : Die) : (s.setDie d k).casts = s.casts := rfl
@[simp] theorem State.setDie_nextCast (s : State) (d : DieId) (k : Die) : (s.setDie d k).nextCast = s.nextCast := rfl
@[simp] theorem State.setDie_synced (s : State) (d : DieId) (k : Die) : (s.setDie d k).synced = s.synced := rfl
@[simp] theorem State.setDie_joins (s : State) (d : DieId) (k : Die) : (s.setDie d k).joins = s.joins := rfl
@[simp] theorem State.setDie_inbound (s : State) (d : DieId) (k : Die) : (s.setDie d k).inbound = s.inbound := rfl
@[simp] theorem State.setDie_ports (s : State) (d : DieId) (k : Die) : (s.setDie d k).ports = s.ports := rfl
@[simp] theorem State.setDie_links (s : State) (d : DieId) (k : Die) : (s.setDie d k).links = s.links := rfl
@[simp] theorem State.setDie_hub (s : State) (d : DieId) (k : Die) : (s.setDie d k).hub = s.hub := rfl
@[simp] theorem State.setDie_osRoot (s : State) (d : DieId) (k : Die) : (s.setDie d k).osRoot = s.osRoot := rfl
@[simp] theorem State.setDie_time (s : State) (d : DieId) (k : Die) : (s.setDie d k).time = s.time := rfl
@[simp] theorem State.setDie_cur (s : State) (d : DieId) (k : Die) : (s.setDie d k).cur = s.cur := rfl
@[simp] theorem State.setDie_curDone (s : State) (d : DieId) (k : Die) : (s.setDie d k).curDone = s.curDone := rfl
@[simp] theorem State.setDie_agenda (s : State) (d : DieId) (k : Die) : (s.setDie d k).agenda = s.agenda := rfl
@[simp] theorem State.setDie_event (s : State) (d : DieId) (k : Die) : (s.setDie d k).event = s.event := rfl
@[simp] theorem State.setDie_oracle (s : State) (d : DieId) (k : Die) : (s.setDie d k).oracle = s.oracle := rfl
@[simp] theorem State.setDie_fresh (s : State) (d : DieId) (k : Die) : (s.setDie d k).fresh = s.fresh := rfl
@[simp] theorem State.setDie_core (s : State) (d : DieId) (k : Die) (x : CoreId) : (s.setDie d k).core x = s.core x := rfl
@[simp] theorem State.setDie_tenantOf (s : State) (d : DieId) (k : Die) (x : TenantId) : (s.setDie d k).tenantOf x = s.tenantOf x := rfl

/-! ### modDie -/

@[simp] theorem State.modDie_cores (s : State) (d : DieId) (f : Die → Die) : (s.modDie d f).cores = s.cores := rfl
@[simp] theorem State.modDie_hbm (s : State) (d : DieId) (f : Die → Die) : (s.modDie d f).hbm = s.hbm := rfl
@[simp] theorem State.modDie_tier2 (s : State) (d : DieId) (f : Die → Die) : (s.modDie d f).tier2 = s.tier2 := rfl
@[simp] theorem State.modDie_wstore (s : State) (d : DieId) (f : Die → Die) : (s.modDie d f).wstore = s.wstore := rfl
@[simp] theorem State.modDie_host (s : State) (d : DieId) (f : Die → Die) : (s.modDie d f).host = s.host := rfl
@[simp] theorem State.modDie_peers (s : State) (d : DieId) (f : Die → Die) : (s.modDie d f).peers = s.peers := rfl
@[simp] theorem State.modDie_tenants (s : State) (d : DieId) (f : Die → Die) : (s.modDie d f).tenants = s.tenants := rfl
@[simp] theorem State.modDie_kernels (s : State) (d : DieId) (f : Die → Die) : (s.modDie d f).kernels = s.kernels := rfl
@[simp] theorem State.modDie_nextKid (s : State) (d : DieId) (f : Die → Die) : (s.modDie d f).nextKid = s.nextKid := rfl
@[simp] theorem State.modDie_nextOrder (s : State) (d : DieId) (f : Die → Die) : (s.modDie d f).nextOrder = s.nextOrder := rfl
@[simp] theorem State.modDie_nextRid (s : State) (d : DieId) (f : Die → Die) : (s.modDie d f).nextRid = s.nextRid := rfl
@[simp] theorem State.modDie_nextPacket (s : State) (d : DieId) (f : Die → Die) : (s.modDie d f).nextPacket = s.nextPacket := rfl
@[simp] theorem State.modDie_copyNodes (s : State) (d : DieId) (f : Die → Die) : (s.modDie d f).copyNodes = s.copyNodes := rfl
@[simp] theorem State.modDie_casts (s : State) (d : DieId) (f : Die → Die) : (s.modDie d f).casts = s.casts := rfl
@[simp] theorem State.modDie_nextCast (s : State) (d : DieId) (f : Die → Die) : (s.modDie d f).nextCast = s.nextCast := rfl
@[simp] theorem State.modDie_synced (s : State) (d : DieId) (f : Die → Die) : (s.modDie d f).synced = s.synced := rfl
@[simp] theorem State.modDie_joins (s : State) (d : DieId) (f : Die → Die) : (s.modDie d f).joins = s.joins := rfl
@[simp] theorem State.modDie_inbound (s : State) (d : DieId) (f : Die → Die) : (s.modDie d f).inbound = s.inbound := rfl
@[simp] theorem State.modDie_ports (s : State) (d : DieId) (f : Die → Die) : (s.modDie d f).ports = s.ports := rfl
@[simp] theorem State.modDie_links (s : State) (d : DieId) (f : Die → Die) : (s.modDie d f).links = s.links := rfl
@[simp] theorem State.modDie_hub (s : State) (d : DieId) (f : Die → Die) : (s.modDie d f).hub = s.hub := rfl
@[simp] theorem State.modDie_osRoot (s : State) (d : DieId) (f : Die → Die) : (s.modDie d f).osRoot = s.osRoot := rfl
@[simp] theorem State.modDie_time (s : State) (d : DieId) (f : Die → Die) : (s.modDie d f).time = s.time := rfl
@[simp] theorem State.modDie_cur (s : State) (d : DieId) (f : Die → Die) : (s.modDie d f).cur = s.cur := rfl
@[simp] theorem State.modDie_curDone (s : State) (d : DieId) (f : Die → Die) : (s.modDie d f).curDone = s.curDone := rfl
@[simp] theorem State.modDie_agenda (s : State) (d : DieId) (f : Die → Die) : (s.modDie d f).agenda = s.agenda := rfl
@[simp] theorem State.modDie_event (s : State) (d : DieId) (f : Die → Die) : (s.modDie d f).event = s.event := rfl
@[simp] theorem State.modDie_oracle (s : State) (d : DieId) (f : Die → Die) : (s.modDie d f).oracle = s.oracle := rfl
@[simp] theorem State.modDie_fresh (s : State) (d : DieId) (f : Die → Die) : (s.modDie d f).fresh = s.fresh := rfl
@[simp] theorem State.modDie_core (s : State) (d : DieId) (f : Die → Die) (x : CoreId) : (s.modDie d f).core x = s.core x := rfl
@[simp] theorem State.modDie_tenantOf (s : State) (d : DieId) (f : Die → Die) (x : TenantId) : (s.modDie d f).tenantOf x = s.tenantOf x := rfl

/-! ### modTenant -/

@[simp] theorem State.modTenant_cores (s : State) (t : TenantId) (f : Tenant → Tenant) : (s.modTenant t f).cores = s.cores := rfl
@[simp] theorem State.modTenant_dies (s : State) (t : TenantId) (f : Tenant → Tenant) : (s.modTenant t f).dies = s.dies := rfl
@[simp] theorem State.modTenant_hbm (s : State) (t : TenantId) (f : Tenant → Tenant) : (s.modTenant t f).hbm = s.hbm := rfl
@[simp] theorem State.modTenant_tier2 (s : State) (t : TenantId) (f : Tenant → Tenant) : (s.modTenant t f).tier2 = s.tier2 := rfl
@[simp] theorem State.modTenant_wstore (s : State) (t : TenantId) (f : Tenant → Tenant) : (s.modTenant t f).wstore = s.wstore := rfl
@[simp] theorem State.modTenant_host (s : State) (t : TenantId) (f : Tenant → Tenant) : (s.modTenant t f).host = s.host := rfl
@[simp] theorem State.modTenant_peers (s : State) (t : TenantId) (f : Tenant → Tenant) : (s.modTenant t f).peers = s.peers := rfl
@[simp] theorem State.modTenant_kernels (s : State) (t : TenantId) (f : Tenant → Tenant) : (s.modTenant t f).kernels = s.kernels := rfl
@[simp] theorem State.modTenant_nextKid (s : State) (t : TenantId) (f : Tenant → Tenant) : (s.modTenant t f).nextKid = s.nextKid := rfl
@[simp] theorem State.modTenant_nextOrder (s : State) (t : TenantId) (f : Tenant → Tenant) : (s.modTenant t f).nextOrder = s.nextOrder := rfl
@[simp] theorem State.modTenant_nextRid (s : State) (t : TenantId) (f : Tenant → Tenant) : (s.modTenant t f).nextRid = s.nextRid := rfl
@[simp] theorem State.modTenant_nextPacket (s : State) (t : TenantId) (f : Tenant → Tenant) : (s.modTenant t f).nextPacket = s.nextPacket := rfl
@[simp] theorem State.modTenant_copyNodes (s : State) (t : TenantId) (f : Tenant → Tenant) : (s.modTenant t f).copyNodes = s.copyNodes := rfl
@[simp] theorem State.modTenant_casts (s : State) (t : TenantId) (f : Tenant → Tenant) : (s.modTenant t f).casts = s.casts := rfl
@[simp] theorem State.modTenant_nextCast (s : State) (t : TenantId) (f : Tenant → Tenant) : (s.modTenant t f).nextCast = s.nextCast := rfl
@[simp] theorem State.modTenant_synced (s : State) (t : TenantId) (f : Tenant → Tenant) : (s.modTenant t f).synced = s.synced := rfl
@[simp] theorem State.modTenant_joins (s : State) (t : TenantId) (f : Tenant → Tenant) : (s.modTenant t f).joins = s.joins := rfl
@[simp] theorem State.modTenant_inbound (s : State) (t : TenantId) (f : Tenant → Tenant) : (s.modTenant t f).inbound = s.inbound := rfl
@[simp] theorem State.modTenant_ports (s : State) (t : TenantId) (f : Tenant → Tenant) : (s.modTenant t f).ports = s.ports := rfl
@[simp] theorem State.modTenant_links (s : State) (t : TenantId) (f : Tenant → Tenant) : (s.modTenant t f).links = s.links := rfl
@[simp] theorem State.modTenant_hub (s : State) (t : TenantId) (f : Tenant → Tenant) : (s.modTenant t f).hub = s.hub := rfl
@[simp] theorem State.modTenant_osRoot (s : State) (t : TenantId) (f : Tenant → Tenant) : (s.modTenant t f).osRoot = s.osRoot := rfl
@[simp] theorem State.modTenant_time (s : State) (t : TenantId) (f : Tenant → Tenant) : (s.modTenant t f).time = s.time := rfl
@[simp] theorem State.modTenant_cur (s : State) (t : TenantId) (f : Tenant → Tenant) : (s.modTenant t f).cur = s.cur := rfl
@[simp] theorem State.modTenant_curDone (s : State) (t : TenantId) (f : Tenant → Tenant) : (s.modTenant t f).curDone = s.curDone := rfl
@[simp] theorem State.modTenant_agenda (s : State) (t : TenantId) (f : Tenant → Tenant) : (s.modTenant t f).agenda = s.agenda := rfl
@[simp] theorem State.modTenant_event (s : State) (t : TenantId) (f : Tenant → Tenant) : (s.modTenant t f).event = s.event := rfl
@[simp] theorem State.modTenant_oracle (s : State) (t : TenantId) (f : Tenant → Tenant) : (s.modTenant t f).oracle = s.oracle := rfl
@[simp] theorem State.modTenant_fresh (s : State) (t : TenantId) (f : Tenant → Tenant) : (s.modTenant t f).fresh = s.fresh := rfl
@[simp] theorem State.modTenant_core (s : State) (t : TenantId) (f : Tenant → Tenant) (x : CoreId) : (s.modTenant t f).core x = s.core x := rfl
@[simp] theorem State.modTenant_die (s : State) (t : TenantId) (f : Tenant → Tenant) (x : DieId) : (s.modTenant t f).die x = s.die x := rfl
@[simp] theorem State.modTenant_now (s : State) (t : TenantId) (f : Tenant → Tenant) (x : CoreId) : (s.modTenant t f).now x = s.now x := rfl

/-! ### schedule -/

@[simp] theorem State.schedule_cores (s : State) (n : Nat) (e : Event) : (s.schedule n e).cores = s.cores := rfl
@[simp] theorem State.schedule_dies (s : State) (n : Nat) (e : Event) : (s.schedule n e).dies = s.dies := rfl
@[simp] theorem State.schedule_hbm (s : State) (n : Nat) (e : Event) : (s.schedule n e).hbm = s.hbm := rfl
@[simp] theorem State.schedule_tier2 (s : State) (n : Nat) (e : Event) : (s.schedule n e).tier2 = s.tier2 := rfl
@[simp] theorem State.schedule_wstore (s : State) (n : Nat) (e : Event) : (s.schedule n e).wstore = s.wstore := rfl
@[simp] theorem State.schedule_host (s : State) (n : Nat) (e : Event) : (s.schedule n e).host = s.host := rfl
@[simp] theorem State.schedule_peers (s : State) (n : Nat) (e : Event) : (s.schedule n e).peers = s.peers := rfl
@[simp] theorem State.schedule_tenants (s : State) (n : Nat) (e : Event) : (s.schedule n e).tenants = s.tenants := rfl
@[simp] theorem State.schedule_kernels (s : State) (n : Nat) (e : Event) : (s.schedule n e).kernels = s.kernels := rfl
@[simp] theorem State.schedule_nextKid (s : State) (n : Nat) (e : Event) : (s.schedule n e).nextKid = s.nextKid := rfl
@[simp] theorem State.schedule_nextOrder (s : State) (n : Nat) (e : Event) : (s.schedule n e).nextOrder = s.nextOrder := rfl
@[simp] theorem State.schedule_nextRid (s : State) (n : Nat) (e : Event) : (s.schedule n e).nextRid = s.nextRid := rfl
@[simp] theorem State.schedule_nextPacket (s : State) (n : Nat) (e : Event) : (s.schedule n e).nextPacket = s.nextPacket := rfl
@[simp] theorem State.schedule_copyNodes (s : State) (n : Nat) (e : Event) : (s.schedule n e).copyNodes = s.copyNodes := rfl
@[simp] theorem State.schedule_casts (s : State) (n : Nat) (e : Event) : (s.schedule n e).casts = s.casts := rfl
@[simp] theorem State.schedule_nextCast (s : State) (n : Nat) (e : Event) : (s.schedule n e).nextCast = s.nextCast := rfl
@[simp] theorem State.schedule_synced (s : State) (n : Nat) (e : Event) : (s.schedule n e).synced = s.synced := rfl
@[simp] theorem State.schedule_joins (s : State) (n : Nat) (e : Event) : (s.schedule n e).joins = s.joins := rfl
@[simp] theorem State.schedule_inbound (s : State) (n : Nat) (e : Event) : (s.schedule n e).inbound = s.inbound := rfl
@[simp] theorem State.schedule_ports (s : State) (n : Nat) (e : Event) : (s.schedule n e).ports = s.ports := rfl
@[simp] theorem State.schedule_links (s : State) (n : Nat) (e : Event) : (s.schedule n e).links = s.links := rfl
@[simp] theorem State.schedule_hub (s : State) (n : Nat) (e : Event) : (s.schedule n e).hub = s.hub := rfl
@[simp] theorem State.schedule_osRoot (s : State) (n : Nat) (e : Event) : (s.schedule n e).osRoot = s.osRoot := rfl
@[simp] theorem State.schedule_time (s : State) (n : Nat) (e : Event) : (s.schedule n e).time = s.time := rfl
@[simp] theorem State.schedule_cur (s : State) (n : Nat) (e : Event) : (s.schedule n e).cur = s.cur := rfl
@[simp] theorem State.schedule_curDone (s : State) (n : Nat) (e : Event) : (s.schedule n e).curDone = s.curDone := rfl
@[simp] theorem State.schedule_event (s : State) (n : Nat) (e : Event) : (s.schedule n e).event = s.event := rfl
@[simp] theorem State.schedule_oracle (s : State) (n : Nat) (e : Event) : (s.schedule n e).oracle = s.oracle := rfl
@[simp] theorem State.schedule_fresh (s : State) (n : Nat) (e : Event) : (s.schedule n e).fresh = s.fresh := rfl
@[simp] theorem State.schedule_core (s : State) (n : Nat) (e : Event) (x : CoreId) : (s.schedule n e).core x = s.core x := rfl
@[simp] theorem State.schedule_die (s : State) (n : Nat) (e : Event) (x : DieId) : (s.schedule n e).die x = s.die x := rfl
@[simp] theorem State.schedule_tenantOf (s : State) (n : Nat) (e : Event) (x : TenantId) : (s.schedule n e).tenantOf x = s.tenantOf x := rfl
@[simp] theorem State.schedule_now (s : State) (n : Nat) (e : Event) (x : CoreId) : (s.schedule n e).now x = s.now x := rfl

/-! ### chosen -/

@[simp] theorem State.chosen_cores (s : State) : (s.chosen).cores = s.cores := rfl
@[simp] theorem State.chosen_dies (s : State) : (s.chosen).dies = s.dies := rfl
@[simp] theorem State.chosen_hbm (s : State) : (s.chosen).hbm = s.hbm := rfl
@[simp] theorem State.chosen_tier2 (s : State) : (s.chosen).tier2 = s.tier2 := rfl
@[simp] theorem State.chosen_wstore (s : State) : (s.chosen).wstore = s.wstore := rfl
@[simp] theorem State.chosen_host (s : State) : (s.chosen).host = s.host := rfl
@[simp] theorem State.chosen_peers (s : State) : (s.chosen).peers = s.peers := rfl
@[simp] theorem State.chosen_tenants (s : State) : (s.chosen).tenants = s.tenants := rfl
@[simp] theorem State.chosen_kernels (s : State) : (s.chosen).kernels = s.kernels := rfl
@[simp] theorem State.chosen_nextKid (s : State) : (s.chosen).nextKid = s.nextKid := rfl
@[simp] theorem State.chosen_nextOrder (s : State) : (s.chosen).nextOrder = s.nextOrder := rfl
@[simp] theorem State.chosen_nextRid (s : State) : (s.chosen).nextRid = s.nextRid := rfl
@[simp] theorem State.chosen_nextPacket (s : State) : (s.chosen).nextPacket = s.nextPacket := rfl
@[simp] theorem State.chosen_copyNodes (s : State) : (s.chosen).copyNodes = s.copyNodes := rfl
@[simp] theorem State.chosen_casts (s : State) : (s.chosen).casts = s.casts := rfl
@[simp] theorem State.chosen_nextCast (s : State) : (s.chosen).nextCast = s.nextCast := rfl
@[simp] theorem State.chosen_synced (s : State) : (s.chosen).synced = s.synced := rfl
@[simp] theorem State.chosen_joins (s : State) : (s.chosen).joins = s.joins := rfl
@[simp] theorem State.chosen_inbound (s : State) : (s.chosen).inbound = s.inbound := rfl
@[simp] theorem State.chosen_ports (s : State) : (s.chosen).ports = s.ports := rfl
@[simp] theorem State.chosen_links (s : State) : (s.chosen).links = s.links := rfl
@[simp] theorem State.chosen_hub (s : State) : (s.chosen).hub = s.hub := rfl
@[simp] theorem State.chosen_osRoot (s : State) : (s.chosen).osRoot = s.osRoot := rfl
@[simp] theorem State.chosen_time (s : State) : (s.chosen).time = s.time := rfl
@[simp] theorem State.chosen_cur (s : State) : (s.chosen).cur = s.cur := rfl
@[simp] theorem State.chosen_curDone (s : State) : (s.chosen).curDone = s.curDone := rfl
@[simp] theorem State.chosen_agenda (s : State) : (s.chosen).agenda = s.agenda := rfl
@[simp] theorem State.chosen_event (s : State) : (s.chosen).event = s.event := rfl
@[simp] theorem State.chosen_core (s : State) (x : CoreId) : (s.chosen).core x = s.core x := rfl
@[simp] theorem State.chosen_die (s : State) (x : DieId) : (s.chosen).die x = s.die x := rfl
@[simp] theorem State.chosen_tenantOf (s : State) (x : TenantId) : (s.chosen).tenantOf x = s.tenantOf x := rfl
@[simp] theorem State.chosen_now (s : State) (x : CoreId) : (s.chosen).now x = s.now x := rfl

end Sys2Proof.Machine
end

