-- ==== Sys2Proof/Laws/Time.lean ====
section
/-! SUPPORT. The order of time: which updates of the state keep it, and what the next die cycle needs. -/

namespace Sys2Proof.Machine

/-- What does not touch the agenda, the time or a DCLK keeps the order of time. -/
theorem State.OnTime.congr {s t : State} (h : s.OnTime) (a : t.agenda = s.agenda) (n : t.time = s.time)
    (d : ∀ x, (t.die x).dclk = (s.die x).dclk) : t.OnTime := by
  obtain ⟨h1, h2, h3⟩ := h
  refine ⟨by rw [a]; exact h1, by rw [a, n]; exact h2, fun x => by rw [d, n]; exact h3 x⟩

theorem State.OnTime.setCore {s : State} (h : s.OnTime) (c : CoreId) (k : Core) : (s.setCore c k).OnTime :=
  h.congr rfl rfl fun _ => rfl

theorem State.OnTime.modCore {s : State} (h : s.OnTime) (c : CoreId) (f : Core → Core) : (s.modCore c f).OnTime :=
  h.setCore c _

theorem State.OnTime.setCpu {s : State} (h : s.OnTime) (k : Core) : (s.setCpu k).OnTime := h.setCore s.cur k

theorem State.OnTime.modCpu {s : State} (h : s.OnTime) (f : Core → Core) : (s.modCpu f).OnTime := h.setCpu _

theorem State.OnTime.modTenant {s : State} (h : s.OnTime) (t : TenantId) (f : Tenant → Tenant) : (s.modTenant t f).OnTime :=
  h.congr rfl rfl fun _ => rfl

theorem State.OnTime.chosen {s : State} (h : s.OnTime) : s.chosen.OnTime := h.congr rfl rfl fun _ => rfl

/-- A die changed in anything but its DCLK. -/
theorem State.OnTime.modDie {s : State} (h : s.OnTime) (d : DieId) {f : Die → Die} (e : (f (s.die d)).dclk = (s.die d).dclk) :
    (s.modDie d f).OnTime := by
  refine h.congr rfl rfl fun x => ?_
  by_cases hx : d = x
  · subst hx; simpa [State.modDie_eq] using e
  · rw [State.modDie_eq, State.die_setDie_ne _ _ hx]

/-- A step put on its way is not overdue. -/
theorem State.OnTime.schedule {s : State} (h : s.OnTime) (n : Nat) (e : Event) : (s.schedule n e).OnTime := by
  obtain ⟨h1, h2, h3⟩ := h
  refine ⟨pairwise_insertAgenda h1, fun a ha => ?_, h3⟩
  rcases mem_insertAgenda.1 ha with rfl | ha
  · exact Nat.le_add_right _ _
  · exact h2 a ha

/-- Some steps taken off their way. -/
theorem State.OnTime.filter {s t : State} (h : s.OnTime) {p : AgendaItem → Bool} (a : t.agenda = s.agenda.filter p)
    (n : t.time = s.time) (d : ∀ x, (t.die x).dclk = (s.die x).dclk) : t.OnTime := by
  obtain ⟨h1, h2, h3⟩ := h
  refine ⟨by rw [a]; exact h1.sublist List.filter_sublist, fun b hb => ?_, fun x => by rw [d, n]; exact h3 x⟩
  rw [a] at hb
  rw [n]
  exact h2 b ((List.mem_filter.1 hb).1)

/-- The first step of the agenda taken. -/
theorem State.OnTime.tail {s t : State} (h : s.OnTime) (a : t.agenda = s.agenda.tail) (n : t.time = s.time)
    (d : ∀ x, (t.die x).dclk = (s.die x).dclk) : t.OnTime := by
  obtain ⟨h1, h2, h3⟩ := h
  refine ⟨by rw [a]; exact h1.sublist (List.tail_sublist _), fun b hb => ?_, fun x => by rw [d, n]; exact h3 x⟩
  rw [a] at hb
  rw [n]
  exact h2 b (List.mem_of_mem_tail hb)

/-- What every step of a fold keeps, the fold keeps. -/
theorem State.OnTime.fold {α : Type} {f : State → α → State} (k : ∀ s a, s.OnTime → (f s a).OnTime) (l : List α) {s : State}
    (h : s.OnTime) : (l.foldl f s).OnTime := by
  induction l generalizing s with
  | nil => exact h
  | cons a l ih => exact ih (k s a h)

theorem State.OnTime.promote {s : State} (h : s.OnTime) : s.promote.OnTime :=
  h.fold (fun _ _ h => h.fold (fun _ _ h => h.schedule _ _) _) _

/-- The next die cycle, when no step is due in this one. -/
theorem State.OnTime.tick {s : State} (h : s.OnTime) (k : ∀ a ∈ s.agenda, s.time < a.due) : s.tick.OnTime := by
  obtain ⟨h1, _, h3⟩ := h
  refine State.OnTime.promote ⟨h1, k, fun d => ?_⟩
  have := h3 d
  simpa [State.die] using this

/-- The agenda's first step is not due: then none is. -/
theorem State.OnTime.none_due {s : State} (h : s.OnTime) {a : AgendaItem} {r : List AgendaItem} (e : s.agenda = a :: r)
    (k : s.time < a.due) : ∀ b ∈ s.agenda, s.time < b.due := by
  have h1 := h.1
  rw [e] at h1 ⊢
  intro b hb
  rcases List.mem_cons.1 hb with rfl | hb
  · exact k
  · exact Nat.lt_of_lt_of_le k ((List.pairwise_cons.1 h1).1 b hb)

/-- A step that answers comes from what comes next. -/
theorem steps_cases {s t : State} (h : Steps s t) :
    (∃ e, s.plan = .due e ∧ exec e.row { s with agenda := s.agenda.tail, event := e } = .next t) ∨
    (∃ e, s.plan = .event e ∧ exec e.row { s with event := e } = .next t) ∨
    (∃ i u, s.plan = .issue i ∧ exec i s = .next u ∧ t = s.afterIssue u) ∨ s.plan = .move t := by
  unfold Steps step at h
  split at h
  · rename_i e he; exact .inl ⟨e, he, h⟩
  · rename_i e he; exact .inr (.inl ⟨e, he, h⟩)
  · rename_i i hi
    refine .inr (.inr (.inl ?_))
    cases hx : exec i s with
    | next u => rw [hx] at h; exact ⟨i, u, hi, hx, by simpa [onNext] using h.symm⟩
    | fault r => rw [hx] at h; cases h
    | refused r => rw [hx] at h; cases h
  · rename_i u hu
    refine .inr (.inr (.inr ?_))
    cases h; exact hu

end Sys2Proof.Machine
end

