-- ==== Sys2Proof/Laws/Vector.lean ====
section
/-! SUPPORT. What an elementwise vector instruction does at dispatch. -/

namespace Sys2Proof.Machine

/-- The rows, the latency and the occupancy of a plan do not depend on what the checks find. -/
theorem VSpec.plan_timing (sp : VSpec) (two : Bool) (v : VWord) (q : QEntry) :
    (sp.plan two v q).rows = q.rows ∧ (sp.plan two v q).lat = sp.lat q.blocks ∧ (sp.plan two v q).occ = sp.occ q.blocks := by
  unfold VSpec.plan
  dsimp only
  split
  · exact ⟨rfl, rfl, rfl⟩
  · refine ⟨?_, ?_, ?_⟩ <;> simp only [apply_ite VPlan.rows, apply_ite VPlan.lat, apply_ite VPlan.occ, ite_self]

/-- All that an elementwise instruction does at dispatch (R131). -/
theorem elementwise_spec (sp : VSpec) (two : Bool) (op : ElemOp) (v : VWord) (x : Env) (d : Dispatch)
    (h : elementwise sp two op v x = d) :
    d.lat = sp.lat x.q.blocks ∧ d.occ = sp.occ x.q.blocks ∧ (d.fault = none →
        ∃ (f : Fmt) (e : Nat) (us : List ViewUse),
          let old := x.oldTile v f x.q.rows e (sp.readsD || (v.pm ≠ 0 && !v.bit21))
          let s2 := if two then x.c.sourceTile x.q f v.s2 x.q.rows e else constTile x.q.rows e Elem.zero
          let r := mapTile (fun p a c o =>
            if v.pm = 0 ∨ (x.c.maskOf v.pm).getLsbD p = true then op (x.ctx f v.mod) p a c o
            else if v.bit21 then (Elem.zero, 0) else (o, 0)) e 0 (x.c.sourceTile x.q f (.op v.s1) x.q.rows e) s2 old
          d.effs = x.results v.d us ((allElems r).toBytes f.bits) (allFlags r)) := by
  subst h
  obtain ⟨h1, h2, h3⟩ := VSpec.plan_timing sp two v x.q
  unfold elementwise VPlan.run
  dsimp only
  cases hf : (sp.plan two v x.q).fault with
  | some f => simp [VPlan.faulted, h2, h3]
  | none =>
    simp only [h2, h3, true_and, forall_const]
    refine ⟨(sp.plan two v x.q).fmt, (sp.plan two v x.q).e, (sp.plan two v x.q).dst, ?_⟩
    rw [h1]
    have : (fun p a c o => predicated v (x.c.maskOf v.pm) (op (x.ctx (sp.plan two v x.q).fmt v.mod)) p a c o) = (fun p a c o =>
            if v.pm = 0 ∨ (x.c.maskOf v.pm).getLsbD p = true then op (x.ctx (sp.plan two v x.q).fmt v.mod) p a c o
            else if v.bit21 then (Elem.zero, 0) else (o, 0)) := by
      funext p a c o
      simp [predicated, maskOn]
    rw [← this]

end Sys2Proof.Machine
end

