-- ==== Sys2Proof/Tests/Slice0.lean ====
section
/-! SUPPORT. Tests: words written from the spec's encodings decode to their instructions, ill-formed terms are refused, every statement's
hypotheses are met by a state and operands named here, and what a few instructions do on values calculated by hand. -/

open Sys2Proof Sys2Proof.Machine

section Tests

/- One theorem at a time, so that the checks need few threads. -/
set_option Elab.async false

/-! ### Decoding -/

/-- A word from the values of its fields, each with its lowest bit. -/
def at_ (l : List (Nat × Nat)) : Nat := l.foldl (fun a p => a + p.1 * 2 ^ p.2) 0

/-- R58, R69, R87: major 0x00. -/
theorem test_decode_alu :
    ([
      at_ [(0x00000000, 0), (1, 30), (7, 8), (9, 13), (21, 18)],
      at_ [(0x00800000, 0), (1, 30), (7, 8), (9, 13), (21, 18)],
      at_ [(0x01000000, 0), (1, 30), (7, 8), (9, 13), (21, 18)],
      at_ [(0x01800000, 0), (1, 30), (7, 8), (9, 13), (21, 18)],
      at_ [(0x02000000, 0), (1, 30), (7, 8), (9, 13), (21, 18)],
      at_ [(0x02800000, 0), (1, 30), (7, 8), (9, 13), (21, 18)],
      at_ [(0x03000000, 0), (1, 30), (7, 8), (9, 13), (21, 18)],
      at_ [(0x03800000, 0), (1, 30), (7, 8), (9, 13), (21, 18)],
      at_ [(0x04000000, 0), (1, 30), (7, 8), (9, 13), (21, 18)],
      at_ [(0x04800000, 0), (1, 30), (7, 8), (9, 13), (21, 18)],
      at_ [(0x05000000, 0), (1, 30), (7, 8), (9, 13), (21, 18)],
      at_ [(0x05800000, 0), (1, 30), (7, 8), (9, 13), (21, 18)],
      at_ [(0x06000000, 0), (1, 30), (7, 8), (9, 13), (21, 18)],
      at_ [(0x06800000, 0), (1, 30), (7, 8), (9, 13), (21, 18)],
      at_ [(0x07000000, 0), (1, 30), (7, 8), (9, 13), (21, 18)],
      at_ [(0x07800000, 0), (1, 30), (7, 8), (9, 13), (21, 18)],
      at_ [(0x08000000, 0), (1, 30), (7, 8), (9, 13), (21, 18)],
      at_ [(0x08800000, 0), (1, 30), (7, 8), (9, 13), (21, 18)],
      at_ [(0x09000000, 0), (1, 30), (7, 8), (9, 13), (21, 18)],
      at_ [(0x09800000, 0), (1, 30), (7, 8), (9, 13), (21, 18)],
      at_ [(0x0A000000, 0), (1, 30), (7, 8), (9, 13), (21, 18)],
      at_ [(0x0A800000, 0), (1, 30), (7, 8), (9, 13), (21, 18)],
      at_ [(0x0B000000, 0), (1, 30), (7, 8), (9, 13), (21, 18)],
      at_ [(0x0B800000, 0), (1, 30), (7, 8), (9, 13), (21, 18)],
      at_ [(0x0C000000, 0), (1, 30), (7, 8), (9, 13)],
      at_ [(0x0C800000, 0), (1, 30), (7, 8), (9, 13)],
      at_ [(0x0D000000, 0), (1, 30), (7, 8), (9, 13)],
      at_ [(0x0D800000, 0), (1, 30), (7, 8), (9, 13)],
      at_ [(0x0E000000, 0), (1, 30), (7, 8), (9, 13)],
      at_ [(0x0E800000, 0), (1, 30), (7, 8), (9, 13), (21, 18)],
      at_ [(0x0F000000, 0), (1, 30), (7, 8), (9, 13), (21, 18)]] : List Nat).map (decodeTableWord 32) =
    [
      some (.add true 7 9 21),
      some (.sub true 7 9 21),
      some (.and true 7 9 21),
      some (.or true 7 9 21),
      some (.xor true 7 9 21),
      some (.andn true 7 9 21),
      some (.sll true 7 9 21),
      some (.srl true 7 9 21),
      some (.sra true 7 9 21),
      some (.rol true 7 9 21),
      some (.mul true 7 9 21),
      some (.mulh true 7 9 21),
      some (.mulhu true 7 9 21),
      some (.div true 7 9 21),
      some (.divu true 7 9 21),
      some (.rem true 7 9 21),
      some (.remu true 7 9 21),
      some (.min true 7 9 21),
      some (.max true 7 9 21),
      some (.minu true 7 9 21),
      some (.maxu true 7 9 21),
      some (.slt true 7 9 21),
      some (.sltu true 7 9 21),
      some (.seq true 7 9 21),
      some (.clz true 7 9),
      some (.ctz true 7 9),
      some (.popc true 7 9),
      some (.brev true 7 9),
      some (.bswap true 7 9),
      some (.movz true 7 9 21),
      some (.movn true 7 9 21)] := by decide +kernel

/-- R58, R69, R89: immediates; 0x2A5B is negative in 14 bits. -/
theorem test_decode_immediate :
    ([
      at_ [(0x00000004, 0), (7, 8), (9, 13), (10843, 18)],
      at_ [(0x00000008, 0), (7, 8), (9, 13), (10843, 18)],
      at_ [(0x0000000C, 0), (7, 8), (9, 13), (10843, 18)],
      at_ [(0x00000010, 0), (7, 8), (9, 13), (10843, 18)],
      at_ [(0x00000014, 0), (7, 8), (9, 13), (5, 18)],
      at_ [(0x00000018, 0), (7, 8), (9, 13), (5, 18)],
      at_ [(0x0000001C, 0), (7, 8), (9, 13), (5, 18)],
      at_ [(0x00000020, 0), (7, 8), (9, 13), (10843, 18)],
      at_ [(0x00000024, 0), (7, 8), (9, 13), (10843, 18)],
      at_ [(0x00000028, 0), (7, 8), (9, 13), (10843, 18)]] : List Nat).map (decodeTableWord 32) =
    [
      some (.addi 7 9 10843),
      some (.andi 7 9 10843),
      some (.ori 7 9 10843),
      some (.xori 7 9 10843),
      some (.slli 7 9 5),
      some (.srli 7 9 5),
      some (.srai 7 9 5),
      some (.slti 7 9 10843),
      some (.sltiu 7 9 10843),
      some (.seqi 7 9 10843)] := by decide +kernel

/-- R58, R69, R91: scalar loads and stores. -/
theorem test_decode_scalar_memory :
    ([
      at_ [(0x0000002C, 0), (7, 8), (9, 13), (10843, 18)],
      at_ [(0x00000030, 0), (7, 8), (9, 13), (10843, 18)],
      at_ [(0x00000034, 0), (7, 8), (9, 13), (10843, 18)],
      at_ [(0x00000038, 0), (7, 8), (9, 13), (10843, 18)],
      at_ [(0x0000003C, 0), (7, 8), (9, 13), (10843, 18)],
      at_ [(0x00000040, 0), (7, 8), (9, 13), (10843, 18)],
      at_ [(0x00000044, 0), (7, 8), (9, 13), (10843, 18)],
      at_ [(0x00000048, 0), (5, 8), (9, 13), (10843, 18)],
      at_ [(0x0000004C, 0), (5, 8), (9, 13), (10843, 18)],
      at_ [(0x00000050, 0), (5, 8), (9, 13), (10843, 18)],
      at_ [(0x00000054, 0), (5, 8), (9, 13), (10843, 18)]] : List Nat).map (decodeTableWord 32) =
    [
      some (.ldb 7 9 10843),
      some (.ldbu 7 9 10843),
      some (.ldh 7 9 10843),
      some (.ldhu 7 9 10843),
      some (.ldw 7 9 10843),
      some (.ldwu 7 9 10843),
      some (.ldd 7 9 10843),
      some (.stb 5 9 10843),
      some (.sth 5 9 10843),
      some (.stw 5 9 10843),
      some (.std 5 9 10843)] := by decide +kernel

/-- R58, R69, R103: BR and JALR, with NUL 10 and displacement 0x1F3. -/
theorem test_decode_branches :
    ([
      at_ [(0x00000058, 0), (9, 8), (21, 13), (2, 21), (499, 23)],
      at_ [(0x00040058, 0), (9, 8), (21, 13), (2, 21), (499, 23)],
      at_ [(0x00080058, 0), (9, 8), (21, 13), (2, 21), (499, 23)],
      at_ [(0x000C0058, 0), (9, 8), (21, 13), (2, 21), (499, 23)],
      at_ [(0x00100058, 0), (9, 8), (21, 13), (2, 21), (499, 23)],
      at_ [(0x00140058, 0), (9, 8), (21, 13), (2, 21), (499, 23)],
      at_ [(0x00180058, 0), (2, 21), (499, 23)],
      at_ [(0x0000005C, 0), (7, 8), (9, 13), (10843, 18)]] : List Nat).map (decodeTableWord 32) =
    [
      some (.beq 9 21 .taken 499),
      some (.bne 9 21 .taken 499),
      some (.blt 9 21 .taken 499),
      some (.bge 9 21 .taken 499),
      some (.bltu 9 21 .taken 499),
      some (.bgeu 9 21 .taken 499),
      some (.bra .taken 499),
      some (.jalr 7 9 10843)] := by decide +kernel

/-- R58, R70: SYS. -/
theorem test_decode_system :
    ([
      at_ [(0x00000060, 0)],
      at_ [(0x00800060, 0)],
      at_ [(0x01000060, 0), (601, 8)],
      at_ [(0x01800060, 0)],
      at_ [(0x02000060, 0), (2, 8), (5, 18)],
      at_ [(0x02800060, 0), (21, 8)],
      at_ [(0x03000060, 0), (5, 8)],
      at_ [(0x03800060, 0)],
      at_ [(0x04000060, 0)],
      at_ [(0x04800060, 0), (9, 13), (21, 18)],
      at_ [(0x05000060, 0), (9, 13), (21, 18)],
      at_ [(0x05800060, 0), (7, 8)],
      at_ [(0x06000060, 0), (7, 8)],
      at_ [(0x06800060, 0), (9, 13), (21, 18)],
      at_ [(0x07000060, 0), (2, 8)]] : List Nat).map (decodeTableWord 32) =
    [
      some (.nop),
      some (.halt),
      some (.trap 601),
      some (.rtt),
      some (.fence .rel .peer),
      some (.qdrain 21),
      some (.modeset 5),
      some (.segb),
      some (.tmark),
      some (.gset 9 21),
      some (.gclr 9 21),
      some (.evpop 7),
      some (.evpeek 7),
      some (.tlbinv 9 21),
      some (.lbrk 2)] := by decide +kernel

/-- R58, R69, R97, R109: the CSR instructions and LOOP. -/
theorem test_decode_registers :
    ([
      at_ [(0x00000064, 0), (7, 8), (54, 18)],
      at_ [(0x00000068, 0), (7, 8), (9, 13), (54, 18)],
      at_ [(0x0000006C, 0), (7, 8), (9, 13), (54, 18)],
      at_ [(0x00000070, 0), (7, 8), (9, 13), (54, 18)],
      at_ [(0x00000074, 0), (2, 8), (1, 10), (1, 11), (9, 13), (77, 18)]] : List Nat).map (decodeTableWord 32) =
    [
      some (.csrr 7 54),
      some (.csrw 7 9 54),
      some (.csrs 7 9 54),
      some (.csrc 7 9 54),
      some (.loop 2 true true 9 77)] := by decide +kernel

/-- R71, R239: SEM, group-wide scope codes from R68 (5: PEER). -/
theorem test_decode_semaphores :
    ([
      at_ [(0x00000078, 0), (19, 27), (5, 8), (9, 13)],
      at_ [(0x00800078, 0), (19, 27), (5, 8), (9, 13)],
      at_ [(0x01000078, 0), (19, 27), (5, 8), (9, 13)],
      at_ [(0x01800078, 0), (7, 8), (19, 27)],
      at_ [(0x02000078, 0), (19, 27), (5, 8), (9, 13), (21, 18)],
      at_ [(0x02800078, 0), (19, 27), (5, 8), (9, 13), (21, 18)]] : List Nat).map (decodeTableWord 32) =
    [
      some (.semadd 19 .peer 9),
      some (.semset 19 .peer 9),
      some (.semwait 19 .peer 9),
      some (.semrd 7 19),
      some (.semradd 19 .peer 9 21),
      some (.semmset 19 .peer 9 21)] := by decide +kernel

/-- R71, R241, R245: POOL and RING. -/
theorem test_decode_pools_rings :
    ([
      at_ [(0x0000007C, 0), (7, 8), (19, 27)],
      at_ [(0x0080007C, 0), (19, 27), (5, 18)],
      at_ [(0x0100007C, 0), (7, 8), (19, 27), (5, 18)],
      at_ [(0x0180007C, 0), (7, 8), (19, 27), (5, 18)],
      at_ [(0x0200007C, 0), (19, 27)],
      at_ [(0x0280007C, 0), (7, 8), (19, 27), (5, 18)],
      at_ [(0x0300007C, 0), (7, 8), (19, 27)],
      at_ [(0x00000080, 0), (7, 8), (19, 27), (5, 18)],
      at_ [(0x00800080, 0), (19, 27), (5, 18)],
      at_ [(0x01000080, 0), (7, 8), (19, 27), (5, 18)],
      at_ [(0x01800080, 0), (19, 27), (5, 18)],
      at_ [(0x02000080, 0), (19, 27), (5, 18), (1, 8)],
      at_ [(0x02800080, 0), (19, 27)],
      at_ [(0x03000080, 0), (7, 8), (19, 27)]] : List Nat).map (decodeTableWord 32) =
    [
      some (.pwbegin 7 19),
      some (.pwend 19 .peer),
      some (.pwnext 7 19 .peer),
      some (.prbegin 7 19 .peer),
      some (.prend 19),
      some (.prnext 7 19 .peer),
      some (.pquery 7 19),
      some (.racq 7 19 .peer),
      some (.rpub 19 .peer),
      some (.rtake 7 19 .peer),
      some (.rfree 19 .peer),
      some (.rclose 19 .peer true),
      some (.rbrk 19),
      some (.rstat 7 19)] := by decide +kernel

/-- R71, R146, R248: LAUNCH and CFG. -/
theorem test_decode_launch_configuration :
    ([
      at_ [(0x00000084, 0), (9, 13)],
      at_ [(0x00800084, 0), (9, 13)],
      at_ [(0x00000088, 0), (19, 27), (9, 13), (21, 18)],
      at_ [(0x00800088, 0), (7, 8), (19, 27)],
      at_ [(0x01000088, 0), (9, 13)],
      at_ [(0x01800088, 0), (11, 27), (9, 13)],
      at_ [(0x02000088, 0), (6, 27), (9, 13), (21, 18)],
      at_ [(0x02800088, 0), (19, 27), (9, 13)]] : List Nat).map (decodeTableWord 32) =
    [
      some (.launch 9),
      some (.launchs 9),
      some (.vwset 19 9 21),
      some (.vwget 7 19),
      some (.shpset 9),
      some (.ftset 11 9),
      some (.mset 6 9 21),
      some (.rotset 19 9)] := by decide +kernel

/-- R59, R72: the L format. -/
theorem test_decode_literals :
    ([
      at_ [(1, 0), (7, 8), (0x89ABCDEF, 32)],
      at_ [(1, 0), (0x01, 2), (7, 8), (0x89ABCDEF, 32)],
      at_ [(1, 0), (0x02, 2), (7, 8), (9, 13), (5, 32)],
      at_ [(1, 0), (0x03, 2), (7, 8), (9, 13), (5, 32)],
      at_ [(1, 0), (0x04, 2), (7, 8), (9, 13), (5, 32)],
      at_ [(1, 0), (0x05, 2), (7, 8), (9, 13), (5, 32)],
      at_ [(1, 0), (0x06, 2), (7, 8), (0xFFFFFFFC, 32)],
      at_ [(1, 0), (0x07, 2), (9, 13), (1, 21), (0x8001, 32), (6, 48)],
      at_ [(1, 0), (0x07, 2), (9, 13), (1, 18), (1, 21), (0x8001, 32), (6, 48)],
      at_ [(1, 0), (0x07, 2), (9, 13), (2, 18), (1, 21), (0x8001, 32), (6, 48)],
      at_ [(1, 0), (0x07, 2), (9, 13), (3, 18), (1, 21), (0x8001, 32), (6, 48)],
      at_ [(1, 0), (0x07, 2), (9, 13), (4, 18), (1, 21), (0x8001, 32), (6, 48)],
      at_ [(1, 0), (0x07, 2), (9, 13), (5, 18), (1, 21), (0x8001, 32), (6, 48)],
      at_ [(1, 0), (0x08, 2), (3, 18), (1, 20), (300, 23), (1000, 32)],
      at_ [(1, 0), (0x09, 2), (9, 13), (0x12345678, 32)]] : List Nat).map (decodeTableWord 64) =
    [
      some (.li 7 0x89ABCDEF),
      some (.lih 7 0x89ABCDEF),
      some (.addil 7 9 5),
      some (.andil 7 9 5),
      some (.oril 7 9 5),
      some (.xoril 7 9 5),
      some (.jal 7 (-4)),
      some (.beqi 9 .notTaken 0x8001 6),
      some (.bnei 9 .notTaken 0x8001 6),
      some (.blti 9 .notTaken 0x8001 6),
      some (.bgei 9 .notTaken 0x8001 6),
      some (.bltui 9 .notTaken 0x8001 6),
      some (.bgeui 9 .notTaken 0x8001 6),
      some (.loopi 3 true false 300 1000),
      some (.sege 9 0x12345678)] := by decide +kernel

/-- R60–R64, R73: V major 0x00, FN 0 to 11. -/
theorem test_decode_vector_arithmetic_low :
    ([
      at_ [(2, 0), (1, 14), (1, 17), (5, 18), (1, 21), (9, 27), (1, 34), (2, 39), (1, 44), (2, 46), (1, 48), (3, 50), (2, 64), (5, 66)],
      at_ [(2, 0), (1, 8), (1, 14), (1, 17), (5, 18), (1, 21), (9, 27), (1, 34), (2, 39), (1, 44), (2, 46), (1, 48), (3, 50), (2, 64), (5, 66)],
      at_ [(2, 0), (2, 8), (1, 14), (1, 17), (5, 18), (1, 21), (9, 27), (1, 34), (2, 39), (1, 44), (2, 46), (1, 48), (3, 50), (2, 64), (5, 66)],
      at_ [(2, 0), (3, 8), (1, 14), (1, 17), (5, 18), (1, 21), (5, 22), (9, 27), (1, 34), (2, 39), (1, 44), (2, 46), (1, 48), (3, 50), (2, 64), (5, 66)],
      at_ [(2, 0), (4, 8), (1, 14), (1, 17), (5, 18), (1, 21), (5, 22), (9, 27), (1, 34), (2, 39), (1, 44), (2, 46), (1, 48), (3, 50), (2, 64), (5, 66)],
      at_ [(2, 0), (5, 8), (1, 14), (1, 17), (5, 18), (1, 21), (5, 22), (9, 27), (1, 34), (2, 39), (1, 44), (2, 46), (1, 48), (3, 50), (2, 64), (5, 66)],
      at_ [(2, 0), (6, 8), (1, 14), (1, 17), (5, 18), (1, 21), (9, 27), (1, 34), (2, 39), (1, 44), (2, 46), (1, 48), (3, 50), (2, 64), (5, 66)],
      at_ [(2, 0), (7, 8), (1, 14), (1, 17), (5, 18), (1, 21), (9, 27), (1, 34), (2, 39), (1, 44), (2, 46), (1, 48), (3, 50), (2, 64), (5, 66)],
      at_ [(2, 0), (8, 8), (1, 14), (1, 17), (5, 18), (1, 21), (9, 27), (1, 32), (3, 50), (4, 55), (3, 62)],
      at_ [(2, 0), (9, 8), (1, 14), (1, 17), (5, 18), (1, 21), (9, 27), (1, 32), (3, 50), (4, 55), (3, 62)],
      at_ [(2, 0), (10, 8), (1, 14), (1, 17), (5, 18), (1, 21), (5, 22), (9, 27), (1, 34), (2, 39), (1, 44), (2, 46), (1, 48), (3, 50), (2, 64), (5, 66)],
      at_ [(2, 0), (11, 8), (1, 14), (1, 17), (5, 18), (1, 21), (9, 27), (1, 34), (2, 39), (1, 44), (2, 46), (1, 48), (3, 50), (2, 64), (5, 66)]] : List Nat).map (decodeTableWord 96) =
    [
      some (.vadd ⟨9, 0, true, 5, ⟨true, false, false, true⟩, .view 1 2 1 2, .ring 3, .op (.reg 5), 0⟩),
      some (.vsub ⟨9, 0, true, 5, ⟨true, false, false, true⟩, .view 1 2 1 2, .ring 3, .op (.reg 5), 0⟩),
      some (.vmul ⟨9, 0, true, 5, ⟨true, false, false, true⟩, .view 1 2 1 2, .ring 3, .op (.reg 5), 0⟩),
      some (.vfma ⟨9, 5, true, 5, ⟨true, false, false, true⟩, .view 1 2 1 2, .ring 3, .op (.reg 5), 0⟩),
      some (.vfms ⟨9, 5, true, 5, ⟨true, false, false, true⟩, .view 1 2 1 2, .ring 3, .op (.reg 5), 0⟩),
      some (.vfnma ⟨9, 5, true, 5, ⟨true, false, false, true⟩, .view 1 2 1 2, .ring 3, .op (.reg 5), 0⟩),
      some (.vmin ⟨9, 0, true, 5, ⟨true, false, false, true⟩, .view 1 2 1 2, .ring 3, .op (.reg 5), 0⟩),
      some (.vmax ⟨9, 0, true, 5, ⟨true, false, false, true⟩, .view 1 2 1 2, .ring 3, .op (.reg 5), 0⟩),
      some (.vabs ⟨9, 0, true, 5, ⟨true, false, false, true⟩, .ring 0, .view 3 4 0 3, .op (.view 0 0 0 0), 0⟩),
      some (.vneg ⟨9, 0, true, 5, ⟨true, false, false, true⟩, .ring 0, .view 3 4 0 3, .op (.view 0 0 0 0), 0⟩),
      some (.vaddsub ⟨9, 5, true, 5, ⟨true, false, false, true⟩, .view 1 2 1 2, .ring 3, .op (.reg 5), 0⟩),
      some (.vavg ⟨9, 0, true, 5, ⟨true, false, false, true⟩, .view 1 2 1 2, .ring 3, .op (.reg 5), 0⟩)] := by decide +kernel

/-- R60–R64, R73: V major 0x00, FN 12 to 23. -/
theorem test_decode_vector_arithmetic_high :
    ([
      at_ [(2, 0), (12, 8), (1, 14), (1, 17), (5, 18), (1, 21), (9, 27), (1, 34), (2, 39), (1, 44), (2, 46), (1, 48), (3, 50), (2, 64), (5, 66)],
      at_ [(2, 0), (13, 8), (1, 14), (1, 17), (5, 18), (1, 21), (9, 27), (1, 34), (2, 39), (1, 44), (2, 46), (1, 48), (3, 50), (2, 64), (5, 66)],
      at_ [(2, 0), (14, 8), (1, 14), (1, 17), (5, 18), (1, 21), (9, 27), (1, 34), (2, 39), (1, 44), (2, 46), (1, 48), (3, 50), (2, 64), (5, 66)],
      at_ [(2, 0), (15, 8), (1, 14), (1, 17), (5, 18), (1, 21), (9, 27), (1, 34), (2, 39), (1, 44), (2, 46), (1, 48), (3, 50), (2, 64), (5, 66)],
      at_ [(2, 0), (16, 8), (1, 14), (1, 17), (5, 18), (1, 21), (9, 27), (1, 34), (2, 39), (1, 44), (2, 46), (1, 48), (3, 50), (2, 64), (5, 66)],
      at_ [(2, 0), (17, 8), (1, 14), (1, 17), (5, 18), (1, 21), (9, 27), (1, 34), (2, 39), (1, 44), (2, 46), (1, 48), (3, 50), (2, 64), (5, 66)],
      at_ [(2, 0), (18, 8), (1, 14), (1, 17), (5, 18), (1, 21), (9, 27), (1, 34), (2, 39), (1, 44), (2, 46), (1, 48), (3, 50), (2, 64), (5, 66)],
      at_ [(2, 0), (19, 8), (1, 14), (1, 17), (5, 18), (1, 21), (9, 27), (1, 32), (3, 50), (4, 55), (3, 62)],
      at_ [(2, 0), (20, 8), (1, 14), (1, 17), (5, 18), (1, 21), (9, 27), (1, 34), (2, 39), (1, 44), (2, 46), (1, 48), (3, 50), (2, 64), (5, 66), (6, 80)],
      at_ [(2, 0), (21, 8), (1, 14), (1, 17), (5, 18), (1, 21), (9, 27), (1, 32), (3, 50), (4, 55), (3, 62)],
      at_ [(2, 0), (22, 8), (1, 14), (1, 17), (5, 18), (1, 21), (9, 27), (1, 34), (2, 39), (1, 44), (2, 46), (1, 48), (3, 50), (2, 64), (5, 66)],
      at_ [(2, 0), (23, 8), (1, 14), (1, 17), (5, 18), (1, 21), (9, 27), (1, 34), (2, 39), (1, 44), (2, 46), (1, 48), (3, 50), (2, 64), (5, 66)]] : List Nat).map (decodeTableWord 96) =
    [
      some (.vmulh ⟨9, 0, true, 5, ⟨true, false, false, true⟩, .view 1 2 1 2, .ring 3, .op (.reg 5), 0⟩),
      some (.vshl ⟨9, 0, true, 5, ⟨true, false, false, true⟩, .view 1 2 1 2, .ring 3, .op (.reg 5), 0⟩),
      some (.vshr ⟨9, 0, true, 5, ⟨true, false, false, true⟩, .view 1 2 1 2, .ring 3, .op (.reg 5), 0⟩),
      some (.vsra ⟨9, 0, true, 5, ⟨true, false, false, true⟩, .view 1 2 1 2, .ring 3, .op (.reg 5), 0⟩),
      some (.vand ⟨9, 0, true, 5, ⟨true, false, false, true⟩, .view 1 2 1 2, .ring 3, .op (.reg 5), 0⟩),
      some (.vor ⟨9, 0, true, 5, ⟨true, false, false, true⟩, .view 1 2 1 2, .ring 3, .op (.reg 5), 0⟩),
      some (.vxor ⟨9, 0, true, 5, ⟨true, false, false, true⟩, .view 1 2 1 2, .ring 3, .op (.reg 5), 0⟩),
      some (.vnot ⟨9, 0, true, 5, ⟨true, false, false, true⟩, .ring 0, .view 3 4 0 3, .op (.view 0 0 0 0), 0⟩),
      some (.vsel ⟨9, 0, true, 5, ⟨true, false, false, true⟩, .view 1 2 1 2, .ring 3, .op (.reg 5), 6⟩),
      some (.vmov ⟨9, 0, true, 5, ⟨true, false, false, true⟩, .ring 0, .view 3 4 0 3, .op (.view 0 0 0 0), 0⟩),
      some (.vclamp ⟨9, 0, true, 5, ⟨true, false, false, true⟩, .view 1 2 1 2, .ring 3, .op (.reg 5), 0⟩),
      some (.vabsd ⟨9, 0, true, 5, ⟨true, false, false, true⟩, .view 1 2 1 2, .ring 3, .op (.reg 5), 0⟩)] := by decide +kernel

/-- R60–R64, R73: V major 0x01. -/
theorem test_decode_vector_compares :
    ([
      at_ [(2, 0), (0x01, 2), (1, 14), (1, 17), (5, 18), (1, 21), (9, 27), (3, 32), (6, 34), (1, 50), (2, 55), (1, 60), (2, 62), (2, 64), (5, 66)],
      at_ [(2, 0), (0x01, 2), (1, 8), (1, 14), (1, 17), (5, 18), (1, 21), (9, 27), (3, 32), (6, 34), (1, 50), (2, 55), (1, 60), (2, 62), (2, 64), (5, 66)],
      at_ [(2, 0), (0x01, 2), (2, 8), (1, 14), (1, 17), (5, 18), (1, 21), (9, 27), (3, 32), (6, 34), (1, 50), (2, 55), (1, 60), (2, 62), (2, 64), (5, 66)],
      at_ [(2, 0), (0x01, 2), (3, 8), (1, 14), (1, 17), (5, 18), (1, 21), (9, 27), (3, 32), (6, 34), (1, 50), (2, 55), (1, 60), (2, 62), (2, 64), (5, 66)],
      at_ [(2, 0), (0x01, 2), (4, 8), (1, 14), (1, 17), (5, 18), (1, 21), (9, 27), (3, 32), (6, 34), (1, 50), (2, 55), (1, 60), (2, 62), (2, 64), (5, 66)],
      at_ [(2, 0), (0x01, 2), (5, 8), (1, 14), (1, 17), (5, 18), (1, 21), (9, 27), (3, 32), (6, 34), (1, 50), (2, 55), (1, 60), (2, 62), (2, 64), (5, 66)],
      at_ [(2, 0), (0x01, 2), (6, 8), (1, 14), (1, 17), (5, 18), (1, 21), (9, 27), (3, 32), (6, 34), (1, 50), (2, 55), (1, 60), (2, 62), (341, 80)]] : List Nat).map (decodeTableWord 96) =
    [
      some (.vcmpeq ⟨9, 0, true, 5, ⟨true, false, false, true⟩, .special 6, .view 1 2 1 2, .op (.reg 5), 0⟩),
      some (.vcmpne ⟨9, 0, true, 5, ⟨true, false, false, true⟩, .special 6, .view 1 2 1 2, .op (.reg 5), 0⟩),
      some (.vcmplt ⟨9, 0, true, 5, ⟨true, false, false, true⟩, .special 6, .view 1 2 1 2, .op (.reg 5), 0⟩),
      some (.vcmple ⟨9, 0, true, 5, ⟨true, false, false, true⟩, .special 6, .view 1 2 1 2, .op (.reg 5), 0⟩),
      some (.vcmpgt ⟨9, 0, true, 5, ⟨true, false, false, true⟩, .special 6, .view 1 2 1 2, .op (.reg 5), 0⟩),
      some (.vcmpge ⟨9, 0, true, 5, ⟨true, false, false, true⟩, .special 6, .view 1 2 1 2, .op (.reg 5), 0⟩),
      some (.vclass ⟨9, 0, true, 5, ⟨true, false, false, true⟩, .special 6, .view 1 2 1 2, .op (.view 0 0 0 0), 341⟩)] := by decide +kernel

/-- R60–R64, R73: V major 0x02. -/
theorem test_decode_vector_functions :
    ([
      at_ [(2, 0), (0x02, 2), (1, 14), (1, 17), (5, 18), (1, 21), (11, 22), (9, 27), (1, 32), (3, 50), (4, 55), (3, 62)],
      at_ [(2, 0), (0x02, 2), (1, 8), (1, 14), (1, 17), (5, 18), (1, 21), (11, 22), (9, 27), (1, 32), (3, 50), (4, 55), (3, 62)],
      at_ [(2, 0), (0x02, 2), (2, 8), (1, 14), (1, 17), (5, 18), (1, 21), (11, 22), (9, 27), (1, 32), (3, 50), (4, 55), (3, 62)],
      at_ [(2, 0), (0x02, 2), (3, 8), (1, 14), (1, 17), (5, 18), (1, 21), (11, 22), (9, 27), (1, 32), (3, 50), (4, 55), (3, 62)],
      at_ [(2, 0), (0x02, 2), (4, 8), (1, 14), (1, 17), (5, 18), (1, 21), (11, 22), (9, 27), (1, 32), (3, 50), (4, 55), (3, 62)],
      at_ [(2, 0), (0x02, 2), (5, 8), (1, 14), (1, 17), (5, 18), (1, 21), (11, 22), (9, 27), (1, 32), (3, 50), (4, 55), (3, 62)],
      at_ [(2, 0), (0x02, 2), (6, 8), (1, 14), (1, 17), (5, 18), (1, 21), (11, 22), (9, 27), (1, 32), (3, 50), (4, 55), (3, 62)],
      at_ [(2, 0), (0x02, 2), (7, 8), (1, 14), (1, 17), (5, 18), (1, 21), (11, 22), (9, 27), (1, 32), (3, 50), (4, 55), (3, 62)],
      at_ [(2, 0), (0x02, 2), (8, 8), (1, 14), (1, 17), (5, 18), (1, 21), (11, 22), (9, 27), (1, 32), (3, 50), (4, 55), (3, 62)],
      at_ [(2, 0), (0x02, 2), (9, 8), (1, 14), (1, 17), (5, 18), (1, 21), (11, 22), (9, 27), (1, 32), (3, 50), (4, 55), (3, 62)],
      at_ [(2, 0), (0x02, 2), (10, 8), (1, 14), (1, 17), (5, 18), (1, 21), (11, 22), (9, 27), (1, 32), (3, 50), (4, 55), (3, 62)],
      at_ [(2, 0), (0x02, 2), (11, 8), (1, 14), (1, 17), (5, 18), (1, 21), (11, 22), (9, 27), (1, 32), (3, 50), (4, 55), (3, 62)],
      at_ [(2, 0), (0x02, 2), (12, 8), (1, 14), (1, 17), (5, 18), (1, 21), (11, 22), (9, 27), (1, 34), (2, 39), (1, 44), (2, 46), (1, 48), (3, 50), (2, 64), (5, 66)]] : List Nat).map (decodeTableWord 96) =
    [
      some (.vrcp ⟨9, 11, true, 5, ⟨true, false, false, true⟩, .ring 0, .view 3 4 0 3, .op (.view 0 0 0 0), 0⟩),
      some (.vrsqrt ⟨9, 11, true, 5, ⟨true, false, false, true⟩, .ring 0, .view 3 4 0 3, .op (.view 0 0 0 0), 0⟩),
      some (.vsqrt ⟨9, 11, true, 5, ⟨true, false, false, true⟩, .ring 0, .view 3 4 0 3, .op (.view 0 0 0 0), 0⟩),
      some (.vexp2 ⟨9, 11, true, 5, ⟨true, false, false, true⟩, .ring 0, .view 3 4 0 3, .op (.view 0 0 0 0), 0⟩),
      some (.vlog2 ⟨9, 11, true, 5, ⟨true, false, false, true⟩, .ring 0, .view 3 4 0 3, .op (.view 0 0 0 0), 0⟩),
      some (.vexp ⟨9, 11, true, 5, ⟨true, false, false, true⟩, .ring 0, .view 3 4 0 3, .op (.view 0 0 0 0), 0⟩),
      some (.vtanh ⟨9, 11, true, 5, ⟨true, false, false, true⟩, .ring 0, .view 3 4 0 3, .op (.view 0 0 0 0), 0⟩),
      some (.vsigm ⟨9, 11, true, 5, ⟨true, false, false, true⟩, .ring 0, .view 3 4 0 3, .op (.view 0 0 0 0), 0⟩),
      some (.vsilu ⟨9, 11, true, 5, ⟨true, false, false, true⟩, .ring 0, .view 3 4 0 3, .op (.view 0 0 0 0), 0⟩),
      some (.vgelu ⟨9, 11, true, 5, ⟨true, false, false, true⟩, .ring 0, .view 3 4 0 3, .op (.view 0 0 0 0), 0⟩),
      some (.vsin ⟨9, 11, true, 5, ⟨true, false, false, true⟩, .ring 0, .view 3 4 0 3, .op (.view 0 0 0 0), 0⟩),
      some (.vcos ⟨9, 11, true, 5, ⟨true, false, false, true⟩, .ring 0, .view 3 4 0 3, .op (.view 0 0 0 0), 0⟩),
      some (.vdiv ⟨9, 11, true, 5, ⟨true, false, false, true⟩, .view 1 2 1 2, .ring 3, .op (.reg 5), 0⟩)] := by decide +kernel

/-- R60–R64, R73: V major 0x03. -/
theorem test_decode_vector_reductions :
    ([
      at_ [(2, 0), (0x03, 2), (1, 14), (1, 17), (2, 18), (3, 27), (1, 32), (3, 50), (4, 55), (3, 62)],
      at_ [(2, 0), (0x03, 2), (1, 8), (1, 14), (1, 17), (2, 18), (3, 27), (1, 32), (3, 50), (4, 55), (3, 62)],
      at_ [(2, 0), (0x03, 2), (2, 8), (1, 14), (1, 17), (2, 18), (3, 27), (1, 32), (3, 50), (4, 55), (3, 62)],
      at_ [(2, 0), (0x03, 2), (3, 8), (1, 14), (1, 17), (2, 18), (3, 27), (1, 32), (3, 50), (4, 55), (3, 62)],
      at_ [(2, 0), (0x03, 2), (4, 8), (1, 14), (1, 17), (2, 18), (3, 27), (1, 32), (3, 50), (4, 55), (3, 62)],
      at_ [(2, 0), (0x03, 2), (5, 8), (1, 14), (1, 17), (2, 18), (3, 27), (1, 32), (3, 50), (4, 55), (3, 62)],
      at_ [(2, 0), (0x03, 2), (6, 8), (1, 14), (1, 17), (2, 18), (3, 27), (1, 32), (3, 50), (4, 55), (3, 62)],
      at_ [(2, 0), (0x03, 2), (7, 8), (1, 14), (1, 17), (2, 18), (3, 27), (1, 34), (2, 39), (1, 44), (2, 46), (3, 50), (4, 55), (3, 62), (1, 64), (3, 66)]] : List Nat).map (decodeTableWord 96) =
    [
      some (.vrsum ⟨3, 0, false, 2, ⟨true, false, false, true⟩, .ring 0, .view 3 4 0 3, .op (.view 0 0 0 0), 0⟩),
      some (.vrmax ⟨3, 0, false, 2, ⟨true, false, false, true⟩, .ring 0, .view 3 4 0 3, .op (.view 0 0 0 0), 0⟩),
      some (.vrmin ⟨3, 0, false, 2, ⟨true, false, false, true⟩, .ring 0, .view 3 4 0 3, .op (.view 0 0 0 0), 0⟩),
      some (.vramax ⟨3, 0, false, 2, ⟨true, false, false, true⟩, .ring 0, .view 3 4 0 3, .op (.view 0 0 0 0), 0⟩),
      some (.vcsum ⟨3, 0, false, 2, ⟨true, false, false, true⟩, .ring 0, .view 3 4 0 3, .op (.view 0 0 0 0), 0⟩),
      some (.vcmax ⟨3, 0, false, 2, ⟨true, false, false, true⟩, .ring 0, .view 3 4 0 3, .op (.view 0 0 0 0), 0⟩),
      some (.vscan ⟨3, 0, false, 2, ⟨true, false, false, true⟩, .ring 0, .view 3 4 0 3, .op (.view 0 0 0 0), 0⟩),
      some (.vdot ⟨3, 0, false, 2, ⟨true, false, false, true⟩, .view 1 2 1 2, .view 3 4 0 3, .op (.ring 3), 0⟩)] := by decide +kernel

/-- R60–R64, R73: V major 0x04. -/
theorem test_decode_vector_selection :
    ([
      at_ [(2, 0), (0x04, 2), (1, 14), (1, 17), (3, 27), (1, 34), (2, 39), (1, 44), (2, 46), (3, 50), (4, 55), (3, 62), (2, 64), (5, 66), (1283, 80)],
      at_ [(2, 0), (0x04, 2), (1, 8), (1, 14), (1, 17), (3, 27), (1, 34), (2, 39), (1, 44), (2, 46), (3, 50), (4, 55), (3, 62), (2, 64), (5, 66), (33024, 80)],
      at_ [(2, 0), (0x04, 2), (2, 8), (1, 14), (1, 17), (3, 27), (1, 34), (2, 39), (1, 44), (2, 46), (3, 50), (4, 55), (3, 62), (2, 64), (5, 66), (1283, 80)],
      at_ [(2, 0), (0x04, 2), (3, 8), (1, 14), (1, 17), (3, 18), (3, 27), (1, 34), (2, 39), (1, 44), (2, 46), (1, 48), (3, 50)],
      at_ [(2, 0), (0x04, 2), (4, 8), (1, 14), (1, 17), (3, 18), (3, 27), (1, 34), (2, 39), (1, 44), (2, 46), (1, 48), (3, 50)]] : List Nat).map (decodeTableWord 96) =
    [
      some (.vtopk ⟨3, 0, false, 0, ⟨true, false, false, true⟩, .view 1 2 1 2, .view 3 4 0 3, .op (.reg 5), 1283⟩),
      some (.vsortr ⟨3, 0, false, 0, ⟨true, false, false, true⟩, .view 1 2 1 2, .view 3 4 0 3, .op (.reg 5), 33024⟩),
      some (.vmrgk ⟨3, 0, false, 0, ⟨true, false, false, true⟩, .view 1 2 1 2, .view 3 4 0 3, .op (.reg 5), 1283⟩),
      some (.vcompr ⟨3, 0, false, 3, ⟨true, false, false, true⟩, .view 1 2 1 2, .ring 3, .op (.view 0 0 0 0), 0⟩),
      some (.vexpnd ⟨3, 0, false, 3, ⟨true, false, false, true⟩, .view 1 2 1 2, .ring 3, .op (.view 0 0 0 0), 0⟩)] := by decide +kernel

/-- R60–R64, R73: V major 0x05. -/
theorem test_decode_vector_moves :
    ([
      at_ [(2, 0), (0x05, 2), (1, 14), (1, 17), (3, 27), (1, 34), (2, 39), (1, 44), (2, 46), (3, 50), (4, 55), (3, 62), (255, 80)],
      at_ [(2, 0), (0x05, 2), (1, 8), (1, 14), (1, 17), (3, 27), (1, 34), (2, 39), (1, 44), (2, 46), (3, 50), (4, 55), (3, 62)],
      at_ [(2, 0), (0x05, 2), (2, 8), (1, 14), (1, 17), (3, 27), (1, 34), (2, 39), (1, 44), (2, 46), (2, 48), (5, 50), (2, 64), (5, 66)],
      at_ [(2, 0), (0x05, 2), (3, 8), (1, 14), (1, 17), (3, 27), (1, 34), (2, 39), (1, 44), (2, 46), (1, 48), (3, 50), (3, 66), (4, 71), (3, 78)],
      at_ [(2, 0), (0x05, 2), (4, 8), (1, 14), (1, 17), (3, 27), (1, 34), (2, 39), (1, 44), (2, 46), (1, 48), (3, 50), (3, 66), (4, 71), (3, 78)]] : List Nat).map (decodeTableWord 96) =
    [
      some (.vbcast ⟨3, 0, false, 0, ⟨true, false, false, true⟩, .view 1 2 1 2, .view 3 4 0 3, .op (.view 0 0 0 0), 255⟩),
      some (.vtrans ⟨3, 0, false, 0, ⟨true, false, false, true⟩, .view 1 2 1 2, .view 3 4 0 3, .op (.view 0 0 0 0), 0⟩),
      some (.viota ⟨3, 0, false, 0, ⟨true, false, false, true⟩, .view 1 2 1 2, .reg 5, .op (.reg 5), 0⟩),
      some (.vgathr ⟨3, 0, false, 0, ⟨true, false, false, true⟩, .view 1 2 1 2, .ring 3, .op (.view 3 4 0 3), 0⟩),
      some (.vscatr ⟨3, 0, false, 0, ⟨true, false, false, true⟩, .view 1 2 1 2, .ring 3, .op (.view 3 4 0 3), 0⟩)] := by decide +kernel

/-- R60–R64, R73: V major 0x06. -/
theorem test_decode_conversions :
    ([
      at_ [(2, 0), (0x06, 2), (1, 14), (1, 17), (3, 27), (1, 34), (2, 39), (1, 44), (2, 46), (3, 50), (4, 55), (3, 62)],
      at_ [(2, 0), (0x06, 2), (1, 8), (1, 14), (1, 17), (3, 27), (1, 34), (2, 39), (1, 44), (2, 46), (3, 50), (4, 55), (3, 62), (2, 64), (5, 66)],
      at_ [(2, 0), (0x06, 2), (2, 8), (1, 14), (1, 17), (3, 27), (1, 34), (2, 39), (1, 44), (2, 46), (3, 50), (4, 55), (3, 62), (768, 80)],
      at_ [(2, 0), (0x06, 2), (3, 8), (1, 14), (1, 17), (3, 27), (1, 34), (2, 39), (1, 44), (2, 46), (3, 50), (4, 55), (3, 62)],
      at_ [(2, 0), (0x06, 2), (4, 8), (1, 14), (1, 17), (3, 27), (1, 34), (2, 39), (1, 44), (2, 46), (3, 50), (4, 55), (3, 62)],
      at_ [(2, 0), (0x06, 2), (5, 8), (1, 14), (1, 17), (3, 27), (1, 34), (2, 39), (1, 44), (2, 46), (3, 50), (4, 55), (3, 62)],
      at_ [(2, 0), (0x06, 2), (6, 8), (1, 14), (1, 17), (3, 27), (1, 34), (2, 39), (1, 44), (2, 46), (3, 50), (4, 55), (3, 62)],
      at_ [(2, 0), (0x06, 2), (7, 8), (1, 14), (1, 17), (3, 27), (1, 34), (2, 39), (1, 44), (2, 46), (3, 50), (4, 55), (3, 62)],
      at_ [(2, 0), (0x06, 2), (8, 8), (1, 14), (1, 17), (3, 27), (1, 34), (2, 39), (1, 44), (2, 46), (3, 50), (4, 55), (3, 62)],
      at_ [(2, 0), (0x06, 2), (9, 8), (1, 14), (1, 17), (3, 27), (1, 34), (2, 39), (1, 44), (2, 46), (3, 50), (4, 55), (3, 62)]] : List Nat).map (decodeTableWord 96) =
    [
      some (.vcvt ⟨3, 0, false, 0, ⟨true, false, false, true⟩, .view 1 2 1 2, .view 3 4 0 3, .op (.view 0 0 0 0), 0⟩),
      some (.vrqnt ⟨3, 0, false, 0, ⟨true, false, false, true⟩, .view 1 2 1 2, .view 3 4 0 3, .op (.reg 5), 0⟩),
      some (.vmxq ⟨3, 0, false, 0, ⟨true, false, false, true⟩, .view 1 2 1 2, .view 3 4 0 3, .op (.view 0 0 0 0), 768⟩),
      some (.vmxdq ⟨3, 0, false, 0, ⟨true, false, false, true⟩, .view 1 2 1 2, .view 3 4 0 3, .op (.view 0 0 0 0), 0⟩),
      some (.vunpk3 ⟨3, 0, false, 0, ⟨true, false, false, true⟩, .view 1 2 1 2, .view 3 4 0 3, .op (.view 0 0 0 0), 0⟩),
      some (.vpack3 ⟨3, 0, false, 0, ⟨true, false, false, true⟩, .view 1 2 1 2, .view 3 4 0 3, .op (.view 0 0 0 0), 0⟩),
      some (.vunpk4 ⟨3, 0, false, 0, ⟨true, false, false, true⟩, .view 1 2 1 2, .view 3 4 0 3, .op (.view 0 0 0 0), 0⟩),
      some (.vpack4 ⟨3, 0, false, 0, ⟨true, false, false, true⟩, .view 1 2 1 2, .view 3 4 0 3, .op (.view 0 0 0 0), 0⟩),
      some (.vsat ⟨3, 0, false, 0, ⟨true, false, false, true⟩, .view 1 2 1 2, .view 3 4 0 3, .op (.view 0 0 0 0), 0⟩),
      some (.vrnd ⟨3, 0, false, 0, ⟨true, false, false, true⟩, .view 1 2 1 2, .view 3 4 0 3, .op (.view 0 0 0 0), 0⟩)] := by decide +kernel

/-- R60–R64, R73: V major 0x07. -/
theorem test_decode_permutations :
    ([
      at_ [(2, 0), (0x07, 2), (1, 14), (1, 17), (3, 32), (13, 34), (3, 50), (4, 55), (3, 62), (256, 80)],
      at_ [(2, 0), (0x07, 2), (1, 8), (1, 14), (1, 17), (3, 34), (4, 39), (3, 46), (3, 48), (13, 50)],
      at_ [(2, 0), (0x07, 2), (2, 8), (1, 14), (1, 17), (3, 32), (13, 34), (3, 48), (6, 50), (3, 64), (13, 66)],
      at_ [(2, 0), (0x07, 2), (3, 8), (1, 14), (1, 17), (3, 32), (13, 34), (3, 48), (6, 50)],
      at_ [(2, 0), (0x07, 2), (4, 8), (1, 14), (1, 17), (1, 26), (3, 32), (13, 34), (3, 48), (6, 50), (21, 64)],
      at_ [(2, 0), (0x07, 2), (5, 8), (1, 14), (1, 17), (3, 32), (13, 34), (2, 48), (5, 50), (1, 80)],
      at_ [(2, 0), (0x07, 2), (6, 8), (1, 14), (1, 17), (3, 32), (13, 34), (200, 80)],
      at_ [(2, 0), (0x07, 2), (7, 8), (1, 14), (1, 17), (2, 32), (5, 34), (3, 48), (13, 50)],
      at_ [(2, 0), (0x07, 2), (8, 8), (1, 14), (1, 17), (1, 26), (3, 32), (13, 34), (3, 48), (6, 50), (21, 64)],
      at_ [(2, 0), (0x07, 2), (9, 8), (1, 14), (1, 17), (1, 18), (1, 21), (3, 27), (1, 34), (2, 39), (1, 44), (2, 46), (1, 48), (3, 50), (3, 64), (13, 66)],
      at_ [(2, 0), (0x07, 2), (10, 8), (1, 14), (1, 17), (3, 34), (4, 39), (3, 46), (3, 48), (13, 50)]] : List Nat).map (decodeTableWord 96) =
    [
      some (.pld ⟨0, 0, false, 0, ⟨true, false, false, true⟩, .special 13, .view 3 4 0 3, .op (.view 0 0 0 0), 256⟩),
      some (.pst ⟨0, 0, false, 0, ⟨true, false, false, true⟩, .view 3 4 0 3, .special 13, .op (.view 0 0 0 0), 0⟩),
      some (.pcomp ⟨0, 0, false, 0, ⟨true, false, false, true⟩, .special 13, .special 6, .op (.special 13), 0⟩),
      some (.pinv ⟨0, 0, false, 0, ⟨true, false, false, true⟩, .special 13, .special 6, .op (.view 0 0 0 0), 0⟩),
      some (.ppow ⟨0, 0, false, 0, ⟨true, false, false, true⟩, .special 13, .special 6, .lit 21, 0⟩),
      some (.prand ⟨0, 0, false, 0, ⟨true, false, false, true⟩, .special 13, .reg 5, .op (.view 0 0 0 0), 1⟩),
      some (.pidn ⟨0, 0, false, 0, ⟨true, false, false, true⟩, .special 13, .view 0 0 0 0, .op (.view 0 0 0 0), 200⟩),
      some (.pcyc ⟨0, 0, false, 0, ⟨true, false, false, true⟩, .reg 5, .special 13, .op (.view 0 0 0 0), 0⟩),
      some (.pxch ⟨0, 0, false, 0, ⟨true, false, false, true⟩, .special 13, .special 6, .lit 21, 0⟩),
      some (.vperm ⟨3, 0, true, 1, ⟨true, false, false, true⟩, .view 1 2 1 2, .ring 3, .op (.special 13), 0⟩),
      some (.pcycv ⟨0, 0, false, 0, ⟨true, false, false, true⟩, .view 3 4 0 3, .special 13, .op (.view 0 0 0 0), 0⟩)] := by decide +kernel

/-- R60–R64, R73: V major 0x08. -/
theorem test_decode_loads :
    ([
      at_ [(2, 0), (0x08, 2), (1, 14), (1, 17), (1, 21), (1, 34), (2, 39), (1, 44), (2, 46), (2, 48), (5, 50), (12288, 80)],
      at_ [(2, 0), (0x08, 2), (1, 8), (1, 14), (1, 17), (1, 34), (2, 39), (1, 44), (2, 46), (2, 48), (5, 50)],
      at_ [(2, 0), (0x08, 2), (2, 8), (1, 14), (1, 17), (2, 48), (5, 50), (133, 80)],
      at_ [(2, 0), (0x08, 2), (3, 8), (1, 14), (1, 17), (1, 26), (2, 48), (5, 50), (21, 64)],
      at_ [(2, 0), (0x08, 2), (4, 8), (1, 14), (1, 17), (2, 32), (5, 34), (3, 50), (4, 55), (3, 62)],
      at_ [(2, 0), (0x08, 2), (5, 8), (1, 14), (1, 17), (1, 26), (2, 48), (5, 50), (21, 64)],
      at_ [(2, 0), (0x08, 2), (6, 8), (1, 14), (1, 17), (1, 26), (21, 64)]] : List Nat).map (decodeTableWord 96) =
    [
      some (.tld ⟨0, 0, true, 0, ⟨true, false, false, true⟩, .view 1 2 1 2, .reg 5, .op (.view 0 0 0 0), 12288⟩),
      some (.tldi ⟨0, 0, false, 0, ⟨true, false, false, true⟩, .view 1 2 1 2, .reg 5, .op (.view 0 0 0 0), 0⟩),
      some (.tldw ⟨0, 0, false, 0, ⟨true, false, false, true⟩, .view 0 0 0 0, .reg 5, .op (.view 0 0 0 0), 133⟩),
      some (.tpref ⟨0, 0, false, 0, ⟨true, false, false, true⟩, .view 0 0 0 0, .reg 5, .lit 21, 0⟩),
      some (.sbind ⟨0, 0, false, 0, ⟨true, false, false, true⟩, .reg 5, .view 3 4 0 3, .op (.view 0 0 0 0), 0⟩),
      some (.sadv ⟨0, 0, false, 0, ⟨true, false, false, true⟩, .view 0 0 0 0, .reg 5, .lit 21, 0⟩),
      some (.wref ⟨0, 0, false, 0, ⟨true, false, false, true⟩, .view 0 0 0 0, .view 0 0 0 0, .lit 21, 0⟩)] := by decide +kernel

/-- R60–R64, R73: V major 0x09. -/
theorem test_decode_stores :
    ([
      at_ [(2, 0), (0x09, 2), (1, 14), (1, 17), (2, 32), (5, 34), (1, 50), (2, 55), (1, 60), (2, 62)],
      at_ [(2, 0), (0x09, 2), (1, 8), (1, 14), (1, 17), (2, 32), (5, 34), (1, 50), (2, 55), (1, 60), (2, 62)],
      at_ [(2, 0), (0x09, 2), (2, 8), (1, 14), (1, 17), (2, 32), (5, 34), (1, 50), (2, 55), (1, 60), (2, 62), (3, 64), (6, 66)]] : List Nat).map (decodeTableWord 96) =
    [
      some (.tst ⟨0, 0, false, 0, ⟨true, false, false, true⟩, .reg 5, .view 1 2 1 2, .op (.view 0 0 0 0), 0⟩),
      some (.tsti ⟨0, 0, false, 0, ⟨true, false, false, true⟩, .reg 5, .view 1 2 1 2, .op (.view 0 0 0 0), 0⟩),
      some (.tstm ⟨0, 0, false, 0, ⟨true, false, false, true⟩, .reg 5, .view 1 2 1 2, .op (.special 6), 0⟩)] := by decide +kernel

/-- R60–R64, R73: V major 0x0A. -/
theorem test_decode_copies :
    ([
      at_ [(2, 0), (0x0A, 2), (1, 14), (1, 17), (4, 22), (2, 32), (5, 34), (2, 48), (5, 50)],
      at_ [(2, 0), (0x0A, 2), (1, 8), (1, 14), (1, 17), (4, 22), (2, 32), (5, 34), (2, 48), (5, 50), (5, 80)],
      at_ [(2, 0), (0x0A, 2), (2, 8), (1, 14), (1, 17), (4, 22), (2, 32), (5, 34), (2, 48), (5, 50), (3, 66), (4, 71), (3, 78)],
      at_ [(2, 0), (0x0A, 2), (3, 8), (1, 14), (1, 17), (4, 22), (1, 34), (2, 39), (1, 44), (2, 46), (2, 48), (5, 50), (3, 66), (4, 71), (3, 78), (2, 80)],
      at_ [(2, 0), (0x0A, 2), (4, 8), (1, 14), (1, 17), (4, 22), (1, 26), (2, 32), (5, 34), (21, 64)],
      at_ [(2, 0), (0x0A, 2), (5, 8), (1, 14), (1, 17), (4, 22), (1, 34), (2, 39), (1, 44), (2, 46), (3, 50), (4, 55), (3, 62), (7, 80)],
      at_ [(2, 0), (0x0A, 2), (6, 8), (1, 14), (1, 17), (4, 22), (1, 26), (3, 50), (4, 55), (3, 62), (21, 64)],
      at_ [(2, 0), (0x0A, 2), (7, 8), (1, 14), (1, 17), (4, 22), (2, 32), (5, 34), (2, 48), (5, 50)]] : List Nat).map (decodeTableWord 96) =
    [
      some (.cpy ⟨0, 4, false, 0, ⟨true, false, false, true⟩, .reg 5, .reg 5, .op (.view 0 0 0 0), 0⟩),
      some (.cpya ⟨0, 4, false, 0, ⟨true, false, false, true⟩, .reg 5, .reg 5, .op (.view 0 0 0 0), 5⟩),
      some (.cmcast ⟨0, 4, false, 0, ⟨true, false, false, true⟩, .reg 5, .reg 5, .op (.view 3 4 0 3), 0⟩),
      some (.catom ⟨0, 4, false, 0, ⟨true, false, false, true⟩, .view 1 2 1 2, .reg 5, .op (.view 3 4 0 3), 2⟩),
      some (.cfill ⟨0, 4, false, 0, ⟨true, false, false, true⟩, .reg 5, .view 0 0 0 0, .lit 21, 0⟩),
      some (.rnode ⟨0, 4, false, 0, ⟨true, false, false, true⟩, .view 1 2 1 2, .view 3 4 0 3, .op (.view 0 0 0 0), 7⟩),
      some (.rcont ⟨0, 4, false, 0, ⟨true, false, false, true⟩, .view 0 0 0 0, .view 3 4 0 3, .lit 21, 0⟩),
      some (.wstore ⟨0, 4, false, 0, ⟨true, false, false, true⟩, .reg 5, .reg 5, .op (.view 0 0 0 0), 0⟩)] := by decide +kernel

/-- R65, R66, R74: the M format. -/
theorem test_decode_matrix :
    ([
      at_ [(3, 0), (1, 13), (1, 14), (1, 27), (1, 26), (1, 23), (2, 21), (7, 16), (31, 56), (32, 50), (63, 44), (4095, 32), (4, 84), (9, 79), (4, 74), (2, 69), (1, 64)],
      at_ [(3, 0), (1, 8), (1, 13), (1, 14), (1, 26), (1, 25), (3, 23), (1, 16)],
      at_ [(3, 0), (2, 8), (1, 13), (1, 14), (10, 69), (10, 64)],
      at_ [(3, 0), (1, 2), (1, 13), (1, 14), (1, 23), (1, 21), (5, 84), (10, 113), (77, 101), (3, 96), (1065353216, 128)],
      at_ [(3, 0), (1, 2), (1, 8), (1, 13), (1, 14), (3, 21), (11, 84), (30, 118), (13, 113), (4095, 101), (3, 96)],
      at_ [(3, 0), (1, 2), (2, 8), (1, 13), (1, 14), (2, 21), (8, 74), (6, 101), (5, 96)],
      at_ [(3, 0), (1, 2), (3, 8), (1, 13), (1, 14), (2, 23), (1, 21)],
      at_ [(3, 0), (2, 2), (1, 13), (1, 14), (4, 16), (3, 56), (60, 50), (5, 32), (1, 69)],
      at_ [(3, 0), (2, 2), (1, 8), (1, 13), (1, 14), (63, 50)]] : List Nat).map (decodeTableWord 192) =
    [
      some (.mma ⟨true, true, false, 1, 2, 7, ⟨false, true, true, false⟩, 31, 32, 63, 4095, 4, 9, 4, 2, 1, 0, 0, 0, 0, 0⟩),
      some (.mmas ⟨false, true, true, 3, 0, 1, ⟨false, true, true, false⟩, 0, 0, 0, 0, 0, 0, 0, 0, 0, 0, 0, 0, 0, 0⟩),
      some (.mmat ⟨false, false, false, 0, 0, 0, ⟨false, true, true, false⟩, 0, 0, 0, 0, 0, 0, 0, 10, 10, 0, 0, 0, 0, 0⟩),
      some (.mdrain ⟨false, false, false, 1, 1, 0, ⟨false, true, true, false⟩, 0, 0, 0, 0, 5, 0, 0, 0, 0, 0, 10, 77, 3, 1065353216⟩),
      some (.mdrainmx ⟨false, false, false, 0, 3, 0, ⟨false, true, true, false⟩, 0, 0, 0, 0, 11, 0, 0, 0, 0, 30, 13, 4095, 3, 0⟩),
      some (.mldac ⟨false, false, false, 0, 2, 0, ⟨false, true, true, false⟩, 0, 0, 0, 0, 0, 0, 8, 0, 0, 0, 0, 6, 5, 0⟩),
      some (.mclr ⟨false, false, false, 2, 1, 0, ⟨false, true, true, false⟩, 0, 0, 0, 0, 0, 0, 0, 0, 0, 0, 0, 0, 0, 0⟩),
      some (.wbld ⟨false, false, false, 0, 0, 4, ⟨false, true, true, false⟩, 3, 60, 0, 5, 0, 0, 0, 1, 0, 0, 0, 0, 0, 0⟩),
      some (.wbinv ⟨false, false, false, 0, 0, 0, ⟨false, true, true, false⟩, 0, 63, 0, 0, 0, 0, 0, 0, 0, 0, 0, 0, 0, 0⟩)] := by decide +kernel

/-! ### Words that are refused (R76) -/

/-- Why parcels do not decode. -/
def refusalOf (ps : List Nat) : Option FieldFault := match decode ps with | .error e => some e | .ok _ => none

/-- R76: unassigned majors, FN, OPX, COND and format lengths. -/
theorem test_unassigned :
    ∀ ps ∈ ([[0x23 * 4], [0x3F * 4], [31 * 2 ^ 23], [0x18 * 4 + 15 * 2 ^ 23], [0x16 * 4 + 7 * 2 ^ 18], [0x1E * 4 + 6 * 2 ^ 23],
      [0x1F * 4 + 7 * 2 ^ 23], [0x20 * 4 + 15 * 2 ^ 23], [0x21 * 4 + 2 * 2 ^ 23], [0x22 * 4 + 6 * 2 ^ 23], [1 + 0x0A * 4, 0],
      [1 + 7 * 4 + 6 * 2 ^ 18, 0], [2 + 0x0B * 4, 0, 0], [2 + 0 * 4 + 24 * 2 ^ 8, 0, 0], [2 + 0x0A * 4 + 8 * 2 ^ 8, 0, 0],
      [3 + 3 * 4, 0, 0, 0, 0, 0], [3 + 3 * 2 ^ 8, 0, 0, 0, 0, 0], [1], [0, 0], []] : List (List Nat)),
      refusalOf ps = some .unassigned := by decide +kernel

/-- R58–R61, R65, R70, R71: reserved bits, codes without a meaning, and bits outside an operand's kind. -/
theorem test_reserved_bits :
    (∀ ps ∈ ([[2 ^ 31], [24 * 2 ^ 23 + 1 * 2 ^ 18], [5 * 4 + 2 ^ 24], [0x18 * 4 + 1 * 2 ^ 8], [0x18 * 4 + 2 * 2 ^ 23 + 2 ^ 18],
      [0x19 * 4 + 2 ^ 13], [0x1A * 4 + 2 ^ 28], [0x1D * 4 + 2 ^ 12], [0x1E * 4 + 8 * 2 ^ 8], [0x1F * 4 + 1 * 2 ^ 23 + 8 * 2 ^ 18],
      [1 + 0 * 4 + 2 ^ 13, 0], [1 + 8 * 4 + 2 ^ 22 + 2 ^ 23, 0], [3, 2 ^ 30, 0, 0, 0, 0], [3, 0, 0, 0, 0, 1], [3 + 2 ^ 28, 0, 0, 0, 0, 0]] :
        List (List Nat)), refusalOf ps = some .reserved) ∧
    (∀ ps ∈ ([[0x16 * 4 + 3 * 2 ^ 21], [0x18 * 4 + 4 * 2 ^ 23], [1 + 7 * 4 + 3 * 2 ^ 21, 0]] : List (List Nat)), refusalOf ps = some .code) ∧
    (∀ ps ∈ ([[2, 1 + 2 ^ 5, 0], [2, 2 + 2 ^ 7, 0], [2, 3 + 2 ^ 6, 0], [2, 0, 1 + 2 ^ 15]] : List (List Nat)),
      refusalOf ps = some .operandKind) := by decide +kernel

/-! ### Instructions that are not well formed (R62–R71, R76) -/

/-- A vector word of plain views. -/
def vw0 : VWord := ⟨3, 0, false, 0, ⟨false, false, false, false⟩, .view 1 0 0 0, .view 2 0 0 0, .op (.view 3 0 0 0), 0⟩

/-- A transfer word: views and registers as a load has them. -/
def tw0 : VWord := { vw0 with fmt := 0, s1 := .reg 4, s2 := .op (.view 0 0 0 0) }

/-- A matrix word with no field set. -/
def mw0 : MWord := ⟨false, false, false, 0, 0, 0, ⟨false, false, false, false⟩, 0, 0, 0, 0, 0, 0, 0, 0, 0, 0, 0, 0, 0, 0⟩

/-- The plain words are well formed, so that each term below breaks one rule alone. -/
theorem test_wellFormed :
    ∀ i ∈ ([.vadd vw0, .tld tw0, .mma mw0, .mdrain mw0, .mdrainmx mw0, .mldac mw0, .mclr mw0, .wbld mw0, .wbinv mw0, .nop, .li 1 0,
      .loop 0 false false 1 1, .evpop 1, .semadd 0 .core 0, .mset 1 2 3] : List Instr), WellFormed i = true := by decide +kernel

/-- R62, R64: LIT and the predicate fields. -/
theorem test_literal_predicate :
    fieldFault (.vfma { vw0 with s2 := .lit 1 }) = none ∧ fieldFault (.vabs { vw0 with s2 := .lit 1 }) = some .literal ∧
    fieldFault (.vadd { vw0 with fmt := 13, s2 := .lit 1 }) = some .literal ∧
    fieldFault (.vadd { vw0 with s2 := .lit 1, xfn := 1 }) = some .literal ∧ fieldFault (.tpref { tw0 with d := .view 0 0 0 0 }) = some .literal ∧
    fieldFault (.wref { tw0 with d := .view 0 0 0 0, s1 := .view 0 0 0 0, s2 := .lit 32 }) = some .literal ∧
    fieldFault (.vadd { vw0 with bit21 := true }) = some .predicate ∧ fieldFault (.vmxq { vw0 with s2 := .op (.view 0 0 0 0), pm := 1 }) = some .predicate ∧
    fieldFault (.tld { tw0 with pm := 1 }) = some .predicate ∧ fieldFault (.tldi { tw0 with bit21 := true }) = some .predicate ∧
    fieldFault (.vcompr { vw0 with s2 := .op (.view 0 0 0 0), pm := 1, bit21 := true }) = some .predicate := by decide +kernel

/-- R61, R130, R169, R202, R220: the kinds each position accepts. -/
theorem test_operand_kinds :
    ∀ i ∈ ([.vadd { vw0 with d := .reg 1 }, .vadd { vw0 with d := .ring 1 }, .vadd { vw0 with s1 := .special 1 }, .vabs vw0,
      .vfma { vw0 with d := .ring 0 }, .vcmpeq { vw0 with d := .special 0 }, .vcmpeq { vw0 with d := .special 8 },
      .pld { vw0 with d := .special 1, s1 := .view 1 0 1 0, s2 := .op (.view 0 0 0 0), xfn := 4 },
      .pcyc { vw0 with d := .reg 29, s1 := .special 1, s2 := .op (.view 0 0 0 0) }, .tld { tw0 with d := .view 1 0 3 0 },
      .tstm { tw0 with d := .reg 1, s1 := .view 1 0 0 0, s2 := .op (.special 8) }, .tld { tw0 with s1 := .view 1 0 0 0 }] : List Instr),
      fieldFault i = some .operandKind := by decide +kernel

/-- R64, R68, R132, R220: MOD, FMT of a transfer, the scope of a copy, XFN and its ranges. -/
theorem test_modifiers :
    fieldFault (.vshl { vw0 with mod := 1 }) = none ∧ fieldFault (.vabs { vw0 with s2 := .op (.view 0 0 0 0), mod := 1 }) = some .modBits ∧
    fieldFault (.tld { tw0 with fmt := 1 }) = some .reserved ∧ fieldFault (.cpy { tw0 with d := .reg 1, mod := 8 }) = some .scope ∧
    fieldFault (.cpy { tw0 with d := .reg 1, mod := 0 }) = some .scope ∧ fieldFault (.vsel { vw0 with xfn := 8 }) = some .xfn ∧
    fieldFault (.pidn { vw0 with d := .special 1, s1 := .view 0 0 0 0, s2 := .op (.view 0 0 0 0), xfn := 0 }) = some .xfn ∧
    fieldFault (.pidn { vw0 with d := .special 1, s1 := .view 0 0 0 0, s2 := .op (.view 0 0 0 0), xfn := 257 }) = some .xfn ∧
    fieldFault (.cpya { tw0 with d := .reg 1, mod := 4, xfn := 6 }) = some .xfn ∧
    fieldFault (.catom { tw0 with mod := 4, s2 := .op (.view 1 0 0 0), xfn := 3 }) = some .xfn ∧
    fieldFault (.tldw { tw0 with d := .view 0 0 0 0, xfn := 62 + 2 * 64 }) = some .xfn ∧
    fieldFault (.vcvt { vw0 with s2 := .op (.view 0 0 0 0), xfn := 1 }) = some .xfn ∧
    fieldFault (.vbcast { vw0 with s1 := .reg 1, s2 := .op (.view 0 0 0 0), xfn := 1 }) = some .xfn := by decide +kernel

/-- R66: the fields of the M instructions. -/
theorem test_matrix_fields :
    (∀ i ∈ ([.mma { mw0 with acc := 3, mrepM1 := 1 }, .mma { mw0 with wslot := 63, kstepM1 := 1 }, .mma { mw0 with ft := true, afmt := 1 },
      .mdrain { mw0 with acc := 2, mrepM1 := 2 }, .mdrain { mw0 with ft := true, dfmt := 1 }, .mdrainmx { mw0 with acc := 1, mrepM1 := 3 },
      .mdrainmx { mw0 with ft := true, mod := 1 }, .mldac { mw0 with acc := 3, mrepM1 := 1 }, .mclr { mw0 with acc := 3, mrepM1 := 1 },
      .wbld { mw0 with wslot := 63, kstepM1 := 1 }, .wbinv { mw0 with wslot := 1, kstepM1 := 63 }] : List Instr), fieldFault i = some .mRange) ∧
    (∀ i ∈ ([.mma { mw0 with sview := 1 }, .mma { mw0 with scale := 1 }, .mdrain { mw0 with aview := 1 }, .mdrain { mw0 with qview := 1, scale := 1 },
      .mdrainmx { mw0 with scale := 1 }, .mldac { mw0 with mod := 4 }, .mclr { mw0 with dview := 1 }, .wbld { mw0 with acc := 1 },
      .wbinv { mw0 with bfmt := 1 }] : List Instr), fieldFault i = some .reserved) ∧
    (∀ i ∈ ([.mma { mw0 with mod := 1 }, .mdrainmx { mw0 with mod := 4 }] : List Instr), fieldFault i = some .modBits) := by decide +kernel

/-- R67, R68, R71, R76: register groups, scopes, empty loop bodies, M0 as a destination, and the part's own steps. -/
theorem test_scalar_fields :
    (∀ i ∈ ([.evpop 0, .evpop 31, .pwbegin 30 0, .rtake 31 0 .core, .vwget 0 1, .semmset 0 .core 1 31] : List Instr),
      fieldFault i = some .registerGroup) ∧
    (∀ i ∈ ([.semadd 0 .eng 1, .semradd 0 .eng 1 2, .semmset 0 .eng 1 2, .pwend 0 .eng, .racq 1 0 .eng, .rclose 0 .eng true] : List Instr),
      fieldFault i = some .scope) ∧
    fieldFault (.loop 0 false false 1 0) = some .bodyLength ∧ fieldFault (.loopi 0 false false 0 5) = some .bodyLength ∧
    fieldFault (.mset 0 1 2) = some .reserved ∧ fieldFault (.mset 8 1 2) = some .reserved ∧ fieldFault .powerOn = some .noEncoding := by
  decide +kernel

/-! ### Witnesses: a state and operands that meet the hypotheses of each statement

`may s i` is `s.Allowed i`. A list of instructions stands for one clause each. -/

/-- No check that every instruction makes turns `i` away (`State.Allowed`, spelled out). -/
abbrev may (s : State) (i : Instr) : Prop := issueCheck i s.cpu = none

/-- The reset state with the core in focus changed. -/
def core0 (f : Core → Core) : State := State.reset.modCpu f

/-- The reset state with some registers set. -/
def regs (l : List (Reg × Word)) : State := core0 fun c => { c with x := l.foldl (fun v p => v.set p.1 p.2) c.x }

/-- The core in focus is in the handler of the module OS. -/
def handler (s : State) : State := s.modCpu fun c => { c with tstatus := 1 }

/-- What an answer is, as a truth value. -/
def answered {α : Type} (o : Option α) (p : α → Bool) : Bool := match o with | some a => p a | none => false

theorem allowed_may {s : State} {i : Instr} : s.Allowed i ↔ may s i := Iff.rfl

/-- AluArithmetic, AluSelection, Multiplies, Divides: outside and inside trap mode, at the first and the last register. -/
theorem witness_alu :
    ∀ s ∈ [State.reset, handler State.reset], ∀ d ∈ ([0, 31] : List Reg), ∀ w ∈ [false, true], ∀ f ∈ ([.add, .sub, .and, .or, .xor, .andn, .sll,
      .srl, .sra, .rol, .min, .max, .minu, .maxu, .slt, .sltu, .seq, .movz, .movn, .mul, .mulh, .mulhu, .div, .divu, .rem, .remu] :
      List (Bool → Reg → Reg → Reg → Instr)), may s (f w d 31 0) := by decide +kernel

theorem witness_alu_unary :
    ∀ s ∈ [State.reset, handler State.reset], ∀ d ∈ ([0, 31] : List Reg), ∀ f ∈ ([.clz, .ctz, .popc, .brev, .bswap] :
      List (Bool → Reg → Reg → Instr)), may s (f true d 31) := by decide +kernel

/-- Immediates: the extreme immediates and shift amounts. -/
theorem witness_immediates :
    ∀ i ∈ ([.addi 31 1 0x2000, .andi 0 1 0x1FFF, .ori 1 2 0x3FFF, .xori 1 2 0, .slli 1 2 63, .srli 1 2 0, .srai 1 2 63, .slti 1 2 0x2000,
      .sltiu 1 2 0x3FFF, .seqi 1 2 0, .li 1 0x80000000, .lih 1 5, .addil 1 2 0xFFFFFFFF, .andil 1 2 3, .oril 1 2 3, .xoril 1 2 3] : List Instr),
      may State.reset i := by decide +kernel

/-- LocalLoads: the last eight bytes below the trap window, and in trap mode the last of the Plate. -/
theorem witness_localLoads :
    ∀ p ∈ ([(.ldb, 1), (.ldbu, 1), (.ldh, 2), (.ldhu, 2), (.ldw, 4), (.ldwu, 4), (.ldd, 8)] : List ((Reg → Reg → BitVec 14 → Instr) × Nat)),
      (let s := regs [(1, 0x3F0000)]
       let ea := (s.cpu.readX 1 + BitVec.ofInt 64 (signedOf 14 0x3FF8)).toNat
       may s (p.1 2 1 0x3FF8) ∧ ea % p.2 = 0 ∧ ea < plateSize ∧ ea < trapWindow ∧ s.cpu.globals = [] ∧ s.markedAt (.plate s.cur) ea p.2 = false) ∧
      (let s := handler (regs [(1, 0x400000)])
       let ea := (s.cpu.readX 1 + BitVec.ofInt 64 (signedOf 14 0x3FF8)).toNat
       may s (p.1 2 1 0x3FF8) ∧ ea % p.2 = 0 ∧ ea < plateSize ∧ s.cpu.trapMode = true ∧ s.cpu.globals = [] ∧
         s.markedAt (.plate s.cur) ea p.2 = false) := by decide +kernel

/-- LocalStores: the same places. -/
theorem witness_localStores :
    ∀ p ∈ ([(.stb, 1), (.sth, 2), (.stw, 4), (.std, 8)] : List ((Reg → Reg → BitVec 14 → Instr) × Nat)),
      (let s := regs [(1, 0x3F0000)]
       let ea := (s.cpu.readX 1 + BitVec.ofInt 64 (signedOf 14 0x3FF8)).toNat
       may s (p.1 2 1 0x3FF8) ∧ ea % p.2 = 0 ∧ ea < plateSize ∧ s.cpu.globals = [] ∧ s.cpu.fenced = [] ∧ s.cpu.trapMode = false ∧ ea < trapWindow) ∧
      (let s := handler (regs [(1, 0x400000)])
       let ea := (s.cpu.readX 1 + BitVec.ofInt 64 (signedOf 14 0x3FF8)).toNat
       may s (p.1 2 1 0x3FF8) ∧ ea % p.2 = 0 ∧ ea < plateSize ∧ s.cpu.globals = [] ∧ s.cpu.fenced = [] ∧ s.cpu.trapMode = true) := by decide +kernel

/-- A core TLB entry: 64 KiB at 0x10000000, readable and writable, over HBM at 0x20000. -/
def page : TlbEntry := ⟨0, 0x10000000, 65536, 0x20063⟩

/-- The page mapped, and register 1 at an offset in it. -/
def mappedAt (off : Nat) : State :=
  (regs [(1, BitVec.ofNat 64 (0x10000000 + off))]).modCpu fun c => { c with tlb := [page] }

/-- The place of an access. -/
def placeOf (t : Target) : Option Loc := match t with | .mapped _ l => l | _ => none

/-- GlobalStores, GlobalLoads: the last eight bytes of a page. -/
theorem witness_global :
    let s := mappedAt 65528
    let ea := s.cpu.readX 1 + BitVec.ofInt 64 (signedOf 14 0)
    placeOf (s.target ea) = some ⟨.hbm, 0x20000 + 65528⟩ ∧ s.cpu.trapMode = false ∧ s.cpu.globals = [] ∧ s.hbm.mem.wf = true ∧
    (∀ p ∈ ([(.stb, 1), (.sth, 2), (.stw, 4), (.std, 8)] : List ((Reg → Reg → BitVec 14 → Instr) × Nat)),
      may s (p.1 2 1 0) ∧ scalarFault false p.2 ea s = none) ∧
    (∀ p ∈ ([(.ldb, 1), (.ldbu, 1), (.ldh, 2), (.ldhu, 2), (.ldw, 4), (.ldwu, 4), (.ldd, 8)] : List ((Reg → Reg → BitVec 14 → Instr) × Nat)),
      may s (p.1 2 1 0) ∧ scalarFault true p.2 ea s = none) := by decide +kernel

/-- ScalarChecks: one byte off, the first address above the map, the first and last of the trap window. -/
theorem witness_scalarChecks :
    (∀ p ∈ ([(.ldh, 2), (.ldhu, 2), (.ldw, 4), (.ldwu, 4), (.ldd, 8), (.sth, 2), (.stw, 4), (.std, 8)] : List ((Reg → Reg → BitVec 14 → Instr) × Nat)),
      let s := regs [(1, 0x1001)]
      may s (p.1 2 1 0) ∧ (s.cpu.readX 1 + BitVec.ofInt 64 (signedOf 14 0)).toNat % p.2 ≠ 0) ∧
    (∀ f ∈ ([.ldb, .ldbu, .ldh, .ldhu, .ldw, .ldwu, .ldd, .stb, .sth, .stw, .std] : List (Reg → Reg → BitVec 14 → Instr)),
      may (regs [(1, 0x1000000000000)]) (f 2 1 0) ∧ 2 ^ 48 ≤ (((regs [(1, 0x1000000000000)]).cpu.readX 1) + BitVec.ofInt 64 (signedOf 14 0)).toNat ∧
      ∀ a ∈ [0x3F0000, 0x3FFFF8],
        let s := regs [(1, BitVec.ofNat 64 a)]
        may s (f 2 1 0) ∧ s.cpu.trapMode = false ∧ (s.cpu.readX 1 + BitVec.ofInt 64 (signedOf 14 0)).toNat = a ∧ a % 8 = 0 ∧
        trapWindow ≤ a ∧ a < plateSize) := by decide +kernel

/-- ScalarChecks: a page of each kind that stops an access: the trap window of a Plate, another group's Plate, the weight store written, SYNC,
a page that is only read. -/
theorem witness_scalarChecks_mapped :
    let on (pte : Word) : State := (mappedAt 0).modCpu fun c => { c with tlb := [{ page with pte }] }
    let leaf (pte : Word) : Leaf := ⟨0x10000000, 65536, pte⟩
    let at_ (pte : Word) : Option Loc := (leaf pte).loc 0x10000000
    ([0x3F006F, 0x56F, 0x6B, 0x73, 0x20023] : List Word).all (fun pte => decide ((on pte).translate 0 0x10000000 = some (leaf pte) ∧
      may (on pte) (.std 2 1 0) ∧ may (on pte) (.ldb 2 1 0) ∧ ((on pte).cpu.readX 1 + BitVec.ofInt 64 (signedOf 14 0)).toNat = 0x10000000)) = true ∧
    at_ 0x3F006F = some ⟨.plate 0, trapWindow⟩ ∧ (at_ 0x56F = some ⟨.plate 5, 0⟩ ∧ (leaf 0x56F).allows .write = true ∧ (on 0x56F).mates 0 5 = false) ∧
    at_ 0x6B = some ⟨.wstore 0, 0⟩ ∧ at_ 0x73 = none ∧ (leaf 0x20023).allows .write = false := by decide +kernel

/-- Branches: every form, with the extreme displacements. -/
theorem witness_branches :
    ∀ nul ∈ [Nul.none, .notTaken, .taken], ∀ i ∈ ([.beq 1 2 nul 0x100, .bne 1 2 nul 0xFF, .blt 1 2 nul 0, .bge 1 2 nul 1, .bltu 1 2 nul 2,
      .bgeu 1 2 nul 3, .bra nul 0x1FF, .beqi 1 nul 0x8000 0x8000, .bnei 1 nul 0x7FFF 0x7FFF, .blti 1 nul 0 0, .bgei 1 nul 0 0,
      .bltui 1 nul 0xFFFF 0, .bgeui 1 nul 0 0xFFFF] : List Instr), may State.reset i := by decide +kernel

/-- Jumps: an aligned and a misaligned target. -/
theorem witness_jumps :
    may State.reset (.jal 1 0x80000000) ∧ may (regs [(2, 0x1000)]) (.jalr 1 2 4) ∧ may (regs [(2, 0x1000)]) (.jalr 1 2 3) ∧
    (BitVec.ofInt 64 (((regs [(2, 0x1000)]).cpu.readX 2).toNat + signedOf 14 4)).toNat % 4 = 0 ∧
    (BitVec.ofInt 64 (((regs [(2, 0x1000)]).cpu.readX 2).toNat + signedOf 14 3)).toNat % 4 ≠ 0 := by decide +kernel

/-- Loops: counts 0 and 1, the longest bodies, an open and a closed level. -/
theorem witness_loops :
    (∀ n ∈ [0, 1], let s := regs [(1, BitVec.ofNat 64 n)]
      may s (.loop 3 true true 1 0x3FFF) ∧ may s (.loopi 0 false false 0x1FF (BitVec.ofNat 32 n)) ∧ s.cpu.trapMode = false ∧ s.cpu.order = [] ∧
      s.cpu.lc = Vector.replicate 4 0 ∧ s.cpu.chain.c0.toNat + 8 + 4 * 0x3FFF < 2 ^ 48) ∧
    may (core0 fun c => { c with lc := c.lc.set 2 5, order := [2] }) (.lbrk 2) ∧ may State.reset (.lbrk 2) ∧
    may (handler State.reset) (.lbrk 2) := by decide +kernel

/-- ControlRegisters: an index that R32 does not list, and each register that the clauses name. -/
theorem witness_controlRegisters :
    csrOf 0x3FF = none ∧ (∀ n ∈ [0x3FF, 0x035, 0x0C3, 1, 2, 8, 0x30, 0x31, 0x32], may State.reset (.csrr 31 (BitVec.ofNat 10 n))) ∧
    State.reset.cpu.trapMode = false ∧ csrOf 0x036 = some .utvec ∧ csrOf 0x00A = some .vstat ∧ csrOf 0x008 = some .mode ∧
    (∀ n ∈ [0x036, 0x009, 0x050, 0x05F, 0x00A], may State.reset (.csrw 0 31 (BitVec.ofNat 10 n))) ∧
    may State.reset (.csrs 1 2 0x036) ∧ may State.reset (.csrc 1 2 0x036) ∧ may State.reset (.csrc 1 2 0x00A) := by decide +kernel

/-- Configuration: the bounds of ROTSET, SHPSET and MSET from both sides, inside and outside trap mode. -/
theorem witness_configuration :
    may State.reset (.vwset 31 1 2) ∧ may State.reset (.ftset 15 1) ∧ may State.reset (.vwget 30 1) ∧
    (let s := (regs [(1, 3), (2, 4)]).modCpu fun c => { c with vw := c.vw.set 5 (4#128 <<< 77) }
     may s (.rotset 5 1) ∧ may s (.rotset 5 2) ∧ 0 < bitsOf s.cpu.vw[(5 : Reg)] 77 12 ∧ (s.cpu.readX 1).toNat < bitsOf s.cpu.vw[(5 : Reg)] 77 12 ∧
       bitsOf s.cpu.vw[(5 : Reg)] 77 12 ≤ (s.cpu.readX 2).toNat ∧ ∀ l ∈ s.cpu.innermost, s.cpu.levelEnd l ≠ s.cpu.chain.c0.toNat) ∧
    (let s := regs [(1, 0x3FFF), (2, 0x4000)]
     may s (.shpset 1) ∧ may s (.shpset 2) ∧ (s.cpu.readX 1).toNat < 2 ^ 14 ∧ 2 ^ 14 ≤ (s.cpu.readX 2).toNat) ∧
    (∀ s ∈ [regs [(1, 4000), (2, 96), (3, 97)], handler (regs [(1, 4000), (2, 96), (3, 97)])],
      may s (.mset 7 1 2) ∧ (s.cpu.readX 1).toNat + (s.cpu.readX 2).toNat ≤ 4096 ∧ 4096 < (s.cpu.readX 1).toNat + (s.cpu.readX 3).toNat ∧
      may s (.mset 1 1 3)) := by decide +kernel

/-- SystemControl: every mode, in a kernel that is not built against "any" and in one that is. -/
theorem witness_systemControl :
    (∀ i ∈ ([.nop, .tmark, .qdrain 31, .modeset 6, .modeset 1, .halt] : List Instr), may State.reset i) ∧ State.reset.anyContract = false := by
  decide +kernel

/-- PositionChecks: in a slot, in the wrong mode, with a field that breaks its rule. -/
theorem witness_positionChecks :
    encode .halt ≠ [] ∧ slotForbidden .halt = true ∧ (core0 fun c => { c with chain := { c.chain with prior2 := true } }).cpu.inSlot = true ∧
    slotForbidden .rtt = true ∧ State.reset.cpu.inSlot = false ∧ trapModeIllegal .rtt State.reset.cpu = true ∧
    trapModeIllegal .tmark (handler State.reset).cpu = true ∧ fieldFault (.loop 0 false false 1 0) ≠ none ∧
    encode (.loop 0 false false 1 0) ≠ [] ∧ fieldFault (.mset 0 1 2) ≠ none ∧ slotForbidden (.mset 0 1 2) = false := by decide +kernel

/-- PositionChecks: every instruction that may not stand in a slot, in trap mode or outside it, and fields that break each rule. -/
theorem witness_positionChecks_lists :
    let slotted := (core0 fun c => { c with chain := { c.chain with prior1 := true } }).cpu
    let edge (j : Instr) : Bool := slotForbidden j && slotted.inSlot && !(encode j).isEmpty
    let v := { vw0 with s2 := .lit 5 }
    (∀ j ∈ ([.loop 0 false false 1 1, .loopi 0 false false 1 1, .halt, .rtt, .segb, .sege 1 0] : List Instr), edge j = true) ∧
    (∀ j ∈ ([.loop 0 false false 1 1, .halt, .tmark, .modeset 0, .qdrain 0, .pwbegin 1 2, .pquery 1 2, .launch 1, .launchs 1, .vadd vw0, .mma mw0] :
      List Instr), trapModeIllegal j (handler State.reset).cpu = true ∧ ¬ may (handler State.reset) j) ∧
    trapModeIllegal (.tlbinv 1 2) (core0 fun c => { c with tstatus := 3 }).cpu = true ∧
    (∀ j ∈ ([.evpop 0, .vwget 31 1, .loopi 0 false false 0 1, .semadd 1 .eng 1, .semmset 1 .die 1 31, .pquery 30 0, .pwnext 1 2 .eng,
      .rtake 31 0 .core, .mset 8 1 2] : List Instr), ¬ may State.reset j ∧ encode j ≠ []) ∧
    (∀ j ∈ ([.vadd { v with xfn := 1 }, .tld { vw0 with pm := 1 }, .cpy { vw0 with fmt := 0, mod := 8 }, .vmul { vw0 with bit21 := true },
      .mma { mw0 with acc := 3, mrepM1 := 1 }, .wbld { mw0 with wslot := 63, kstepM1 := 1 }] : List Instr),
      ¬ may State.reset j ∧ slotForbidden j = false ∧ encode j ≠ []) := by decide +kernel

/-- GuardMarks: the last granule below the trap window, none, the trap window, beyond the Plate, misaligned. -/
theorem witness_guardMarks :
    (∀ f ∈ ([.gset, .gclr] : List (Reg → Reg → Instr)), may (regs [(1, 0x3EFF00), (2, 1)]) (f 1 2) ∧ may (handler (regs [(1, 0x3FFF00), (2, 1)])) (f 1 2) ∧
      may (regs [(1, 1), (2, 0)]) (f 1 2) ∧ may (regs [(1, 0x400000), (2, 0)]) (f 1 2) ∧ may (regs [(1, 0x3FFF00), (2, 2)]) (f 1 2) ∧
      may (regs [(1, 0x3EFF00), (2, 2)]) (f 1 2)) ∧
    0x3EFF00 % 256 = 0 ∧ 0x3EFF00 + 256 * 1 ≤ 0x3F0000 ∧ 0x3FFF00 + 256 * 1 ≤ 0x400000 ∧ 0x3FFF00 + 256 * 2 > 0x400000 ∧
    0x3F0000 < 0x3EFF00 + 256 * 2 := by decide +kernel

/-- CompletionEvents: an empty EVQ, and one with a record of a contribution. -/
theorem witness_completionEvents :
    may State.reset (.evpeek 1) ∧ may State.reset (.evpop 30) ∧ State.reset.cpu.evq = [] ∧
    (let s := core0 fun c => { c with evq := [⟨5#64 <<< 48, 9, none, []⟩, ⟨1, 2, none, []⟩] }
     may s (.evpeek 30) ∧ may s (.evpop 1) ∧ s.cpu.evq = ⟨5#64 <<< 48, 9, none, []⟩ :: [⟨1, 2, none, []⟩]) ∧
    bitsOf (0#64) 48 4 ≠ 5 ∧ (core0 fun c => { c with evq := [⟨0, 9, none, []⟩] }).cpu.evq = ⟨0, 9, none, []⟩ :: [] ∧ may (core0 fun c => { c with evq := [⟨0, 9, none, []⟩] }) (.evpop 1) := by
  decide +kernel

/-- The core in focus runs an iteration. -/
def running : State := core0 fun c => { c with activity := .running }

/-- TrapInstruction: the last number of a trace trap, the first that ends the kernel, and one in a handler. -/
theorem witness_trapInstruction :
    may running (.trap 511) ∧ may running (.trap 512) ∧ may (handler running) (.trap 0) ∧ running.cpu.activity = .running ∧
    (handler running).cpu.activity = .running ∧ running.cpu.trapMode = false ∧ (handler running).cpu.trapMode = true ∧
    (∀ k ∈ running.kernels, k.kid = running.cpu.kernid.toNat → k.fault = none) := by decide +kernel

/-- TrapReturn: with nothing outstanding, and with a handler divide under way. -/
theorem witness_trapReturn :
    may (handler State.reset) .rtt ∧ (handler State.reset).cpu.hSlots = [] ∧ (handler State.reset).cpu.hLater = [] ∧ (handler State.reset).cpu.hReady = [] ∧
    (handler State.reset).cpu.hDivFree ≤ (handler State.reset).now State.reset.cur ∧ (handler State.reset).cpu.loopDeferred = none ∧
    (let s := handler (core0 fun c => { c with hDivFree := 1 })
     may s .rtt ∧ ¬ s.cpu.hDivFree ≤ s.now s.cur) := by decide +kernel

/-- Fences: every kind at the scopes on both sides of DIE, and with a recorded touch delegated and not. -/
theorem witness_fences :
    may State.reset (.fence .acq .system) ∧ may State.reset (.fence .rel .group) ∧ may State.reset (.fence .acqRel .die) ∧
    bitOf State.reset.cpu.guardst 28 = false ∧ State.reset.cpu.trapMode = false ∧ scopeCode .group < 3 ∧ 3 ≤ scopeCode .die ∧
    (let s := core0 fun c => { c with guardst := 1#30 <<< 28, mode := 1#64 <<< 8, utvec := 0x1000 }
     may s (.fence .acq .core) ∧ bitOf s.cpu.guardst 28 = true ∧ s.cpu.trapMode = false ∧ s.cpu.trapDlg = true ∧ s.cpu.utvec ≠ 0) ∧
    (let s := core0 fun c => { c with guardst := 1#30 <<< 28 }
     may s (.fence .acq .core) ∧ bitOf s.cpu.guardst 28 = true ∧ s.cpu.trapDlg = false ∧ s.cpu.utvec = 0) := by decide +kernel

/-- TlbInvalidation: the last page of the map, one byte off, the first address above. -/
theorem witness_tlbInvalidation :
    (∀ a ∈ [0xFFFFFFFF0000, 0x10001, 0x1000000000000], may (handler (regs [(1, BitVec.ofNat 64 a)])) (.tlbinv 1 2)) ∧
    (0xFFFFFFFF0000#64).toNat % 65536 = 0 ∧ (0xFFFFFFFF0000#64).toNat < 2 ^ 48 ∧ (0x10001#64).toNat % 65536 ≠ 0 ∧
    2 ^ 48 ≤ (0x1000000000000#64).toNat ∧ (handler (regs [(1, 0x10001)])).cpu.readX 1 = 0x10001 := by decide +kernel

/-- A proof segment that is open since this S-cycle. -/
def segmentOpen (count : Word) : State := (regs [(1, count)]).modCpu fun c => { c with seg := { c.seg with open_ := true } }

/-- ProofSegments: a segment whose count and signature are right, one whose count is wrong, none. -/
theorem witness_proofSegments :
    may State.reset .segb ∧
    (let s := segmentOpen 1
     let sig : BitVec 32 := ~~~(crcBytes s.cpu.seg.crc (natBytes 4 (firstParcel (.sege 1 0))))
     may s (.sege 1 sig) ∧ s.cpu.seg.open_ = true ∧ (s.cpu.readX 1).toNat = s.cpu.sclk - s.cpu.seg.start + 1 ∧ s.cpu.sclk - s.cpu.seg.start + 1 ≤ 65535 ∧
       ~~~(crcBytes s.cpu.seg.crc (natBytes 4 (firstParcel (.sege 1 sig)))) = sig ∧ s.cpu.seg.rerun = false ∧ bitOf s.cpu.guardst 28 = false) ∧
    (let s := (segmentOpen 2).modCpu fun c => { c with seg := { c.seg with clean := false }, mode := 1#64 <<< 8, utvec := 64 }
     may s (.sege 1 0) ∧ (s.cpu.readX 1).toNat ≠ s.cpu.sclk - s.cpu.seg.start + 1 ∧ s.cpu.seg.clean = false ∧ bitOf s.cpu.guardst 28 = false ∧
       s.cpu.trapDlg = true ∧ s.cpu.utvec ≠ 0) ∧
    may State.reset (.sege 1 0) ∧ State.reset.cpu.seg.open_ = false := by decide +kernel

/-- An activation of a node of tenant 0's graph. -/
def act0 : Activation := ⟨0, 1, 0x10000000, 6, 0, 0, none, 0, []⟩

/-- A record of 256 bytes with the bytes of `l` at their offsets. -/
def record0 (l : List (Nat × Nat)) : List Byte := l.foldl (fun r p => r.set p.1 (BitVec.ofNat 8 p.2)) (List.replicate 256 0)

/-- A kernel with a pool of one of its own cores, a ring from rank 0 to rank 1, and no other entries. -/
def kernel0 : Kernel :=
  { kid := 1, group := 0, tenant := 0, act := act0, record := record0 [(96, 0x61), (97, 0x6E), (98, 0x79)], argp := 7, views := [], binds := [],
    pools := [some ⟨false, 1, 2⟩, some ⟨true, 64, 3⟩, none, some ⟨false, 0, 1⟩], rings := [some ⟨0, 1, 2⟩, some ⟨1, 0, 2⟩, none],
    cores := [0, 33], nextIter := 0, done := 0, gang := [], started := true, startAt := 0, lastStart := 0, staged := none, stagedReady := false,
    fault := none, broken := false, preads := 0, preempt := none, saved := none }

/-- Core 0 is rank 0 of the two cores of the kernel, with some registers set. -/
def grouped (l : List (Reg × Word)) : State :=
  { (regs l).modCpu fun c => { c with groupid := 2#64 <<< 16, kernid := 1, activity := .running } with kernels := [kernel0] }

/-- SystemControl: a kernel that is built against "any". -/
theorem witness_anyContract : (grouped []).anyContract = true ∧ may (grouped []) (.modeset 1) ∧ (1#3).getLsbD 0 = true := by decide +kernel

/-- TrapInstruction: the kernel of the core is not faulted yet, and stays in the list. -/
theorem witness_trapKernel :
    may (grouped []) (.trap 512) ∧ (grouped []).cpu.activity = .running ∧
    ∀ k ∈ (grouped []).kernels, k.kid = (grouped []).cpu.kernid.toNat ∧ k.fault = none := by decide +kernel

/-- SemaphoreUpdates: the last rank of the group and the first beyond it, a mask within the group, one beyond it, an empty one. -/
theorem witness_semaphoreUpdates :
    may (grouped []) (.semadd 31 .core 1) ∧ may (grouped []) (.semset 0 .system 1) ∧
    (let s := grouped [(1, 1), (2, 2)]
     may s (.semradd 3 .die 1 2) ∧ (s.cpu.readX 1).toNat < s.cpu.groupSize ∧ may s (.semradd 3 .die 2 1) ∧ s.cpu.groupSize ≤ (s.cpu.readX 2).toNat) ∧
    (∀ m ∈ [0, 1, 2, 3, 4], may (grouped [(2, BitVec.ofNat 64 m)]) (.semmset 3 .die 1 2)) ∧
    (let s := grouped [(2, 4)]
     let mask := (s.cpu.readX 2).toNat + (s.cpu.readX (regPlus 2 1)).toNat * 2 ^ 64
     mask / 2 ^ 2 % 2 = 1 ∧ s.cpu.groupSize ≤ 2 ∧ ∀ r < 2, mask / 2 ^ r % 2 ≠ 1) ∧
    (let s := grouped [(2, 3)]
     let mask := (s.cpu.readX 2).toNat + (s.cpu.readX (regPlus 2 1)).toNat * 2 ^ 64
     mask / 2 ^ 1 % 2 = 1 ∧ ∀ r < 128, mask / 2 ^ r % 2 = 1 → r < s.cpu.groupSize) := by decide +kernel

/-- SemaphoreWaits: a value one below and equal, and a FAULT flag. -/
theorem witness_semaphoreWaits :
    (∀ p ∈ [((4, false), false), ((5, false), true), ((0, true), true)],
      let s := (regs [(1, 5)]).modCpu fun c => { c with sems := c.sems.set 9 ⟨BitVec.ofNat 32 p.1.1, p.1.2⟩ }
      may s (.semwait 9 .core 1) ∧ may s (.semrd 1 9) ∧ bitOf s.cpu.guardst 28 = false ∧
      (decide (s.cpu.sems[(9 : Reg)].fault = true ∨ (s.cpu.readX 1).toNat % 2 ^ 32 ≤ s.cpu.sems[(9 : Reg)].value.toNat)) = p.2) := by decide +kernel

/-- PoolOperations: a pool on another die, the tenant's pool, an entry that is not declared, outside and inside trap mode. -/
theorem witness_poolOperations :
    (∀ s ∈ [grouped []], ∀ p ∈ ([0, 1, 2] : List Reg), ∀ i ∈ ([.pwbegin 1 p, .pwend p .core, .pwnext 29 p .core, .prbegin 1 p .core, .prend p,
      .prnext 1 p .core, .pquery 1 p] : List Instr), may s i) ∧
    (grouped []).poolHome 0 = some (33, 2) ∧ (grouped []).poolHome 1 = some (64, 3) ∧ (grouped []).poolHome 2 = none ∧
    (grouped []).poolHome 31 = none ∧ (grouped []).cpu.trapMode = false := by decide +kernel

/-- RingOperations: the right and the wrong side of the two rings, and an entry that is not declared. -/
theorem witness_ringOperations :
    (∀ r ∈ ([0, 1, 2] : List Reg), ∀ i ∈ ([.racq 1 r .core, .rpub r .core, .rtake 30 r .core, .rfree r .core, .rclose r .core true, .rbrk r, .rstat 1 r] :
      List Instr), may (grouped []) i) ∧ bitOf (grouped []).cpu.guardst 28 = false ∧
    (grouped []).ringRef 0 = some ⟨0, 1, 2⟩ ∧ (grouped []).ringRef 1 = some ⟨1, 0, 2⟩ ∧ (grouped []).ringRef 2 = none ∧ (grouped []).cpu.rank = 0 ∧
    (1 : Nat) ≠ (grouped []).cpu.rank := by decide +kernel

/-- Launches: the last node of the graph, and a number above 32 bits. -/
theorem witness_launches :
    (let s := grouped [(1, 5), (2, 0x100000000)]
     may s (.launch 1) ∧ may s (.launchs 1) ∧ may s (.launch 2) ∧ may s (.launchs 2) ∧ (s.cpu.readX 1).toNat < s.graphOf.2 ∧
     (s.tenantOf s.cpu.tenant).pending.length < 4096 ∧ 2 ^ 32 ≤ (s.cpu.readX 2).toNat) := by decide +kernel

/-! #### The engines -/

/-- A view of eight rows of 512 bytes of INT32 at an offset of the Plate. -/
def view0 (base : Nat) : BitVec 128 :=
  BitVec.ofNat 128 (base + 512 * 2 ^ 22 + 8 * 2 ^ 44 + 4 * 2 ^ 56 + 512 * 2 ^ 64)

/-- Views 1 to 3 over the Plate, a shape of two rows of 64 bytes, and a matrix of plain fields. -/
def shaped : State :=
  core0 fun c => { c with vw := ((c.vw.set 1 (view0 0)).set 2 (view0 8192)).set 3 (view0 16384), shp := BitVec.ofNat 14 (1 + 63 * 32), sclk := 9 }

/-- The operands of each vector instruction, by what it accepts. -/
def vOperands : List ((VWord → Instr) × VWord) :=
  let u := { vw0 with s2 := .op (.view 0 0 0 0) }
  let p := { u with fmt := 0, d := .special 1, s1 := .special 2 }
  ([.vadd, .vsub, .vmul, .vfma, .vfms, .vfnma, .vmin, .vmax, .vaddsub, .vavg, .vmulh, .vshl, .vshr, .vsra, .vand, .vor, .vxor, .vsel, .vclamp, .vabsd,
    .vcmpeq, .vcmpne, .vcmplt, .vcmple, .vcmpgt, .vcmpge, .vdiv, .vdot, .vtopk, .vsortr, .vmrgk, .vgathr, .vscatr] : List (VWord → Instr)).map (·, vw0) ++
  ([.vabs, .vneg, .vnot, .vmov, .vclass, .vrcp, .vrsqrt, .vsqrt, .vexp2, .vlog2, .vexp, .vtanh, .vsigm, .vsilu, .vgelu, .vsin, .vcos, .vrsum, .vrmax, .vrmin,
    .vramax, .vcsum, .vcmax, .vscan, .vcompr, .vexpnd, .vbcast, .vtrans, .vcvt, .vrqnt, .vmxq, .vmxdq, .vunpk3, .vpack3, .vunpk4, .vpack4, .vsat, .vrnd] :
    List (VWord → Instr)).map (·, u) ++
  [(.viota, { u with s1 := .reg 1, s2 := .op (.reg 2) }), (.vperm, { u with s2 := .op (.special 1) }),
   (.pld, { p with s1 := .view 1 0 0 0, xfn := 256 }), (.pst, { p with d := .view 1 0 0 0 }), (.pcomp, { p with s2 := .op (.special 3) }), (.pinv, p),
   (.ppow, { p with s2 := .lit 3 }), (.prand, { p with s1 := .reg 1, xfn := 1 }), (.pidn, { p with s1 := .view 0 0 0 0, xfn := 256 }),
   (.pcyc, { p with d := .reg 28 }), (.pxch, { p with s2 := .op (.reg 3) }), (.pcycv, { p with d := .view 1 0 0 0 })]

/-- EngineIssue: every vector, permutation and matrix instruction, and a literal beside a view whose format forbids it. -/
theorem witness_engineIssue :
    (∀ p ∈ vOperands, may shaped (p.1 p.2) ∧ literalFault (p.1 p.2) p.2 shaped = none) ∧
    (∀ f ∈ ringInstrs ++ permInstrs, f vw0 ∈ vOperands.map fun p => p.1 vw0) ∧ (∀ f ∈ matrixInstrs, may shaped (f mw0)) ∧
    (let s := shaped.modCpu fun c => { c with vw := c.vw.set 1 (view0 0 + BitVec.ofNat 128 (9 * 2 ^ 56)) }
     let v : VWord := { vw0 with fmt := 0, s2 := .lit 1 }
     may s (.vadd v) ∧ literalFault (.vadd v) v s ≠ none) := by decide +kernel

/-- A stream record of one dimension: FP32, one row of 64 bytes, 16 elements. -/
def stream0 : StreamBinding := ⟨BitVec.ofNat 512 0, 0⟩

/-- TransferIssue: every transfer with its handles bound, and with handle 4 unbound. -/
theorem witness_transferIssue :
    let z : Operand := .view 0 0 0 0
    let s := core0 fun c => { c with streams := ((c.streams.set 4 (some stream0)).set 1 (some stream0)).set 0 (some stream0) }
    let ps : List ((VWord → Instr) × VWord) :=
      [(.tld, tw0), (.tldi, tw0), (.tldw, { tw0 with d := z }), (.tpref, { tw0 with d := z, s2 := .lit 1 }), (.sadv, { tw0 with d := z, s2 := .lit 3 }),
       (.wref, { tw0 with d := z, s1 := z, s2 := .lit 31 }), (.tst, { tw0 with d := .reg 4, s1 := .view 1 0 0 0 }),
       (.tsti, { tw0 with d := .reg 4, s1 := .view 1 0 0 0 }), (.tstm, { tw0 with d := .reg 4, s1 := .view 1 0 0 0, s2 := .op (.special 1) }),
       (.cpy, { tw0 with d := .reg 1, mod := 4 }), (.cpya, { tw0 with d := .reg 1, mod := 4, xfn := 5 }),
       (.cmcast, { tw0 with d := .reg 1, mod := 2, s2 := .op (.view 1 0 0 0) }), (.catom, { tw0 with mod := 4, s2 := .op (.view 1 0 0 0) }),
       (.cfill, { tw0 with d := .reg 4, s1 := z, mod := 4, s2 := .lit 9 }), (.rnode, { tw0 with s1 := .view 1 0 0 0, mod := 4, xfn := 7 }),
       (.rcont, { tw0 with d := z, s1 := .view 1 0 0 0, mod := 4, s2 := .lit 9 })]
    (∀ p ∈ ps, may s (p.1 p.2) ∧ may State.reset (p.1 p.2) ∧ ∀ h ∈ s.cpu.handles (p.1 p.2), (s.cpu.streams[h]).isSome = true) ∧
    (∀ f ∈ loadInstrs ++ storeInstrs ++ copyInstrs, f vw0 ∈ ps.map fun p => p.1 vw0) ∧
    (State.reset.cpu.handles (.tld tw0)).find? (fun h => (State.reset.cpu.streams[h]).isNone) = some 4 ∧
    may State.reset (.wstore { tw0 with d := .reg 1, mod := 4 }) := by decide +kernel

/-- View 1's first 64 bytes hold a stream record: FP32 (8), one dimension of 16 elements, tiles of one row of 64 bytes, unit stride. -/
def bound : State :=
  shaped.modCpu fun c => { c with plate := Memory.writeCells [] [(8, 8), (9, 1), (10, 1), (12, 64), (16, 16), (32, 1)] }

/-- StreamBinds: a row that holds a valid record, and one of zeros. -/
theorem witness_streamBinds :
    let v : VWord := { vw0 with fmt := 0, d := .reg 4, s2 := .op (.view 0 0 0 0) }
    ∀ p ∈ [(bound, true), (shaped, false)],
      let s := p.1
      let at_ := viewRowAt s.cpu.vw[(2 : Reg)] 0
      let u : ViewUse := { pos := 1, vw := 1, row := 0, step := 1, off := 0, rows := 1, bytes := 64 }
      let w : VWord := { v with s1 := .view 1 0 0 0 }
      may s (.sbind w) ∧ usesFault (fun r : Reg => s.cpu.vw[r]) [u] = none ∧ s.cpu.marks = [] ∧ at_ = 8192 ∧
      streamValid (BitVec.ofNat 512 (bytesNat (Memory.readBytes s.cpu.plate (viewRowAt s.cpu.vw[(1 : Reg)] 0) 64))) = p.2 := by decide +kernel

/-- Instruction `i` at the head of its engine's queue, captured as it issues, and its event due. -/
def queued (s : State) (i : Instr) : State :=
  { s.modCpu (fun c => { c with queues := c.queues.set (engIx (engineOf i)) [⟨i, c.chain.c0, c.seqNo, 0, c.window.number, c.capture i⟩] }) with
    event := .engineDispatch (engineOf i) }

/-- The head and what it dispatches to. -/
def headOf (s : State) (e : Engine) : Option (QEntry × Dispatch) :=
  match s.cpu.headOf e with
  | some q => (dispatchOf q.instr (s.env q) s).map fun d => (q, d)
  | none => none

/-- EngineDispatch: heads that are ready: of VX and ST that fault (their views have no rows), and of VX and MX that do not. -/
theorem witness_engineDispatch :
    let p : VWord := { vw0 with fmt := 0, d := .special 1, s1 := .special 2, s2 := .op (.view 0 0 0 0) }
    (∀ i ∈ ([.vadd vw0, .vfma vw0, .tst { tw0 with d := .reg 0, s1 := .view 1 0 0 0 }] : List Instr),
      let s := queued (core0 fun c => { c with sclk := 9, streams := c.streams.set 0 (some stream0) }) i
      s.headReady (engineOf i) = .go ∧ answered (headOf s (engineOf i)) fun h => s.transferMiss h.1 = none && (s.dispatchFault (engineOf i) h.1 h.2).isSome) ∧
    (∀ i ∈ ([.vadd vw0, .pinv p, .mclr mw0, .wbinv mw0] : List Instr),
      let s := queued shaped i
      s.headReady (engineOf i) = .go ∧ answered (headOf s (engineOf i)) fun h =>
        decide (s.transferMiss h.1 = none ∧ s.dispatchFault (engineOf i) h.1 h.2 = none) && !s.cpu.triggers h.1 (s.env h.1) && h.2.store.isEmpty &&
        h.2.atOnce && h.2.refresh.isNone && h.2.ahead.isEmpty && h.2.touched.isEmpty && !h.2.mapped && !s.indexAbsent h.1 &&
        h.2.effs.all fun f => f.runs.isEmpty) := by decide +kernel

/-- A tile step of INT8: two rows of accumulators over a view of 64 rows. -/
def mw8 : MWord := { mw0 with afmt := 1, bfmt := 1, aview := 1 }

/-- View 1 with 64 rows. -/
def tall : State := shaped.modCpu fun c => { c with vw := c.vw.set 1 (view0 0 + BitVec.ofNat 128 (56 * 2 ^ 44)) }

/-- EngineDispatch: a tile step that reads a marked line, and one that does not. -/
theorem witness_engineDispatch_replay :
    ∀ b ∈ [true, false],
      let s := queued (tall.modCpu fun c => { c with marks := if b then [0] else [] }) (.mma mw8)
      s.headReady .mx = .go ∧ answered (headOf s .mx) fun h =>
        decide (s.transferMiss h.1 = none ∧ s.dispatchFault .mx h.1 h.2 = none) && s.cpu.triggers h.1 (s.env h.1) == b && !s.indexAbsent h.1 := by
  decide +kernel

/-- EngineDispatch: heads of CP that are ready: a copy within the Plate, a fill whose handle is no stream, the arming of a node. -/
theorem witness_engineDispatch_cp :
    let b : StreamBinding := ⟨BitVec.ofNat 512 (at_ [(0x1000, 0), (8, 64), (1, 72), (1, 80), (64, 96), (16, 128), (1, 256)]), 0⟩
    ∀ p ∈ ([(.cpy { tw0 with d := .reg 1, mod := 4 }, true), (.cfill { tw0 with d := .reg 5, s1 := .view 0 0 0 0, mod := 4, s2 := .lit 9 }, true),
        (.rnode { tw0 with s1 := .view 1 0 0 0, mod := 4, xfn := 7 }, false)] : List (Instr × Bool)),
      let s := queued (core0 fun c => { c with sclk := 9, streams := ((c.streams.set 1 (some b)).set 4 (some b)).set 5 (some stream0) }) p.1
      s.headReady .cp = .go ∧ answered (s.cpu.headOf .cp) fun q => (copyFn q.instr).isSome &&
        answered (copyPlanOf q.instr (s.env q) s) fun k => k.fault.isNone == p.2 && (s.cpu.overlap .cp k.reads k.holds).isNone := by decide +kernel

/-- A result that is due. -/
def land0 (e : Eff) : Landing :=
  { due := 3, seq := 7, addr := 0, eng := none, postL := false, postR := false, window := 0, holds := [], reads := [], effs := [e] }

/-- A core at S-cycle 9 with one result due. -/
def dueNow (e : Eff) : State := core0 fun c => { c with sOpen := true, sclk := 9, landings := [land0 e], guards := [1] }

/-- Landings: register 0 and another, mask 0 and another, a byte outside and inside a guard granule. -/
theorem witness_landings :
    ∀ e ∈ ([.x 0 5, .x 31 5, .mask 0 0, .mask 7 0, .vstat 1, .ring 8 [(0, 1)] [],
        .plate [(0, 3)] [], .plate [(255, 3), (256, 4), (255, 5)] [], .fills [⟨0, 1, some ⟨.hbm, 64⟩, 0, 0, [0], false, false⟩]] : List Eff),
      let s := dueNow e
      s.cpu.sOpen = true ∧ nextDue s.cpu.sclk s.cpu.landings = some (land0 e) ∧ s.cpu.stalls (land0 e) = false ∧ (land0 e).eng = none ∧
      (land0 e).effs = [e] ∧ s.cpu.plate.wf = true ∧ s.cpu.ring[Fin.ofNat 8 8].tag ≤ 8 := by decide +kernel

/-- Landings: a permutation register and an accumulator, of any value. -/
theorem witness_landings_values (p : PermReg) (a : Accum) :
    ∀ e ∈ ([.perm 15 p, .acc 3 0 a] : List Eff), let s := dueNow e
      s.cpu.sOpen = true ∧ nextDue s.cpu.sclk s.cpu.landings = some (land0 e) ∧ s.cpu.stalls (land0 e) = false ∧ (land0 e).effs = [e] := by
  intro e h
  simp only [List.mem_cons, List.not_mem_nil, or_false] at h
  rcases h with h | h <;> subst h <;> exact ⟨rfl, rfl, rfl, rfl⟩

/-- Landings: results that are due and cannot land: an access that is out, a reply that is missing, a granule to be read again. -/
theorem witness_landings_stalls :
    ∀ e ∈ ([.waits 4 1, .reply 7, .fills [⟨0, 1, some ⟨.hbm, 64⟩, 0, 0, [0], false, true⟩]] : List Eff),
      let s := (dueNow e).modCpu fun c => { c with homeOps := [⟨7, 0, [5], true, none, [], false, false, false, none⟩] }
      nextDue s.cpu.sclk (if s.cpu.sOpen then s.cpu.landings else s.cpu.landings.filter s.cpu.stalls) = some (land0 e) ∧ s.cpu.stalls (land0 e) = true ∧ s.cpu.stalls (land0 (.x 0 5)) = false := by decide +kernel

/-- A context of INT8. -/
def ctx0 (sat : Bool) : Ctx := { (shaped.env ⟨.nop, 0, 0, 0, 0, shaped.cpu.capture .nop⟩).ctx .int8 0 with sat := sat }

/-- IntegerElements, IntegerCompares: a signed and an unsigned format. -/
theorem witness_integers :
    (ctx0 true).fmt.isInt = true ∧ Fmt.int8.bits = 8 ∧ Fmt.uint8.isInt = true ∧ (255 : Nat) < 2 ^ Fmt.uint8.bits := by decide +kernel

/-- VectorInstructions: every instruction of majors 0x00 to 0x05 dispatches, and the elementwise ones without a fault. -/
theorem witness_vectorInstructions :
    let dispatched (p : (VWord → Instr) × VWord) : Option Dispatch :=
      headOf (queued shaped (p.1 p.2)) .vx |>.map (·.2)
    (∀ p ∈ vOperands.take 72, (dispatched p).isSome = true) ∧
    ∀ f ∈ ringInstrs.take 24, ∃ p ∈ vOperands, p.1 vw0 = f vw0 ∧ (p.1 p.2 = .vsel p.2 ∨ answered (dispatched p) (fun d => decide (d.fault = none))) := by decide +kernel

/-- VectorInstructions: conversions that do not fault, and values of a float format: finite, and not a number. -/
theorem witness_vectorInstructions_floats :
    let y : Ctx := { ctx0 false with fmt := .fp32 }
    let v (f : Nat) : VWord := { vw0 with fmt := BitVec.ofNat 5 f, s1 := .view 2 0 0 0, s2 := .op (.view 0 0 0 0) }
    let src (f : Nat) : State := shaped.modCpu fun c => { c with vw := c.vw.set 2 (view0 8192 + BitVec.ofNat 128 (f * 2 ^ 56) - BitVec.ofNat 128 (4 * 2 ^ 56)) }
    y.fmt.isInt = false ∧ y.fmt.float.isSome = true ∧ y.val ⟨0x3F800000, false⟩ = .fin false (2 ^ 23) (-23) ∧
    (y.val ⟨0x7FC00000, false⟩).isNaN = true ∧ y.val ⟨0x7F800001, false⟩ = .nan true ∧
    (∀ i ∈ ([(.vcvt (v 0), 3), (.vunpk4 (v 1), 5), (.vpack4 (v 5), 1), (.vsat (v 1), 4)] : List (Instr × Nat)),
      answered (headOf (queued (src i.2) i.1) .vx) fun h => decide (h.2.fault = none)) := by decide +kernel

/-- Permutations: a register of another N, one of the same, and a composition that is a permutation. -/
theorem witness_permutations :
    let s := core0 fun c => { c with perms := (c.perms.set 1 ⟨3, [1, 2, 0], 0, c.perms[(0 : Fin 16)].summary⟩).set 2 ⟨3, [0, 2, 1], 0, c.perms[(0 : Fin 16)].summary⟩ }
    let v : VWord := { vw0 with fmt := 0, d := .special 5, s1 := .special 1, s2 := .op (.special 2) }
    let u : VWord := { v with s2 := .op (.special 3) }
    let w : VWord := { v with s2 := .op (.view 0 0 0 0) }
    let z : VWord := { w with s1 := .view 0 0 0 0, xfn := 256 }
    (∀ i ∈ ([.pcomp v, .pcomp u, .pinv w, .pidn z] : List Instr), may s i ∧ (headOf (queued s i) .vx).isSome = true) ∧
    s.cpu.perms[(1 : Fin 16)].n = s.cpu.perms[(2 : Fin 16)].n ∧ s.cpu.perms[(1 : Fin 16)].n ≠ s.cpu.perms[(3 : Fin 16)].n ∧
    s.cpu.perms[(1 : Fin 16)].idx.Nodup ∧ ∀ k ∈ s.cpu.perms[(1 : Fin 16)].idx, k < s.cpu.perms[(1 : Fin 16)].idx.length := by decide +kernel

/-- AccumulatorClear: each matrix instruction with formats and views that stand, with a view that is too small, and with a wrong format. -/
theorem witness_matrixInstructions :
    let x (s : State) (i : Instr) : Env := s.env ⟨i, 0, 0, 0, 0, s.cpu.capture i⟩
    let m := { mw8 with dview := 1, dfmt := 4, cfmt := 4, qview := 2, scale := 1 }
    let gives (s : State) (i : Instr) (c : Option Cause) : Bool := answered (dispatchOf i (x s i) s) fun d => decide (d.fault.map (·.1) = c)
    (∀ f ∈ ([.mma, .mmat, .wbld] : List (MWord → Instr)), gives tall (f mw8) none = true ∧ gives shaped (f mw8) (some .viewBounds) = true) ∧
    gives tall (.mmas mw8) none = true ∧ gives tall (.mdrain m) none = true ∧ gives shaped (.mdrain m) (some .viewBounds) = true ∧
    gives tall (.mldac m) none = true ∧ gives tall (.mdrainmx { m with dfmt := 15, qview := 1 }) none = true ∧
    (∀ f ∈ ([.mma, .mmas, .mmat, .wbld] : List (MWord → Instr)), gives tall (f { m with afmt := 4, bfmt := 4 }) (some .illegalFormat) = true) ∧
    gives tall (.mdrain { m with dfmt := 7 }) (some .illegalFormat) = true ∧ gives tall (.mdrainmx m) (some .illegalFormat) = true ∧
    gives tall (.mldac { m with cfmt := 1 }) (some .illegalFormat) = true := by decide +kernel

/-- AccumulatorClear, WeightInvalidate: all four accumulators, and slots up to the last. -/
theorem witness_matrixState :
    (headOf (queued shaped (.mclr { mw0 with mrepM1 := 3 })) .mx).isSome = true ∧
    (let m : MWord := { mw0 with wslot := 60, kstepM1 := 3 }
     (headOf (queued shaped (.wbinv m)) .mx).isSome = true ∧ m.wslot.val + m.kstepM1.val < 64) ∧
    ∀ n : Fin 4, shaped.cpu.accSeq[n] ≤ 0 := by decide +kernel

/-! #### The part's steps -/

/-- A cause that waits. -/
def pend0 (k : Cause) : PendingTrap := { cause := k, badaddr := 0x1234, eng := none, addr := 0, slot := false, precise := false }

/-- SequencerSteps: a cause for the module OS and one for a user handler; an RTT; MODESET, QDRAIN of one engine and of all, HALT without and
with a touch. -/
theorem witness_sequencerSteps :
    (let c := (core0 fun c => { c with traps := [pend0 .poison] }).cpu
     c.nextTrap = some (pend0 .poison) ∧ c.toUser .poison = false) ∧
    (let c := (core0 fun c => { c with traps := [pend0 .viewBounds], utvec := 0x10000000, mode := 0x100 }).cpu
     c.nextTrap = some (pend0 .viewBounds) ∧ c.toUser .viewBounds = true) ∧
    (let s := handler (core0 fun c => { c with rttWait := true }); s.cpu.rttWait = true ∧ s.handlerDone = true) ∧
    (let c := (core0 fun c => { c with draining := some (.modeset 5) }).cpu; c.draining = some (.modeset 5) ∧ c.drained = true) ∧
    (∀ m ∈ ([0, 0x1F, 2] : List Nat), ∀ e ∈ drainSet (BitVec.ofNat 5 m), State.reset.cpu.engineQuiet e = true) ∧
    (let c := (core0 fun c => { c with draining := some .halt }).cpu; c.draining = some .halt ∧ c.haltReady = true ∧ c.guardReport = none) ∧
    (let c := (core0 fun c => { c with draining := some .halt, guardst := 0x10000000 }).cpu; c.haltReady = true ∧ c.guardReport ≠ none) := by
  decide +kernel

/-- Page tables that map 64 KiB at 0x10000000 to HBM at 0x30000, for a tenant. -/
def mapped (s : State) (t : TenantId) : State :=
  let put (m : Memory) (a v : Nat) : Memory := Memory.writeNat m a 8 v
  let m := put (put (put (put s.hbm.mem (s.tenantOf t).root 0x20001) 0x20000 0x21001) (0x21000 + 8 * 128) 0x22001) 0x22000 0x30063
  { s with hbm := { s.hbm with mem := m } }

/-- ScalarChecks: a page that no table maps. -/
theorem witness_scalarChecks_unmapped :
    let s := mapped (regs [(1, 0x20000000)]) 0
    s.translate s.cur (s.cpu.readX 1 + BitVec.ofInt 64 (signedOf 14 0)).toNat = none ∧ may s (.std 2 1 0) := by decide +kernel

/-- A core frozen for a reason. -/
def frozen (f : Freeze) : State := core0 fun c => { c with sclk := 9, freeze := some f }

/-- A load that is due, whose bytes have to be read again or not. -/
def reload (again : Bool) : Landing := land0 (.fills [⟨0, 1, some ⟨.hbm, 64⟩, 0, 0, [0], false, again⟩])

/-- A copy in flight. -/
def copy0 (fn status : Nat) : CopyInFlight :=
  { id := 3, addr := 0x40, fn, scope := .die, postL := true, postR := false, seq := 1, started := 0, bytes := 5, written := 64, op := .plain 0, srcs := [], dsts := [],
    rows := [], valid := [], pois := 0, got := [], badSrc := [], out := [], waiting := 0, missing := none, unmapped := [], status, data := 9,
    oldTo := none, oldBad := false, awaits := [], known := [], rel := ⟨.die, []⟩, reserved := 1, reads := [], holds := [] }

/-- FreezeEnds: a SEMWAIT whose instruction is fetched and satisfied, an EVPOP with a record, a FENCE with a touch, TLBINV with and without
an access outstanding, bank reads that have waited, where the core is owed the bank and where it is not, a re-read with and without something
to read, and a core that is not frozen. -/
theorem witness_freezeEnds :
    (let s := { (frozen .wait).modCpu (fun c => { c with tlb := [{ page with pte := 0x200E3 }], chain := { c.chain with c0 := 0x10000000 } }) with
                hbm := ⟨Memory.writeNat [] 0x20000 4 ((encode (.semwait 9 .core 1)).headD 0), [], [], []⟩ }
     s.fetch s.cur s.cpu.chain.c0 = .instr (.semwait 9 .core 1) 1 ∧ (s.cpu.readX 1).toNat % 2 ^ 32 ≤ s.cpu.sems[(9 : Reg)].value.toNat) ∧
    (let c := ((frozen .wait).modCpu fun c => { c with evq := [⟨1, 2, none, []⟩] }).cpu; c.freeze = some .wait ∧ c.evq ≠ []) ∧
    (let c := ((frozen .fence).modCpu fun c => { c with guardst := 1#30 <<< 28 }).cpu
     c.freeze = some .fence ∧ c.trapMode = false ∧ bitOf c.guardst 28 = true) ∧
    ((frozen (.tlbinv 0)).cpu.freeze = some (.tlbinv 0) ∧ (frozen (.tlbinv 0)).casts = [] ∧ ([0, 5].all fun o => ((frozen (.tlbinv 0)).core o).globals = []) ∧
      (frozen (.tlbinv 0)).accessesBefore 0 9 = false ∧
      ((frozen (.tlbinv 0)).modCpu fun c => { c with copies := [{ copy0 0 0 with out := [4] }] }).accessesBefore 0 9 = true) ∧
    (let s := (core0 fun c => { c with reads4 := [(0, 70, 3)] }).modDie 0 fun k => { k with dclk := 16 }
     s.cpu.reads4.find? (fun w => w.2.1 % 64 = (6 : Fin 64).val && w.1 + 16 ≤ s.now 0) = some (0, 70, 3) ∧ s.cpu.bankBusy.contains 6 = false ∧
     s.cpu.bankOwed.contains 6 = false ∧ (s.modCpu fun c => { c with bankOwed := [6] }).cpu.bankOwed.contains 6 = true) ∧
    (∀ b ∈ [true, false], let c := ((frozen .replay).modCpu fun c => { c with landings := [reload b] }).cpu
     c.freeze = some .replay ∧ (reload b).due ≤ c.sclk ∧ rereads (reload b).effs = b ∧ c.headOf .ld = none ∧ c.headOf .mx = none) ∧
    State.reset.cpu.freeze = none := by
  decide +kernel

/-- A walk of the page at 0x10000000 for core 0 or a copy of it. -/
def walk0 (who : Asker) (done : Bool) (leaf : Option TlbEntry) : Walk :=
  { ctx := 0, va := 0x10000000, askers := [(0, who)], levels := walkLevels, base := 0, done, leaf }

/-- FreezeEnds: a page whose walk is under way, has found a leaf that allows the access, one that forbids it, and none; for a core and a copy. -/
theorem witness_freezeEnds_pages :
    let y := { copy0 0 0 with missing := some (0x10000000, .write) }
    let s (w : Walk) : State :=
      ((frozen (.translation 0x10000000 .write)).modCpu fun c => { c with copies := [y] }).modDie 0 fun k => { k with walks := [w] }
    (∀ who ∈ [Asker.core, .copy 3],
      ((s (walk0 who false none)).walking 0 who 0 0x10000000 = true ∧ (s (walk0 who false none)).walkOf 0 who = some (walk0 who false none)) ∧
      (s (walk0 who true (some page))).walking 0 who 0 0x10000000 = false ∧
      ((s (walk0 who true (some page))).leafFor 0 who 0 0x10000000 .write).isSome = true ∧
      (s (walk0 who true (some { page with pte := 0x20023 }))).leafFor 0 who 0 0x10000000 .write = none ∧
      (s (walk0 who true none)).leafFor 0 who 0 0x10000000 .write = none) ∧
    (s (walk0 .core false none)).cpu.ctx = 0 ∧ (s (walk0 .core false none)).cpu.copies.find? (·.id = 3) = some y ∧
    walk0 .core false none ∈ (((s (walk0 .core false none)).die 0).walks.filter fun x => !x.done).take 16 := by decide +kernel

/-- A pool of three slots at its home: slot 1 published last, slot 0 pinned. -/
def pool0 : PoolUnit :=
  { kid := some 1, tenant := 0, base := 4096, size := 64, stride := 256, s := 3, r := 1, w := 1, place := 0, seq := 4, fresh := 1, opens := 0, pins := 0,
    slots := [⟨false, 1, 3, 0⟩, ⟨false, 0, 4, 0⟩, ⟨false, 0, 2, 0⟩], holders := [] }

/-- An operation of core 0 at the home of core 33. -/
def req {α : Type} (op : α) : HomeReq α := { src := 0, kid := 1, rank := 0, home := 33, entry := 2, op, rid := 7, det := false, addr := 0, sent := 0, rel := none }

/-- HomeServices: a core with and without a SEMMSET of its own still to come, a pool that is not there; a pool with a slot to open and to pin, one that is full, one that its holder has open and pinned, one without a
published slot; and an operation that waits for its reply, of a program and of a handler. -/
theorem witness_homeServices :
    (let s := State.reset.modCore 33 fun c => { c with pools := c.pools.set 2 (some pool0) }
     (s.core 33).pools[(Fin.ofNat 8 (req PoolOp.query).entry)] = some pool0) ∧
    (pool0.fresh < 0x7F ∧ pool0.slots[1]? = some ⟨false, 0, 4, 0⟩ ∧ (pool0.holder 1 0).open_ = none ∧ (pool0.holder 1 0).pin = none ∧
      pool0.opens ≠ pool0.w ∧ pool0.pins ≠ pool0.r ∧ pool0.slots[2]? = some ⟨false, 0, 2, 0⟩ ∧
      ∀ j < 2, ∀ y ∈ pool0.slots[j]?, j = pool0.fresh ∨ y.pinc ≠ 0 ∨ y.isOpen = true) ∧
    (let p := { pool0 with opens := 1, pins := 1, holders := [⟨1, 0, some 2, some 1⟩] }
     p.opens = p.w ∧ p.pins = p.r ∧ (p.holder 1 0).open_ = some 2 ∧ (p.holder 1 0).pin = some 1) ∧
    (let p := { pool0 with fresh := 0x7F }; 0x7F ≤ p.fresh ∧ (p.holder 1 0).pin = none) ∧
    (let s := { State.reset with casts := [{ Multicast.empty 0 [0] with sem := some (1, 3) }] }
     s.ownSetBefore 0 9 = true ∧ State.reset.ownSetBefore 0 9 = false) ∧
    State.reset.poolFor (req PoolOp.query) = none ∧ (grouped []).kernels.any (·.kid = (req PoolOp.query).kid) = true ∧
    State.reset.cpu.homeOps.any (·.rid = 7) = false ∧
    (∀ b ∈ [true, false], let o : HomeOp := { rid := 7, addr := 0, dest := [5], remote := true, acquire := none, gain := [], barrier := false, slot := false, handler := b, arrived := none }
     let s := core0 fun c => { c with homeOps := [o] }
     s.cpu.homeOps.find? (·.rid = 7) = some o ∧ o.handler = b ∧ o.dest = [5] ∧ o.acquire = none ∧ o.barrier = false) := by decide +kernel

/-- HomeServices: a PWNEXT that publishes and finds a slot, and a PRNEXT without a pin where every pin is taken. -/
theorem witness_homeServices_next :
    (let p := { pool0 with opens := 1, holders := [⟨1, 0, some 2, none⟩], slots := [⟨false, 1, 3, 0⟩, ⟨false, 0, 4, 0⟩, ⟨true, 0, 2, 0⟩] }
     (p.holder 1 0).open_ = some 2 ∧ 0 < p.opens ∧ p.slots[1]? = some ⟨false, 0, 4, 0⟩ ∧ ∀ j < 1, ∀ y ∈ p.slots[j]?, j = 2 ∨ y.pinc ≠ 0 ∨ y.isOpen = true) ∧
    (let p := { pool0 with pins := 1 }; (p.holder 1 0).pin = none ∧ p.pins = p.r ∧ p.fresh < 0x7F) := by decide +kernel

/-- A ring of two buffers at its home. -/
def ring0 (b : BufState) (c : RingCond) : RingUnit :=
  { kid := 1, entry := 0, base := 1024, size := 64, stride := 256, n := 2, prod := 0, cons := 1, place := 0, bufs := [b, .free], nextAcq := 0, nextPub := 0,
    nextTake := 0, nextFree := 0, taken := 0, cond := c, err := false, eos := none, eosTaken := false, waitProd := [], waitCons := [] }

/-- RingServices: the next buffer in each of its states, the ring in each of its conditions, and a waiting operation of each side. -/
theorem witness_ringServices :
    (∀ b ∈ [BufState.free, .acquired, .full, .taken], ∀ c ∈ [RingCond.open_, .closed, .drained, .broken],
      let u := ring0 b c
      let s := State.reset.modCore 33 fun k => { k with rings := k.rings.set 2 (some u) }
      (s.core 33).rings[(Fin.ofNat 8 (req RingOp.acq).entry)] = some u ∧ u.cond = c ∧ u.eos = none ∧
      (u.bufs[u.nextAcq]?).getD .free = b ∧ (u.bufs[u.nextPub]?).getD .free = b ∧ (u.bufs[u.nextTake]?).getD .free = b ∧ (u.bufs[u.nextFree]?).getD .free = b) ∧
    (let u := { ring0 .free .open_ with waitProd := [req RingOp.acq] }
     req RingOp.acq ∈ u.waitProd ∧ req RingOp.take ∉ u.waitCons ∧ (u.bufs[u.nextAcq]?).getD .free = .free) ∧
    (let u := { ring0 .full .open_ with waitCons := [req RingOp.take] }
     u.waitProd = [] ∧ req RingOp.take ∈ u.waitCons ∧ (u.bufs[u.nextTake]?).getD .free = .full) ∧
    State.reset.ringFor (req RingOp.acq) = none := by decide +kernel

/-- CopyRecords: a copy that is no CATOM, the arming of a node, and a CATOM of a core that runs no iteration. -/
theorem witness_copyRecords :
    (let s := (grouped []).modCpu fun c => { c with copies := [copy0 0 0] }
     s.cpu.activity = .running ∧ (∀ w ∈ s.kernelOf s.cur, w.fault = none) ∧ s.cpu.copies.find? (·.id = 3) = some (copy0 0 0) ∧ (copy0 0 0).fn ≠ 3 ∧
     (copy0 0 0).oldTo = none ∧ s.writesHeld s.cur 3 (s.writesLeft s.cur { copy0 0 0 with dsts := [] }) = false ∧ ∀ j : Fin 10, s.cpu.tokens[j] ≠ 15) ∧
    (let s := (grouped []).modCpu fun c => { c with copies := [copy0 5 0] }
     s.cpu.copies.find? (fun k => k.fn = 5 && k.bytes = (5 : Fin 8).val && k.status ≠ 8) = some (copy0 5 0)) ∧
    (let k := { copy0 3 0 with oldTo := some (64, 8) }
     let s := core0 fun c => { c with copies := [k] }
     s.cpu.activity ≠ .running ∧ s.cpu.copies.find? (·.id = 3) = some k ∧ s.cpu.copies = [k] ∧ k.oldTo = some (64, 8) ∧ (k.status = 0 ∨ k.status = 4) ∧
       s.writesHeld 0 3 (s.writesLeft 0 { k with dsts := [] }) = false ∧
       (s.modCpu fun c => { c with copies := [{ k with id := 2, dsts := [⟨0, 0, 8, 64⟩] }, k] }).writesHeld 0 3
         ((s.modCpu fun c => { c with copies := [{ k with id := 2, dsts := [⟨0, 0, 8, 64⟩] }, k] }).writesLeft 0 { k with dsts := [] }) = true) := by
  decide +kernel

/-- A record that a root has still to write: a value that lands, then a semaphore of rank 1. -/
def owed0 : RootRecord :=
  { row := 4096, len := 2, due := 0, fmt := 4, op := 0, result := .value [1, 2], marked := false, landed := false, status := 0, bitmap := 7, addr := 0x40, scope := .device,
    sem := some (1, 4), known := [] }

/-- A node of core 1 that expects leaves 0 to 2 of two bytes. -/
def node0 (st : NodeState) (root : Bool) (policy : Nat) (arrived : Nat) : RedNode :=
  { RedNode.idle with
    state := st, kid := 1, fmt := 4, root, policy, expect := 7, arrived := BitVec.ofNat 64 arrived, len := 2, deadline := 0, hasValue := decide (arrived ≠ 0),
    rows := [4096], descAt := 8192, owed := [owed0] }

/-- A packet of core 0 for node 2 of core 1. -/
def packet0 (bitmap : Nat) (tile : List Byte) : RedPacket :=
  { srcCore := 0, srcNode := none, copy := some 3, dstCore := 1, dstNode := 2, bitmap := BitVec.ofNat 64 bitmap, tile, marked := false, order := 0, known := [] }

/-- ReductionSteps: a packet that is taken, in each of its cases, and one for each refusal; a deadline that is now; a record owed. -/
theorem witness_reductionSteps :
    let admissible (n : RedNode) (p : RedPacket) : Bool := p.bitmap &&& ~~~n.expect = 0 ∧ p.bitmap &&& n.arrived = 0 ∧ p.tile.length = n.len
    (node0 .idle false 0 0).state = .idle ∧ (packet0 8 [3, 4]).bitmap &&& ~~~(node0 .armed false 0 0).expect ≠ 0 ∧
    ((packet0 1 [3, 4]).bitmap &&& ~~~(node0 .armed false 0 1).expect = 0 ∧ (packet0 1 [3, 4]).bitmap &&& (node0 .armed false 0 1).arrived ≠ 0) ∧
    ((packet0 2 [3]).bitmap &&& (node0 .armed false 0 1).arrived = 0 ∧ (packet0 2 [3]).tile.length ≠ (node0 .armed false 0 1).len) ∧
    (let n := node0 .armed false 0 1; admissible n (packet0 2 [3, 4]) ∧ n.arrived ||| (packet0 2 [3, 4]).bitmap ≠ n.expect ∧ n.det = false) ∧
    (let n := node0 .forwarded true 0 1; admissible n (packet0 2 [3, 4]) ∧ n.root = true ∧ n.policy ≠ 1) ∧
    (let n := node0 .armed false 0 1; admissible n (packet0 6 [3, 4]) ∧ n.arrived ||| (packet0 6 [3, 4]).bitmap = n.expect ∧ n.root = false) ∧
    (let n := node0 .armed true 1 1; n.deadline = State.reset.now 1 ∧ n.arrived ≠ n.expect ∧ n.marked = false ∧ n.policy = 1) ∧
    (State.reset.core 1).marks = [] ∧ 
    (∀ w ∈ ([owed0, { owed0 with result := .adds [1, 2] }, { owed0 with result := .stays }] : List RootRecord),
      [w].find? (fun w => w.landed = false && w.due ≤ State.reset.now 1) = some w) ∧
    (let w := { owed0 with landed := true }
     w.landed = true ∧ [w].find? (fun w => w.landed && w.due ≤ State.reset.now 1) = some w ∧ w.sem = some (1, 4)) ∧
    State.reset.now 1 < ({ owed0 with due := 5 } : RootRecord).due ∧
    (let s := (grouped []).modCore 0 fun c => { c with nodes := c.nodes.set 2 (node0 .forwarded true 1 3) }
     (s.core 0).nodes[(2 : Fin 8)].owed = [owed0] ∧ (s.core 0).activity = .running ∧
     (∀ w ∈ s.kernelOf 0, w.fault = none) ∧ (s.kernels.find? (·.kid = 1)).isSome = true) := by decide +kernel

/-- MemorySteps: a bank group before and after its deadline, and channels with and without spare lanes. -/
theorem witness_memorySteps :
    (let s := State.reset.modDie 1 fun k => { k with dclk := 102400, groups := k.groups.set 3 ⟨0, 0, 0⟩, laneMap := [(0, 1), (0, 2), (5, 1)] }
     let k := s.die 1
     (k.groups[(3 : Reg)]).lastStart + 102400 ≤ k.dclk ∧ (k.laneMap.filter (·.1 = 5)).length < 2 ∧ 2 ≤ (k.laneMap.filter (·.1 = 0)).length) ∧
    (State.reset.die 1).dclk < ((State.reset.die 1).groups[(3 : Reg)]).lastStart + 102400 := by decide +kernel

/-- A write of one byte, and one that adds to a word. -/
def write0 (acc : Bool) : PortWrite :=
  { src := 0, of_ := .index 3, known := [], ops := if acc then [.accum .hbm 64 4 0 5 false] else [.bytes .hbm [(64, 9)] false] }

/-- A packet for a port of a die. -/
def packetTo (d : DieId) (i : Port) : Packet :=
  { num := 11, inPort := i, outPort := 2, beats := 3, dstDie := d, dstPort := 2, sp := .hbm, addr := 64, bytes := 1, lane := 0, tenant := 0, msg := write0 false }

/-- A multicast that sets a semaphore. -/
def cast0 (window : Option Nat) : Multicast := { Multicast.empty 0 [0, 40] with id := 4, window, sem := some (3, 7) }

/-- The next choice that the spec leaves open is 0. -/
def chooses (s : State) : State := { s with oracle := [0] }

/-- A packet has reached a memory port of die 0, a bank of whose slice is being refreshed or not. -/
def served (busy : Bool) : State :=
  State.reset.modDie 0 fun k => { k with refreshing := if busy then [(hbmSlice 64, Config.hbmBank 64, 9)] else [],
                                         outs := k.outs.set 2 { OutPort.reset with buffer := [(0, { packetTo 0 9 with msg := write0 busy })] } }

/-- FabricSteps: a memory that is free, and one that is being refreshed. -/
theorem witness_portWait (busy : Bool) : ((served busy).portWait 0 2 { packetTo 0 9 with msg := write0 busy }).2 = if busy then 9 else 0 := by
  have h : ∀ i : Fin 64, (((served busy).die 0).pausedUntil)[i] = 0 := fun i => Vector.getElem_replicate i.isLt
  have r : ((served busy).die 0).refreshing = if busy then [(hbmSlice 64, Config.hbmBank 64, 9)] else [] := rfl
  have d : ((served busy).die 0).dclk = 0 := rfl
  have u : ((served busy).die 0).scrubUntil[(2 : Port)] = 0 := rfl
  cases busy <;> simp [State.portWait, packetTo, write0, granules, longest, h, r, d, u]

/-- FabricSteps: an output without packets, one that is busy, and free ones with packets for this die and another; a slot table that
leaves a moment to nobody who waits; writes at a memory port; multicasts at the hub and at a core, ready and not. -/
theorem witness_fabricSteps :
    ((State.reset.die 0).outs[(2 : Port)]).waiting = [] ∧
    (∀ d ∈ ([0, 3] : List DieId), let s := chooses (State.reset.modDie 0 fun k => { k with outs := k.outs.set 2 { OutPort.reset with waiting := [packetTo d 9, packetTo d 4] } })
      let x := (s.die 0).outs[(2 : Port)]
      x.waiting ≠ [] ∧ x.freeAt ≤ (s.die 0).dclk ∧ hasTable 2 = false ∧ packetModule (packetTo d 4) = none ∧
      x.pick (hasTable 2) (s.die 0).dclk s.choice (fun q => q.notBefore ≤ 0 && (s.die 0).inFree[q.inPort] ≤ 0 && s.packetReady 0 2 q) (s.holdOf 0 2) =
        some (packetTo d 4)) ∧
    (let s := State.reset.modDie 0 fun k => { k with outs := k.outs.set 2 { OutPort.reset with waiting := [packetTo 0 9], freeAt := 5 } }
     let x := (s.die 0).outs[(2 : Port)]; x.waiting ≠ [] ∧ (s.die 0).dclk < x.freeAt) ∧
    (let s := chooses (State.reset.modDie 0 fun k =>
       { k with dclk := 4, outs := k.outs.set 40 { OutPort.reset with waiting := [{ packetTo 0 9 with beats := 8 }], slots := Vector.replicate 64 0x83 } })
     let x := (s.die 0).outs[(40 : Port)]
     x.waiting ≠ [] ∧ x.freeAt ≤ (s.die 0).dclk ∧ x.pick (hasTable 40) (s.die 0).dclk s.choice (fun q => q.notBefore ≤ 4 && (s.die 0).inFree[q.inPort] ≤ 4 && s.packetReady 0 40 q) (s.holdOf 0 40) = none) ∧
    (∀ b ∈ [true, false], let s := served b
      s.nextServed (s.die 0).dclk ((s.die 0).outs[(2 : Port)]).buffer = some { packetTo 0 9 with msg := write0 b }) ∧
    ((write0 false).ops = [.bytes .hbm [(64, 9)] false] ∧ (write0 true).ops = [.accum .hbm 64 4 0 (BitVec.ofNat 64 5) false] ∧ State.reset.hbm.mem.wf = true ∧
      (write0 true).of_ = .index 3) ∧
    (let s := { State.reset with casts := [cast0 none], hub := { Hub.reset with hubQueue := [(4, [0, 1])] } }
     s.hub.hubQueue = [(4, [0, 1])] ∧ dieOf 40 ∈ ([0, 1] : List DieId) ∧ s.casts.find? (fun m => m.id = 4 && m.window.isNone) = some (cast0 none)) ∧
    (let s := { (State.reset.modDie 0 fun k => { k with dclk := 50 }) with casts := [cast0 (some 0)], time := 50 }
     s.nextCastAt 0 = some (cast0 (some 0)) ∧ s.castReady 0 (cast0 (some 0)) = true ∧ (cast0 (some 0)).copy = none ∧ (cast0 (some 0)).inval = none ∧
     (cast0 (some 0)).cells = []) ∧
    (let s := { State.reset with casts := [cast0 (some 0)] }; s.nextCastAt 0 = some (cast0 (some 0)) ∧ s.castReady 0 (cast0 (some 0)) = false) := by decide +kernel

/-- A flit with its CRC. -/
def flit0 (kind lseq dst : Nat) : Flit :=
  let f : Flit := { lseq := BitVec.ofNat 16 lseq, kind := BitVec.ofNat 16 kind, srcMod := 6, dstMod := BitVec.ofNat 8 dst, pairSeq := 2, beat := 0, last := 1, payload := [1, 2], crc := 0 }
  { f with crc := flitCrc f }

/-- A packet without an acknowledgement, and the link to module 6 over ports 3 and 0. -/
def peer0 : PeerPacket := { pairSeq := 2, port := 3, via := [], num := 11, addr := 5, bytes := 1, copy := some (0, 3), ops := [.bytes (.peer 6) [(5, 7)] false], red := none }
def link0 : PeerLink :=
  { module := 6, nextSeq := 9, unacked := [peer0], held := [], paths := [⟨3, [], false⟩, ⟨0, [], false⟩], seen := [], answers := [], pairing := [(1, 0)],
    beats := [], lost := [] }

/-- PeerPortSteps: a flit whose CRC is right, and one whose CRC is not. -/
theorem witness_flitCrc (f : Flit) : flitCrc { f with crc := flitCrc f } = flitCrc f := rfl

theorem witness_flitCrc_wrong (f : Flit) : flitCrc { f with crc := flitCrc f + 1 } ≠ flitCrc f + 1 := by
  have h : ∀ x : BitVec 32, x ≠ x + 1 := fun x => by bv_omega
  exact h (flitCrc f)

/-- PeerPortSteps: flits of each kind, for this module and another; ports with and without failed retries and acknowledgements; a link
whose port is up, down with another path, and down without. -/
theorem witness_peerPortSteps :
    (∀ k ∈ [0, 1, 2], (flit0 k 0 0).kind.toNat = k ∧ (flit0 k 0 0).lseq = State.reset.ports[(3 : Fin 16)].rxSeq) ∧
    (flit0 0 1 0).lseq ≠ State.reset.ports[(3 : Fin 16)].rxSeq ∧
    (flit0 0 0 0).dstMod.toNat = State.reset.hub.moduleNo ∧ (flit0 0 0 5).dstMod.toNat ≠ State.reset.hub.moduleNo ∧ bitOf (flit0 0 0 0).last 0 = true ∧
    (let s := { State.reset with links := [link0] }
     s.linkTo (flit0 0 0 0).srcMod.toNat = some link0 ∧ link0.seen.contains (flit0 0 0 0).pairSeq.toNat = false ∧ s.pathUp 6 peer0.port peer0.via = false ∧
     s.livePaths 6 = [] ∧ link0.unacked = [peer0] ∧ link0.unacked.find? (·.pairSeq = 2) = some peer0 ∧ link0.paths[1]? = some ⟨0, [], false⟩ ∧
     (∀ x ∈ s.inbound, x.module ≠ 6)) ∧
    (let s := { State.reset with links := [{ link0 with seen := [2] }] }; ∃ l ∈ s.linkTo 6, l.seen.contains (flit0 0 0 0).pairSeq.toNat = true) ∧
    (let s := { State.reset with links := [link0], ports := State.reset.ports.set 0 { BiryarPort.reset with status := 1 } }
     s.pathUp 6 peer0.port peer0.via = false ∧ (s.livePaths 6).head? = some ⟨0, [], false⟩ ∧ s.pathPort 6 = some 0) ∧
    (let b : BiryarPort := { BiryarPort.reset with status := 1, retries := 8, unacked := [flit0 0 0 5], lastAck := 4 }
     let s := { State.reset with links := [link0], ports := State.reset.ports.set 3 b }
     let again (lseq : BitVec 16) : Nat := (b.unacked.filter fun u => (u.lseq - lseq).toNat < 32768).length
     s.pathUp 6 peer0.port peer0.via = true ∧ again 0 = 1 ∧ again 1 = 0 ∧ b.failing = 0 ∧ 8 < b.retries + 1 ∧ b.unacked ≠ [] ∧ s.time < b.lastAck + 32000 ∧
     b.lastAck + 32000 ≤ { s with time := 40000 }.time) ∧
    (∀ limit ∈ (some 3 : Option Nat), limit ≤ (Vector.replicate 8 3)[(2 : Fin 8)]) := by decide +kernel

/-- PeerPortSteps: a paired tenant's write that is let in and one that is not, a contribution to a node of the tenant, a read of this module that
is answered, and a slot table that keeps every share and one that breaks one. -/
theorem witness_peerPackets :
    (let s := { mapped State.reset 0 with links := [link0] }
     let w (va : Nat) : PeerMsg := .write 1 va [7, 8] false
     (link0.pairing.find? (·.1 = msgTenant (w 0))).map (·.2) = some 0 ∧ s.lets 0 (w 0x10000000) = true ∧ s.lets 0 (w 0x20000000) = false ∧
     answered (s.inParts 0 (w 0x10000000)) (fun ps => ps.length = 1) = true) ∧
    (let p := { peer0 with ops := [.read (.peer 6) 5 1 false] }
     [p].find? (·.pairSeq = (flit0 0 0 0).pairSeq.toNat) = some p) ∧
    (State.reset.core (packet0 1 [3, 4]).dstCore).tenant = 0 ∧ msgTenant (.reduce 1 (packet0 1 [3, 4])) = 1 ∧
    (State.reset.modOut (portDie 3) 40 fun o => { o with slots := slotTable [1, 2] }).shareBroken = false ∧
    ({ State.reset with kernels := [{ kernel0 with record := record0 [(136, 1)] }] }.modOut (portDie 3) 40 fun o => { o with slots := slotTable [1, 2] }).shareBroken = true ∧
    (8 ≤ 65536 * 1 ∨ 65536 * 1 + 65536 ≤ 0) := by decide +kernel

/-! #### The host, the module OS and graphs -/

/-- Numbers of some bytes put into a byte string: offset, count, value. -/
def puts (bs : List Byte) (l : List (Nat × Nat × Nat)) : List Byte := l.foldl (fun b p => putBytes b p.1 p.2.1 p.2.2) bs

/-- A kernel record: two cores of die 0, five iterations in waves, built against "any". -/
def recordTwo : List Byte := puts (List.replicate 256 0) [(0, 8, 0x10000100), (96, 8, 0x413557), (132, 1, 2), (133, 1, 1), (140, 1, 1), (144, 4, 5)]

/-- A kernel of tenant 0 that waits to be placed. -/
def waiting0 : Kernel := { kernel0 with kid := 2, cores := [], started := false, record := recordTwo }

/-- All cores belong to tenant 0, whose memory is mapped, and the module is ready. -/
def owned (ks : List Kernel) : State :=
  let s := mapped State.reset 0
  { s with hub := { s.hub with phase := .ready, owners := Vector.replicate 128 (some 0) }, kernels := ks }

/-- An image of no sections, and a declaration of a pool of two slots. -/
def image0 : List Byte := puts (List.replicate 64 0) [(0, 4, 0x4D494B57), (4, 2, 1), (6, 2, 1)]
def decl0 : List Byte := puts (List.replicate 32 0) [(0, 8, 0x10000000), (8, 4, 100), (12, 4, 256), (16, 1, 3), (17, 1, 1), (18, 1, 1), (19, 1, 1)]

/-- HostSteps: block 1 with virtual function 1 and block 0 without it, a kernel of the tenant and of another, an image that is taken and one
that is not, a tenant pool that is made, and cores held and not. -/
theorem witness_hostSteps :
    (let s := (owned []).modTenant 0 fun t => { t with vf := true, gcount := 5 }
     ((1 : Fin 9).val = (0 : TenantId).val + 1 ∧ (s.tenantOf 0).vf = true) ∧ s.hub.phase = .ready ∧ s.hub.accepting = true ∧
     (4#32).toNat < (s.tenantOf 0).gcount.toNat ∧ (s.tenantOf 0).pending.length < 4096) ∧
    (State.reset.tenantOf 0).vf = false ∧ State.reset.hub.phase ≠ .ready ∧
    ((grouped []).kernels = [kernel0] ∧ kernel0.kid = (1#32).toNat ∧ kernel0.fault = none ∧ kernel0.tenant = 0 ∧ kernel0.tenant ≠ 1) ∧
    ({ State.reset with hub := { Hub.reset with phase := .updateOnly } }.hub.phase = .updateOnly) ∧ State.reset.host.mem.wf = true ∧
    bytesAt [] 0 4 ≠ 0x4D494B57 ∧ imageRefused image0 = false ∧
    ((owned []).ownerOf 5 = some 0 ∧ (owned []).privatePoolOk 0 decl0 = true ∧ bytesAt decl0 19 1 ≠ 0 ∧ ((owned []).core 5).pools[(0 : Fin 8)] = none) ∧
    (State.reset.ownerOf 5 ≠ some 0 ∧ (∀ k ∈ (grouped []).kernels, (5 : CoreId) ∉ k.cores) ∧ (33 : CoreId) ∈ kernel0.cores ∧
      (grouped []).ownerOf 33 ≠ some 0) := by decide +kernel

/-- ModuleSteps: no power with both, one and no flash copy that verifies, the module OS started, and a core of a hot die that runs. -/
theorem witness_moduleSteps :
    let img : FlashImage := { version := 1, verifies := true, digest := 5 }
    let good (s : State) (j : Fin 2) : Bool := (s.hub.flash[j]).any fun i => i.verifies && s.hub.minVersion ≤ i.version
    let flash (a b : Option FlashImage) : State := { State.reset with hub := { Hub.reset with flash := (Hub.reset.flash.set 0 a).set 1 b } }
    State.reset.hub.phase = .off ∧ good (flash (some img) none) 0 = true ∧ good (flash (some img) none) 1 = false ∧
    good (flash none (some img)) 0 = false ∧ good (flash none (some img)) 1 = true ∧ good State.reset 0 = false ∧ good State.reset 1 = false ∧
    ((grouped []).cpu.activity = .running ∧ (grouped []).cpu.freeze = none ∧ kernel0.started = true ∧ kernel0.saved = none) ∧
    (owned []).hub.phase = .ready ∧ ¬ (owned []).hub.powerLimit < 2000 ∧ (owned []).hub.powerLimit < 4000 := by decide +kernel

/-- Tenant 0's graph holds a node, and its memory at 0x10000400 a word. -/
def graph0 (node : List Byte) (w : Nat) : State :=
  ((owned []).writeVa 0 0x10000000 node).writeVa 0 0x10000400 (natBytes 8 w)

/-- The activation of the node. -/
def first : Activation := { act0 with node := 0, order := 3 }

/-- A node with its type, its successors and other fields. -/
def node (ty next alt err : Nat) (l : List (Nat × Nat × Nat)) : List Byte :=
  puts (List.replicate 64 0) ([(0, 1, ty), (4, 4, next), (8, 4, alt), (12, 4, err)] ++ l)

/-- A stream record of FP32: one dimension of 16 elements, one row of 64 bytes, at 0x10002000. -/
def transfer0 : List Byte := puts (List.replicate 64 0) [(0, 6, 0x10002000), (8, 1, 8), (9, 1, 1), (10, 1, 1), (12, 1, 64), (16, 1, 16), (32, 1, 1)]

/-- What the node at the start of the graph reads as. -/
def reads (n : List Byte) (w : Nat) (p : State → Bool) : Bool :=
  answered ((graph0 n w).nodeBytes 0 first.gbase first.node) fun bs => decide (bs = n) && p (graph0 n w)

/-- A COND node on the word at 0x10000400. -/
def cond0 : List Byte := node 3 5 0xFFFFFFFF 0xFFFFFFFF [(16, 8, 0x10000400), (24, 8, 2)]

/-- GraphNodes: a COND node on words below and at its number, and one that cannot be read. -/
theorem witness_graphNodes_cond :
    condMalformed cond0 = false ∧ (∀ w ∈ [0, 2], reads cond0 w fun s => decide (s.graphWord 0 (bytesAt cond0 16 8) = some (BitVec.ofNat 64 w))) ∧
    (let n := node 3 5 6 7 [(16, 8, 0x20000000)]; condMalformed n = false ∧ reads n 0 fun s => decide (s.graphWord 0 (bytesAt n 16 8) = none)) := by
  decide +kernel

/-- GraphNodes: a LOOP node that goes round and one that is done. -/
theorem witness_graphNodes_loop :
    let n := node 4 5 6 7 [(16, 8, 0x10000400)]
    loopMalformed n = false ∧ ∀ w ∈ [0, 1], reads n w fun s => decide (s.graphWord 0 (bytesAt n 16 8) = some (BitVec.ofNat 64 w)) &&
      (s.placeOf 0 (bytesAt n 16 8) .write).isSome := by decide +kernel

/-- GraphNodes: a JOIN node of one and of two arrivals. -/
theorem witness_graphNodes_join :
    (∀ c ∈ [1, 2], joinMalformed (node 5 5 0xFFFFFFFF 7 [(16, 4, c)]) = false ∧ reads (node 5 5 0xFFFFFFFF 7 [(16, 4, c)]) 0 fun _ => true) ∧
    (let n := node 5 5 0xFFFFFFFF 7 [(16, 4, 1)]
     let s := (graph0 n 0).writeVa 0 (first.gbase + 20) (natBytes 4 0)
     answered (s.nodeBytes 0 first.gbase first.node) (fun b => decide (b.take 16 = n.take 16))) = true := by decide +kernel

/-- GraphNodes: SIGNAL nodes that store, that interrupt and that do both, with a vector that is enabled and one that is not, and one whose word
no page maps. -/
theorem witness_graphNodes_signal :
    (∀ f ∈ [1, 2, 3],
      let n := node 6 5 0xFFFFFFFF 7 [(16, 8, 0x10000400), (24, 8, 77), (32, 1, f), (33, 2, 3)]
      signalMalformed n = false ∧ bytesAt n 8 4 = 0xFFFFFFFF ∧ reads n 0 fun s => (s.signalPlace 0 (bytesAt n 16 8)).isSome) ∧
    ((owned []).hub.vectors[(owned []).functionOf 0] = [] ∧
      3 ∈ (({ Hub.reset with vectors := Vector.replicate 9 [3] } : Hub).vectors)[(owned []).functionOf 0]) ∧
    (let n := node 6 5 0xFFFFFFFF 7 [(16, 8, 0x20000000), (32, 1, 3)]
     signalMalformed n = false ∧ reads n 0 fun s => (s.signalPlace 0 (bytesAt n 16 8)).isNone) := by decide +kernel

/-- GraphNodes: an END node, and a malformed one of a tenant with a completion log. -/
theorem witness_graphNodes_end :
    let s := (graph0 (node 7 5 0xFFFFFFFF 0xFFFFFFFF []) 0).modTenant 0 fun t => { t with loglen := 3, logbase := 0x10000800 }
    endMalformed (node 7 0xFFFFFFFF 0xFFFFFFFF 0xFFFFFFFF []) = false ∧ endMalformed (node 7 5 0xFFFFFFFF 0xFFFFFFFF []) = true ∧
    answered (s.nodeBytes 0 first.gbase first.node) (fun bs =>
      decide (bytesAt bs 12 4 = 0xFFFFFFFF) && decide (((s.takeActivation first).logEntry 0 (.plain 0 4 1)).nodeBytes 0 first.gbase 0 = some bs)) = true := by
  decide +kernel

/-- GraphNodes: a KERN node of a record that is taken, and of one whose contract the part refuses. -/
theorem witness_graphNodes_kern :
    let n := node 1 5 0xFFFFFFFF 7 [(16, 8, 0x10001000)]
    kernMalformed n = false ∧ first.staged = none ∧
    (let s := (graph0 n 0).writeVa 0 0x10001000 recordTwo
     answered (s.nodeBytes 0 first.gbase first.node) (fun bs => decide (bs = n)) = true ∧
     s.readVa 0 (bytesAt n 16 8) 256 = some (recordTwo, false) ∧ s.refusal 0 recordTwo none = none) ∧
    (owned []).refusal 0 (puts recordTwo [(96, 1, 3)]) none ≠ none := by decide +kernel

/-- GraphNodes: a COPY node that begins, and a malformed one. -/
theorem witness_graphNodes_copy :
    let n := node 2 5 0xFFFFFFFF 7 [(16, 8, 0x10000C00), (24, 8, 0x10000C00), (32, 4, 2), (37, 1, 1)]
    let s := ((owned []).writeVa 0 0x10000000 n).writeVa 0 0x10000C00 transfer0
    copyMalformed n = false ∧ copyMalformed (node 2 5 0xFFFFFFFF 7 []) = true ∧ s.copyNodes = [] ∧ bytesAt n 36 1 = 0 ∧
    (s.recordAt 0 (bytesAt n 16 8)).any (fun r => (({ s with event := .copyNode first }.takeActivation first).hubCommand 0 ⟨scopeOfCode (bytesAt n 37 1 % 8), first.known⟩ (copyCmd n) (bytesAt n 40 4) r r).2 = 0) =
      true ∧
    answered (s.nodeBytes 0 first.gbase first.node) (fun bs => decide (bs = n)) = true := by
  decide +kernel

/-- KernelSteps: a kernel that waits and finds cores, one that finds none with and without one that may make room; a kernel that runs, with
a core that has no iteration; one that has ended; one asked to leave a millisecond ago, with every core stopped; and one that is saved. -/
theorem witness_kernelSteps :
    (let s := owned [waiting0]
     s.kernel 2 = some waiting0 ∧ waiting0.waits = true ∧ s.firstWaiting waiting0 = true ∧
     placementOf waiting0.record (s.freeCore 0 none) = some [0, 1] ∧ (∀ d ∈ diesOf [0, 1], s.wstoreOn 0 d = false) ∧ s.startBarred waiting0 [0, 1] = false ∧
       { s with hub := { s.hub with closing := true } }.startBarred waiting0 [0, 1] = true) ∧
    (let w := { kernel0 with cores := (List.range 32).map (Fin.ofNat 128 ·), record := recordTwo }
     let v := { waiting0 with record := puts recordTwo [(135, 1, 2)] }
     let s := owned [v, w]
     placementOf v.record (s.freeCore 0 none) = none ∧ (s.preemptable v).map (·.kid) = some 1 ∧
     (owned [v, { w with record := puts recordTwo [(135, 1, 3)] }]).preemptable v = none) ∧
    (let k := { kernel0 with record := recordTwo }
     let s := owned [k]
     k.started = true ∧ k.saved = none ∧ k.preempt = none ∧ k.nextIter < k.total ∧ s.nextCore k = some 0 ∧ s.kernelOver k = false ∧ k.lastStart ≤ s.now 0 ∧
     ((s.modCore 0 fun c => { c with haltedAt := some 0 }).gangFirst k 0 = false ∧ s.now 0 < ({ k with lastStart := 5 } : Kernel).lastStart)) ∧
    (let k := { kernel0 with record := recordTwo, nextIter := 1, done := 1 }
     (owned [k]).kernelOver k = true ∧ k.total ≤ k.nextIter) ∧
    (let k := { kernel0 with record := recordTwo, preempt := some 0 }
     let s := { owned [k] with time := 1600000 }
     k.done ≠ k.total ∧ s.allStopped k = true ∧ 0 + 1600000 ≤ s.time ∧
     ({ s with kernels := [k] }.modCore 0 fun c => { c with kernid := 1, activity := .running }).allStopped k = false) ∧
    (let s := owned [kernel0]
     let k := { kernel0 with record := recordTwo, cores := [], saved := some [s.saveCore kernel0 0 0 [] 0] }
     (let places := placementsLike k.record ((owned [k]).freeCore 0 none)
      places[(chooses (owned [k])).choice % places.length]? = some [0, 1]) ∧ ([0, 1] : List CoreId).Nodup ∧ k.fault = none ∧
     ∀ w ∈ (owned [k]).kernels, w.waits = false) := by decide +kernel

/-! #### More witnesses -/

/-- MemorySteps: bank groups that are busy, free without and free with a refresh that waits; packets that are given up: of a store, of a
copy, of a load, of a node and of a contribution. -/
theorem witness_memoryPackets :
    (let s := State.reset.modDie 1 fun k => { k with dclk := 4, groups := ((k.groups.set 3 ⟨0, 9, 1⟩).set 4 ⟨0, 3, 0⟩).set 5 ⟨0, 4, 2⟩ }
     let k := s.die 1
     k.dclk < (k.groups[(3 : Reg)]).busyUntil ∧ (k.groups[(4 : Reg)]).busyUntil ≤ k.dclk ∧ (k.groups[(4 : Reg)]).waiting = 0 ∧
     (k.groups[(5 : Reg)]).busyUntil ≤ k.dclk ∧ 0 < (k.groups[(5 : Reg)]).waiting) ∧
    ((packetTo 0 9).msg.src = 0 ∧ (packetTo 0 9).msg.ops = [.bytes .hbm [(64, 9)] false] ∧ (packetTo 0 9).msg.of_ = .index 3) ∧
    (let m := { write0 false with of_ := .copy 3 }; m.src = 0 ∧ m.ops = [.bytes .hbm [(64, 9)] false] ∧ m.of_ = .copy 3) ∧
    (let m := { write0 false with of_ := .scalar 4, ops := [.read .hbm 64 8 false] }; m.src = 0 ∧ m.ops = [.read .hbm 64 8 false] ∧ m.of_ = .scalar 4) ∧
    ({ packet0 1 [] with copy := none } : RedPacket).copy = none ∧
    (let s := (grouped []).modCpu fun c => { c with copies := [copy0 6 0] }
     (packet0 1 []).copy = some 3 ∧ (s.core (packet0 1 []).srcCore).copies.find? (·.id = 3) = some (copy0 6 0) ∧
     (s.core (packet0 1 []).srcCore).activity = .running) := by decide +kernel

/-- HostSteps: pages that are open to the host and pages that are not, and an offset that is no register. -/
theorem witness_hostWindow :
    (let s := (owned []).modTenant 0 fun t => { t with visible := [0x1000] }
     s.hostVisible 0 0x10000400 8 = true ∧ (s.readVa 0 0x10000400 8).isSome = true ∧ s.hostVisible 0 0x10010000 8 = false) ∧
    (owned []).hostVisible 0 0x10000400 8 = false ∧ (0x10 ∉ [0, 8, 0x18, 0x20, 0x28, 0x30]) ∧ (owned []).hub.phase ≠ .updateOnly ∧
    ((owned []).tenantOf 0).vf = false := by decide +kernel

/-- PeerPortSteps: packets to other and to the same bytes as an earlier one, and the copy that one belongs to. -/
theorem witness_peerOrder :
    peerBehind [peer0] peer0 = false ∧ peerBehind [{ peer0 with pairSeq := 1 }, peer0] peer0 = true ∧ link0.held = [] ∧
    [{ peer0 with pairSeq := 1 }, peer0].find? (·.pairSeq = 2) = some peer0 ∧ peer0.copy = some (0, 3) ∧
    (core0 fun c => { c with copies := [copy0 0 0] }).cpu.copies.find? (·.id = 3) = some (copy0 0 0) ∧ (copy0 0 0).srcs = [] ∧ (copy0 0 0).dsts = [] ∧
    peer0.ops.head? = some (.bytes (.peer 6) [(5, 7)] false) ∧ State.reset.hbm.mem.wf = true := by decide +kernel

/-- A kernel's fault. -/
def fault0 : KernelFault := { code := 1, rank := 0, badaddr := 0, xpc := 0, host := false, marked := 5 }

/-- An operation of core 0 on its way to a home. -/
def underWay (s : State) : State := { s with agenda := [⟨9, .semRemoteService 0 4 5 (.add 3) 0 none⟩] }

/-- KernelSteps: a staged kernel whose launcher has gone; kernels that are faulted, have ended and are to leave, with and without an operation
on its way, and with a node that is armed; and cores that a saved kernel may take. -/
theorem witness_kernelEnds :
    (let k := { waiting0 with cores := [0, 1], staged := some 77, stagedReady := true }
     let s := owned [k]
     s.kernel 2 = some k ∧ k.started = false ∧ k.fault = none ∧ s.kernel 77 = none ∧ s.startBarred k k.cores = false) ∧
    (let k := { kernel0 with fault := some fault0 }
     k.fault ≠ none ∧ k.broken = false ∧ (underWay (owned [k])).signalsOut k fault0.marked = true ∧ (owned [k]).signalsOut k fault0.marked = false) ∧
    (let k := { kernel0 with record := recordTwo, nextIter := 1, done := 1 }
     k.fault = none ∧ k.done = k.total ∧ (owned [k]).kernelOver k = true ∧ (owned [k]).unserviced k = false ∧ (underWay (owned [k])).kernelOver k = true ∧
     (underWay (owned [k])).unserviced k = true) ∧
    (let k := { kernel0 with record := recordTwo, preempt := some 0 }
     let s := owned [k]
     s.allStopped k = true ∧ s.unserviced k = false ∧ s.nodesBusy k = false ∧
     (s.modCore 33 fun c => { c with nodes := c.nodes.set 1 (node0 .armed true 0 0) }).nodesBusy k = true) ∧
    (owned [kernel0]).resumeBarred kernel0 [(owned [kernel0]).saveCore kernel0 0 0 [] 0] [0] = false := by decide +kernel

/-- A COPY node's command of two. -/
def copying (r : StreamBinding) : HubCopy := { act := first, id := 3, left := 2, src := r, dst := r, dies := [] }

/-- GraphNodes: a COPY node whose records are both there, and one with two commands still to do. -/
theorem witness_graphNodes_copying :
    let n := node 2 5 0xFFFFFFFF 7 [(16, 8, 0x10000C00), (24, 8, 0x10000C00), (32, 4, 2), (37, 1, 1)]
    let s := ((owned []).writeVa 0 0x10000000 n).writeVa 0 0x10000C00 transfer0
    bytesAt n 36 1 = 0 ∧ first.order = 3 ∧ answered (s.recordAt 0 (bytesAt n 24 8)) (fun r => decide (1 < (copying r).left)) = true ∧
    (s.recordAt 0 (bytesAt n 16 8)).any (fun r =>
      (({ s with event := .copyNode first, copyNodes := [copying r] }.takeActivation first).hubCommand 0 ⟨scopeOfCode (bytesAt n 37 1 % 8), first.known⟩ (copyCmd n) (bytesAt n 40 4) r r).2 = 0) = true := by
  decide +kernel

/-- GraphNodes: it is found by its number. -/
theorem witness_graphNodes_found (r : StreamBinding) : [copying r].find? (·.id = first.order) = some (copying r) := rfl

/-! #### The whole machine -/

/-- EncodingRoundTrip: instructions of one, two, three and six parcels, and parcels that decode. -/
theorem witness_encodingRoundTrip :
    (∀ i ∈ ([.add true 31 30 29, .li 6 0x80000000, .vadd vw0, .tld tw0, .mma mw0] : List Instr), encode i ≠ [] ∧ WellFormed i = true) ∧
    (∀ p ∈ [0], p < 2 ^ 32) ∧ decode [0] = .ok (.add false 0 0 0) := ⟨by decide +kernel, by decide, rfl⟩

/-- The state in which the words of ADDI X5, X4, −1 stand where the next instruction is fetched. -/
def addiNext : State := State.reset.withFetchWord 32 (0x01 * 2 ^ 2 + 5 * 2 ^ 8 + 4 * 2 ^ 13 + 0x3FFF * 2 ^ 18)

/-- The same in a handler that runs in the tenant's context. -/
def userNext : State := addiNext.modCpu fun c => { c with tstatus := 3 }

/-- Every premise under which a step takes up what stands at the address of the instruction that is due. -/
def takesUp (s : State) (i : Instr) (p : Nat) : Bool :=
  let c := s.cpu
  let pc := c.chain.c0.toNat
  (s.agenda.all fun a => s.time < a.due) && s.nextActivation.isNone && !s.curDone && decide (c.activity = .running) && c.freeze.isNone &&
  (if c.trapMode then !c.rttWait && c.nextTrap.isNone
    else c.sOpen && (nextDue c.sclk c.landings).isNone && s.nextDispatch.isNone && !s.cpWait && c.draining.isNone && !c.issued && !s.atStop) &&
  s.present s.cur pc && decide (s.fetchParcel s.cur pc = some p) && decide (s.fetchParcels s.cur (parcelCount p) pc = some [p]) &&
  (match decode [p] with | .ok j => decide (j = i) | .error _ => false)

/-- Every premise under which a step runs it. -/
def runsNext (s : State) (i : Instr) (p : Nat) : Bool :=
  takesUp s i p && !s.cpu.chain.annul0 &&
  (match s.issueWait i with | .go => true | _ => false) && (s.issueMiss i 1).isNone

/-- StepRunsDecoded: outside and inside trap mode; and what an instruction leaves behind that goes on, and that ends the iteration. -/
theorem witness_stepRunsDecoded :
    runsNext addiNext (.addi 5 4 (-1)) (0x01 * 2 ^ 2 + 5 * 2 ^ 8 + 4 * 2 ^ 13 + 0x3FFF * 2 ^ 18) = true ∧ addiNext.cpu.trapMode = false ∧
    runsNext userNext (.addi 5 4 (-1)) (0x01 * 2 ^ 2 + 5 * 2 ^ 8 + 4 * 2 ^ 13 + 0x3FFF * 2 ^ 18) = true ∧ userNext.cpu.trapMode = true ∧
    (let t := addiNext.modCpu fun c => { c with issued := true }
     t.cur = addiNext.cur ∧ t.cpu.activity = .running ∧ t.cpu.issued = true ∧ t.cpu.draining = none) ∧
    State.reset.cpu.activity ≠ .running := by decide +kernel

/-- A core in the body of level 1, four bytes from 0x1000 to 0x1010, with a view that it rotates. -/
def looping (count : Nat) : Core :=
  let c := State.reset.cpu
  { c with lc := c.lc.set 1 (BitVec.ofNat 64 count), lb := c.lb.set 1 0x1000, le := c.le.set 1 (0x1010 + 2 ^ 48), order := [1], fc := c.fc.set 1 5,
           vw := c.vw.set 3 (BitVec.ofNat 128 (4 * 2 ^ 77 + 2 ^ 89 + 2 ^ 101)) }

/-- Sequencing: the end of an open body in an earlier and the last iteration, with and without a trap pending there, and an instruction beyond
the body. -/
theorem witness_sequencing_loops :
    (∀ n ∈ [5, 1],
      let c := looping n
      c.trapMode = false ∧ 1 ∈ c.order ∧ c.lc[(1 : Fin 4)].toNat = n ∧ c.levelEnd 1 = 0x1010 ∧ c.levelEnd 1 = 0x100C + 4 * 2 - 4 ∧
      1 < c.fc[(1 : Fin 4)] ∧ ∀ j : Fin 4, j ≠ 1 → c.lc[j] = 0) ∧
    (let c := looping 5
     bitOf c.le[(1 : Fin 4)] 48 = true ∧ 0 < bitsOf c.vw[(3 : Reg)] 77 12 ∧ bitsOf c.vw[(3 : Reg)] 101 2 = 1 ∧ bitsOf c.vw[(4 : Reg)] 77 12 = 0 ∧
     ¬ (c.levelBegin 1 ≤ 0x2000 ∧ 0x2000 ≤ c.levelEnd 1)) ∧
    (∃ t ∈ ({ looping 5 with traps := [pend0 .poison] } : Core).traps, t.handler = false) := by decide +kernel

/-- Sequencing: what an instruction that passes leaves behind. -/
theorem witness_sequencing_follows (s : State) (i : Instr) (c : Core) : c.Follows i (s.sequenced i c) := rfl

/-- The words of HALT stand where the next instruction is fetched, in a slot. -/
def haltNext : State :=
  (State.reset.withFetchWord 32 ((encode .halt).headD 0)).modCpu fun c => { c with chain := { c.chain with annul0 := true, prior1 := true } }

/-- Sequencing: an annulled instruction, and one that may not stand in a slot. -/
theorem witness_sequencing_annulled :
    (let s := addiNext.modCpu fun c => { c with chain := { c.chain with annul0 := true } }
     takesUp s (.addi 5 4 (-1)) (0x01 * 2 ^ 2 + 5 * 2 ^ 8 + 4 * 2 ^ 13 + 0x3FFF * 2 ^ 18) = true ∧ s.cpu.chain.annul0 = true ∧
     s.cpu.chain.guess1 = false ∧ s.cpu.trapMode = false ∧ s.fetch s.cur s.cpu.chain.c0 = .instr (.addi 5 4 (-1)) 1 ∧ slotForbidden (.addi 5 4 (-1)) = false) ∧
    (takesUp haltNext .halt ((encode .halt).headD 0) = true ∧ haltNext.cpu.chain.annul0 = true ∧ haltNext.cpu.chain.guess1 = false ∧
     slotForbidden .halt = true ∧ haltNext.cpu.inSlot = true) := by decide +kernel

/-- Whether an answer is a next state. -/
def goesOn (o : Host.Outcome State Fault Refusal) : Bool := match o with | .next _ => true | _ => false

/-- TimeStaysInOrder: the reset state is on time, and it has a next state. -/
theorem witness_onTime : State.reset.OnTime := ⟨List.Pairwise.nil, fun _ h => absurd h List.not_mem_nil, by decide +kernel⟩
theorem witness_steps : goesOn (step State.reset) = true := by decide +kernel

/-! ### What a few instructions do

The expected values are calculated by hand from the rules that the comments name. -/

/-- The state that an answer goes on with; the reset state where it does not. -/
def after (o : Host.Outcome State Fault Refusal) : State := match o with | .next t => t | _ => State.reset

/-- What is on its way after an instruction: the due S-cycle and the effects of the last landing. -/
def lastLanding (s : State) : Option (Nat × List Eff) := s.cpu.landings.getLast?.map fun l => (l.due, l.effs)

/-- R87: the sum of 64 bits wraps, and a W result is sign-extended from bit 31. -/
theorem test_add_wraps : lastLanding (after (exec (.add false 3 1 2) (regs [(1, BitVec.allOnes 64), (2, 2)]))) = some (1, [.x 3 1]) := by decide +kernel
theorem test_addw_extends :
    lastLanding (after (exec (.add true 3 1 2) (regs [(1, 0x7FFFFFFF), (2, 1)]))) = some (1, [.x 3 0xFFFFFFFF80000000]) := by decide +kernel

/-- R88: a zero divisor gives all ones, and the remainder is then the dividend; the result is 24 S-cycles away. -/
theorem test_div_zero : lastLanding (after (exec (.div false 3 1 2) (regs [(1, 7)]))) = some (24, [.x 3 (BitVec.allOnes 64)]) := by decide +kernel
theorem test_rem_zero : lastLanding (after (exec (.rem false 3 1 2) (regs [(1, 7)]))) = some (24, [.x 3 7]) := by decide +kernel

/-- R87: SRA keeps the sign and takes its amount modulo 64; R89: ANDI sign-extends its immediate. -/
theorem test_sra_amount :
    lastLanding (after (exec (.sra false 3 1 2) (regs [(1, 0x8000000000000000), (2, 65)]))) = some (1, [.x 3 0xC000000000000000]) := by decide +kernel
theorem test_andi_extends : lastLanding (after (exec (.andi 3 1 0x3FFF) (regs [(1, BitVec.allOnes 64)]))) = some (1, [.x 3 (BitVec.allOnes 64)]) := by
  decide +kernel

/-- R93: a halfword at an odd address is misaligned, with the address. -/
theorem test_ldh_misaligned :
    (let c := (after (exec (.ldh 3 1 0) (regs [(1, 0x1001)]))).cpu; (bitsOf c.cause 0 8, c.badaddr)) = (Cause.misaligned.code, 0x1001) := by decide +kernel

/-- R91: a byte is sign-extended, and a half takes its bytes in little-endian order. -/
theorem test_ldb_extends :
    lastLanding (after (exec (.ldb 3 1 0) ((regs [(1, 64)]).modCpu fun c => { c with plate := [(64, 0x80)] }))) = some (4, [.x 3 0xFFFFFFFFFFFFFF80, .touch (.plate 0) 64 1]) := by
  decide +kernel
theorem test_ldhu_order :
    lastLanding (after (exec (.ldhu 3 1 0) ((regs [(1, 64)]).modCpu fun c => { c with plate := [(64, 0x34), (65, 0x12)] }))) = some (4, [.x 3 0x1234, .touch (.plate 0) 64 2]) := by
  decide +kernel

/-- R105: a branch that is taken goes to its own address and four times its displacement, after the two slots. -/
theorem test_beq_target :
    (let c := (after (exec (.beq 1 2 .none (-2)) (core0 fun c => { c with chain := ⟨0x10000010, 0x10000014, 0x10000018, false, false, false, false, false, false⟩ }))).cpu
     (c.chain.c0, c.chain.c1, c.chain.c2)) = (0x10000014, 0x10000018, 0x10000008) := by decide +kernel

/-- A step runs the instruction that stands at the program counter: ADDI's result is due in the S-cycle after its issue. -/
theorem test_step_addi : lastLanding (after (step addiNext)) = some (addiNext.cpu.sclk + 1, [.x 5 (BitVec.allOnes 64)]) := by decide +kernel

/-- R62, R154, R161: 1.0 as an E8M0 element is 127, 2^127 is 254, 2.75 is 128, 3.25 is 129, NaN is 0xFF. -/
theorem test_scalar_e8m0 :
    (scalarElem .e8m0 0x3F800000).bits = 127 ∧ (scalarElem .e8m0 0x7F000000).bits = 254 ∧ (scalarElem .e8m0 0x40300000).bits = 128 ∧
      (scalarElem .e8m0 0x40500000).bits = 129 ∧ (scalarElem .e8m0 0x7FC00001).bits = 255 := by decide +kernel

end Tests
end

section
/-! Time stays in order. No operation of the model but the passing of a die cycle touches `time` or a DCLK, and the agenda is changed
only by scheduling, by taking items off, and by changing what an item brings: so each operation keeps the order of time (R3, R38).
One lemma per operation, in the order of the model's files, each from those of the operations it is made of. -/

namespace Sys2Proof.Machine

/-! ### Updates of the state's fields -/

/-- Every die changed in anything but its DCLK. -/
theorem State.OnTime.withDies {s : State} (h : s.OnTime) {f : Die → Die} (k : ∀ d, (f d).dclk = d.dclk) :
    { s with dies := s.dies.map f }.OnTime :=
  h.congr rfl rfl fun x => by simp [State.die, k]

/-- What the items of the agenda bring may change, and not when they are due. -/
theorem State.OnTime.withItems {s : State} (h : s.OnTime) {f : AgendaItem → AgendaItem} (k : ∀ a, (f a).due = a.due) :
    { s with agenda := s.agenda.map f }.OnTime := by
  obtain ⟨h1, h2, h3⟩ := h
  refine ⟨List.pairwise_map.2 (h1.imp fun h => by rwa [k, k]), fun a ha => ?_, h3⟩
  obtain ⟨b, hb, rfl⟩ := List.mem_map.1 ha
  rw [k]
  exact h2 b hb

theorem State.OnTime.withHub {s : State} (h : s.OnTime) (x : Hub) : { s with hub := x }.OnTime := h
theorem State.OnTime.withCasts {s : State} (h : s.OnTime) (x : List Multicast) : { s with casts := x }.OnTime := h
theorem State.OnTime.withNextCast {s : State} (h : s.OnTime) (x : Nat) : { s with nextCast := x }.OnTime := h
theorem State.OnTime.withNextPacket {s : State} (h : s.OnTime) (x : Nat) : { s with nextPacket := x }.OnTime := h
theorem State.OnTime.withNextOrder {s : State} (h : s.OnTime) (x : Nat) : { s with nextOrder := x }.OnTime := h
theorem State.OnTime.withNextRid {s : State} (h : s.OnTime) (x : Nat) : { s with nextRid := x }.OnTime := h
theorem State.OnTime.withNextKid {s : State} (h : s.OnTime) (x : Nat) : { s with nextKid := x }.OnTime := h
theorem State.OnTime.withKernels {s : State} (h : s.OnTime) (x : List Kernel) : { s with kernels := x }.OnTime := h
theorem State.OnTime.withCopyNodes {s : State} (h : s.OnTime) (x : List HubCopy) : { s with copyNodes := x }.OnTime := h
theorem State.OnTime.withSynced {s : State} (h : s.OnTime) (x : List Published) : { s with synced := x }.OnTime := h
theorem State.OnTime.withLinks {s : State} (h : s.OnTime) (x : List PeerLink) : { s with links := x }.OnTime := h
theorem State.OnTime.withInbound {s : State} (h : s.OnTime) (x : List Inbound) : { s with inbound := x }.OnTime := h
theorem State.OnTime.withPorts {s : State} (h : s.OnTime) (x : Vector BiryarPort 16) : { s with ports := x }.OnTime := h
theorem State.OnTime.withHbm {s : State} (h : s.OnTime) (x : Store) : { s with hbm := x }.OnTime := h
theorem State.OnTime.withCores {s : State} (h : s.OnTime) (x : Vector Core 128) : { s with cores := x }.OnTime := h
theorem State.OnTime.withCur {s : State} (h : s.OnTime) (x : CoreId) : { s with cur := x }.OnTime := h
theorem State.OnTime.withCurDone {s : State} (h : s.OnTime) (x : Bool) : { s with curDone := x }.OnTime := h

/-! ### Choices, pairs and outcomes -/

theorem State.OnTime.ite {p : Prop} [Decidable p] {s t : State} (h : s.OnTime) (k : t.OnTime) : (if p then s else t).OnTime := by
  split <;> assumption

theorem State.OnTime.iteFst {p : Prop} [Decidable p] {α : Type} {x y : State × α} (h : x.1.OnTime) (k : y.1.OnTime) :
    (if p then x else y).1.OnTime := by
  split <;> assumption

/-- An operation that goes through a list and gives back a changed one: what it keeps at each entry it keeps. -/
theorem State.OnTime.mapWith {α : Type} {f : State → α → State × α} (k : ∀ s a, s.OnTime → (f s a).1.OnTime) (l : List α)
    {s : State} (h : s.OnTime) : (mapWith f s l).1.OnTime := by
  induction l generalizing s with
  | nil => exact h
  | cons a l ih => exact ih (k s a h)

/-- What an outcome goes on with, if it goes on, is on time. -/
def OutOnTime : Out → Prop
  | .next t => t.OnTime
  | .fault _ => True
  | .refused _ => True

theorem OutOnTime.ite {p : Prop} [Decidable p] {a b : Out} (h : OutOnTime a) (k : OutOnTime b) : OutOnTime (if p then a else b) := by
  split <;> assumption

/-! ### Machine/Ops.lean -/

theorem State.OnTime.resultX {s : State} (h : s.OnTime) (lat d v) : (s.resultX lat d v).OnTime := .ite (h.setCpu _) (h.setCpu _)

theorem State.OnTime.resultXs {s : State} (h : s.OnTime) (lat rs) : (s.resultXs lat rs).OnTime := .ite (h.setCpu _) (h.setCpu _)

theorem State.OnTime.writeSpace {s : State} (h : s.OnTime) (sp cells marked) : (s.writeSpace sp cells marked).OnTime := by
  cases sp with
  | plate c => exact h.modCore ..
  | hbm | tier2 | wstore | peer | host => exact h

theorem State.OnTime.setFlags {s : State} (h : s.OnTime) (sp lo n c rels) : (s.setFlags sp lo n c rels).OnTime := by
  refine .ite h ?_
  cases sp with
  | plate g => exact h.modCore ..
  | hbm | tier2 | wstore | peer | host => exact h

theorem State.OnTime.flagCells {s : State} (h : s.OnTime) (sp cells c rels) : (s.flagCells sp cells c rels).OnTime :=
  .ite h (h.fold (fun _ _ h => h.setFlags ..) _)

theorem State.OnTime.touchRead {s : State} (h : s.OnTime) (sp a n) : (s.touchRead sp a n).OnTime := by
  cases sp with
  | plate c => exact h.modCore ..
  | hbm | tier2 | wstore | peer | host => exact h

theorem State.OnTime.seq {s : State} (h : s.OnTime) (x) : (s.seq x).2.OnTime := h.setCpu _

theorem State.OnTime.refetch {s : State} (h : s.OnTime) : s.refetch.OnTime := by
  unfold State.refetch
  extract_lets g r t
  have ht : t.OnTime := ((h.modCpu _).seq _).modCpu _
  exact .ite ht ((ht.seq _).modCpu _)

theorem State.OnTime.beginIssue {s : State} (h : s.OnTime) (i) : (s.beginIssue i).OnTime := h.modCpu _

theorem State.OnTime.endIssue {s : State} (h : s.OnTime) (i) : (s.endIssue i).OnTime := (h.seq _).modCpu _

theorem State.OnTime.annulStep {s : State} (h : s.OnTime) : s.annulStep.OnTime := (h.seq _).modCpu _

theorem State.OnTime.raceAt {s : State} (h : s.OnTime) (c rel known line) : (s.raceAt c rel known line).OnTime :=
  .ite ((h.modDie _ rfl).modCore ..) (h.modDie _ rfl)

theorem State.OnTime.storeCells {s : State} (h : s.OnTime) (c copy known rels sp cells marked) :
    (s.storeCells c copy known rels sp cells marked).OnTime := by
  unfold State.storeCells
  extract_lets cells t
  have ht : t.OnTime := (h.writeSpace ..).flagCells ..
  exact .ite (ht.fold (fun _ _ h => h.raceAt ..) _) ht

theorem State.OnTime.performAccess {s : State} (h : s.OnTime) (c g) : (s.performAccess c g).1.OnTime :=
  .iteFst h (.iteFst h (h.storeCells ..))

theorem State.OnTime.performList {s : State} (h : s.OnTime) (c p gs) : (s.performList c p gs).1.OnTime := by
  induction gs generalizing s with
  | nil => exact h
  | cons g gs ih => exact ih (.iteFst (h.performAccess ..) h)

theorem State.OnTime.performWhere {s : State} (h : s.OnTime) (c p) : (s.performWhere c p).OnTime := (h.performList ..).modCore ..

theorem State.OnTime.enterTrap {s : State} (h : s.OnTime) (c t) : (s.enterTrap c t).OnTime := h.modCore ..

theorem State.OnTime.traceRecord {s : State} (h : s.OnTime) (c n) : (s.traceRecord c n).OnTime := h.modTenant ..

theorem State.OnTime.modKernel {s : State} (h : s.OnTime) (kid f) : (s.modKernel kid f).OnTime := h.withKernels _

theorem State.OnTime.breakKernel {s : State} (h : s.OnTime) (k) : (s.breakKernel k).OnTime :=
  ((h.fold (fun _ _ h => h.modCore ..) _).fold (fun _ _ h => h.schedule ..) _).modKernel ..

theorem State.OnTime.markFaulted {s : State} (h : s.OnTime) (kid f) : (s.markFaulted kid f).OnTime := by
  unfold State.markFaulted
  split
  · exact h
  · exact .ite h ((h.modKernel ..).schedule ..)

theorem State.OnTime.osTrap {s : State} (h : s.OnTime) (c t nested) : (s.osTrap c t nested).OnTime := by
  refine .ite (h.traceRecord ..) (.ite h ?_)
  extract_lets k s1 s2
  have h1 : s1.OnTime := .ite (h.modCore ..) h
  exact (((h1.markFaulted ..).performWhere ..).modCore ..).schedule ..

theorem State.OnTime.takeTrap {s : State} (h : s.OnTime) (c t) : (s.takeTrap c t).OnTime :=
  .ite (h.enterTrap ..) ((h.enterTrap ..).osTrap ..)

theorem State.OnTime.preciseTrap {s : State} (h : s.OnTime) (k b) : (s.preciseTrap k b).OnTime := h.takeTrap ..

theorem State.OnTime.pendTrap {s : State} (h : s.OnTime) (c t) : (s.pendTrap c t).OnTime := h.modCore ..

theorem State.OnTime.endCycle {s : State} (h : s.OnTime) : s.endCycle.OnTime := (h.modCpu _).withCurDone _

theorem State.OnTime.endTrapped {s : State} (h : s.OnTime) (i t) : (s.endTrapped i t).OnTime := by
  unfold State.endTrapped
  extract_lets c0 last slot r s1 s2
  have h1 : s1.OnTime := (h.seq _).modCpu _
  have h2 : s2.OnTime := .ite (h1.withCurDone _) h1.endCycle
  exact h2.takeTrap ..

/-! ### Machine/Issue.lean, Alu.lean -/

/-- An instruction that the sequencer issues is turned away in a trap, or has its effect. -/
theorem State.OnTime.issue {s : State} (h : s.OnTime) (i fault) {eff : State → State} (k : ∀ t, t.OnTime → (eff t).OnTime) :
    OutOnTime (s.issue i fault eff) := by
  unfold State.issue
  split
  · exact h.preciseTrap ..
  · exact (k _ (h.beginIssue i)).endIssue i

theorem State.OnTime.issueX {s : State} (h : s.OnTime) (i lat d v) : OutOnTime (s.issueX i lat d v) :=
  h.issue _ _ fun _ h => h.resultX ..

theorem divIssue_onTime {s : State} (h : s.OnTime) (i f w d a b) : OutOnTime (divIssue i f w d a b s) :=
  h.issue _ _ fun _ h => (h.modCpu _).resultX ..

/-! ### Machine/Access.lean -/

theorem State.OnTime.covered {s : State} (h : s.OnTime) (c sc) : (s.covered c sc).1.OnTime := h.setCore ..

theorem State.OnTime.publish {s : State} (h : s.OnTime) (obj c r) : (s.publish obj c r).OnTime := by
  cases r with
  | none => exact h
  | some r => exact h.withSynced _

theorem State.OnTime.learn {s : State} (h : s.OnTime) (c m) : (s.learn c m).OnTime := h.modCore ..

theorem State.OnTime.overwritten {s : State} (h : s.OnTime) (obj) : (s.overwritten obj).OnTime := h.withSynced _

theorem State.OnTime.fenceRelease {s : State} (h : s.OnTime) (c sc) : (s.fenceRelease c sc).OnTime := (h.covered ..).modCore ..

theorem State.OnTime.fenceAcquire {s : State} (h : s.OnTime) (c sc) : (s.fenceAcquire c sc).OnTime := h.modCore ..

theorem State.OnTime.restamp {s : State} (h : s.OnTime) (f) : (s.restamp f).OnTime :=
  h.withDies (f := fun d => { d with recent := d.recent.map fun t => t.map fun r => { r with stores := r.stores.map f } }) fun _ => rfl

theorem State.OnTime.consumeCopy {s : State} (h : s.OnTime) (c id) : (s.consumeCopy c id).OnTime := h.restamp _

theorem State.OnTime.endRelease {s : State} (h : s.OnTime) (c) : (s.endRelease c).1.OnTime := (h.restamp _).covered c .device

theorem State.OnTime.performUpTo {s : State} (h : s.OnTime) (c seq) : (s.performUpTo c seq).OnTime := by
  unfold State.performUpTo
  split
  · exact h.performWhere ..
  · exact h

theorem State.OnTime.performAll {s : State} (h : s.OnTime) (c) : (s.performAll c).OnTime := h.performWhere ..

theorem State.OnTime.ownPlateFirst {s : State} (h : s.OnTime) (off) : (s.ownPlateFirst off).OnTime := h.performWhere ..

theorem State.OnTime.ackWait {s : State} (h : s.OnTime) (sc) : (s.ackWait sc).OnTime := .ite h.chosen (h.chosen.modCpu _)

/-! ### Machine/Casts.lean -/

theorem State.OnTime.copyIfDone {s : State} (h : s.OnTime) (c id) : (s.copyIfDone c id).OnTime := by
  unfold State.copyIfDone
  split
  · exact h
  · exact .ite h (h.chosen.schedule ..)

theorem State.OnTime.copyPart {s : State} (h : s.OnTime) (c id n) : (s.copyPart c id n).OnTime := (h.modCore ..).copyIfDone ..

theorem State.OnTime.copyStatus {s : State} (h : s.OnTime) (c id status) : (s.copyStatus c id status).OnTime := h.modCore ..

theorem State.OnTime.loseWrite {s : State} (h : s.OnTime) (m c id) : (s.loseWrite m c id).OnTime := h.withLinks _

theorem State.OnTime.serviceCast {s : State} (h : s.OnTime) (m) : (s.serviceCast m).OnTime :=
  .ite h (h.fold (fun _ _ h => h.schedule ..) _)

theorem State.OnTime.takeWindow {s : State} (h : s.OnTime) (d port w) : (s.takeWindow d port w).OnTime := h.modDie _ rfl

theorem State.OnTime.postNotice {s : State} (h : s.OnTime) (m) : (s.postNotice m).OnTime :=
  (((h.takeWindow ..).withCasts _).serviceCast _).schedule ..

theorem State.OnTime.postHub {s : State} (h : s.OnTime) (dies m) : (s.postHub dies m).OnTime := by
  refine h.fold (fun s d h => ?_) _
  cases m with
  | none => exact h.takeWindow ..
  | some m => exact .ite (h.takeWindow ..) (h.postNotice _)

theorem State.OnTime.sendCast {s : State} (h : s.OnTime) (m) : (s.sendCast m).OnTime := by
  unfold State.sendCast
  extract_lets m s1 n hub s2
  have h1 : s1.OnTime := h.withNextCast _
  have h2 : s2.OnTime := h1
  exact .ite (.ite (h1.withCasts _) (h1.postNotice _)) ((h2.chosen.serviceCast _).schedule ..)

theorem State.OnTime.postWaiting {s : State} (h : s.OnTime) : s.postWaiting.OnTime :=
  h.fold (fun _ _ h => .ite h ((h.withCasts _).postNotice _)) _

theorem execHubNotice_onTime {s : State} (h : s.OnTime) : OutOnTime (execHubNotice s) := by
  unfold execHubNotice
  split
  · split
    · exact h
    · exact (((h.withHub _).withCasts _).postHub ..).postWaiting
  · exact h

theorem State.OnTime.applyCast {s : State} (h : s.OnTime) (c m) : (s.applyCast c m).OnTime := by
  unfold State.applyCast
  extract_lets s1 s2
  have h1 : s1.OnTime := by
    unfold s1
    split
    · exact (h.modCore ..).flagCells ..
    · exact h
  have h2 : s2.OnTime := by
    unfold s2
    split
    · exact ((h1.overwritten _).publish ..).modCore ..
    · exact h1
  split
  · exact (h2.modCore ..).modDie _ rfl
  · exact h2

theorem State.OnTime.applyOne {s : State} (h : s.OnTime) (c m) : (s.applyOne c m).OnTime := by
  unfold State.applyOne
  extract_lets s1 s2 s3
  have h2 : s2.OnTime := (h.applyCast ..).withCasts _
  have h3 : s3.OnTime := by
    unfold s3
    split
    · exact h2.copyPart ..
    · exact h2
  exact .ite (h3.schedule ..) h3

theorem State.OnTime.wakeCast {s : State} (h : s.OnTime) (c) : (s.wakeCast c).OnTime := by
  unfold State.wakeCast
  split
  · exact .ite (h.schedule ..) h
  · exact h

theorem State.OnTime.castData {s : State} (h : s.OnTime) (id c) : (s.castData id c).OnTime := (h.withCasts _).wakeCast _

theorem execMulticastApply_onTime {s : State} (h : s.OnTime) : OutOnTime (execMulticastApply s) := by
  unfold execMulticastApply
  split
  · split
    · exact .ite (((h.applyOne ..).postWaiting).wakeCast _) h
    · exact h
  · exact h

theorem execNoticeWindow_onTime {s : State} (h : s.OnTime) : OutOnTime (execNoticeWindow s) := by
  unfold execNoticeWindow
  split
  · exact h.fold (fun _ _ h => h.wakeCast _) _
  · exact h

/-! ### Machine/Errors.lean, Engine.lean -/

theorem State.OnTime.errorInterrupt {s : State} (h : s.OnTime) (raised) : (s.errorInterrupt raised).OnTime := .ite (h.withHub _) h

theorem State.OnTime.dieError {s : State} (h : s.OnTime) (d bank r) : (s.dieError d bank r).OnTime :=
  (h.modDie _ rfl).errorInterrupt _

theorem State.OnTime.hubError {s : State} (h : s.OnTime) (bank r) : (s.hubError bank r).OnTime := (h.withHub _).errorInterrupt _

theorem State.OnTime.lifeAdd {s : State} (h : s.OnTime) (d off n) : (s.lifeAdd d off n).OnTime := h.modDie _ rfl

theorem State.OnTime.proofFault {s : State} (h : s.OnTime) (c e a seg) : (s.proofFault c e a seg).OnTime :=
  (h.dieError ..).lifeAdd ..

theorem State.OnTime.countReplay {s : State} (h : s.OnTime) (c a) : (s.countReplay c a).OnTime := (h.dieError ..).lifeAdd ..

theorem State.OnTime.countEscalation {s : State} (h : s.OnTime) (c a) : (s.countEscalation c a).OnTime :=
  (h.dieError ..).lifeAdd ..

theorem State.OnTime.issueV {s : State} (h : s.OnTime) (i v) : OutOnTime (s.issueV i v) := h.issue _ _ fun _ h => h.modCpu _

theorem State.OnTime.issueM {s : State} (h : s.OnTime) (i) : OutOnTime (s.issueM i) := h.issue _ _ fun _ h => h.modCpu _

/-! ### Machine/Fabric.lean -/

theorem State.OnTime.modLink {s : State} (h : s.OnTime) (m f) : (s.modLink m f).OnTime := h.withLinks _

theorem State.OnTime.modOut {s : State} (h : s.OnTime) (d o f) : (s.modOut d o f).OnTime := h.modDie _ rfl

theorem State.OnTime.request {s : State} (h : s.OnTime) (d p) : (s.request d p).OnTime := (h.modOut ..).schedule ..

theorem State.OnTime.deliver {s : State} (h : s.OnTime) (d o t p) : (s.deliver d o t p).OnTime :=
  .ite ((h.modOut ..).schedule ..) (h.modOut ..)

theorem State.OnTime.post {s : State} (h : s.OnTime) (p) : (s.post p).OnTime := (h.withNextPacket _).request ..

theorem State.OnTime.sendBack {s : State} (h : s.OnTime) (d o p) : (s.sendBack d o p).OnTime := .ite (h.deliver ..) (h.request ..)

theorem State.OnTime.combine {s : State} (h : s.OnTime) (sp a f marked g) : (s.combine sp a f marked g).1.OnTime := by
  unfold State.combine
  split
  · exact h
  · exact h.writeSpace ..

theorem State.OnTime.combineFor {s : State} (h : s.OnTime) (w sp a f marked g) : (s.combineFor w sp a f marked g).1.OnTime :=
  ((h.combine ..).fold (fun _ _ h => h.setFlags ..) _).setFlags ..

theorem State.OnTime.portOp {s : State} (h : s.OnTime) (w o) : (s.portOp w o).OnTime := by
  unfold State.portOp
  split
  · exact h.storeCells ..
  · exact .ite h (h.combineFor ..)
  · refine .ite h ?_
    extract_lets r bad
    split
    · exact (h.combineFor ..).modCore ..
    · exact h.combineFor ..
  · exact h

theorem State.OnTime.modPort {s : State} (h : s.OnTime) (p f) : (s.modPort p f).OnTime := h.withPorts _

theorem State.OnTime.pushFlits {s : State} (h : s.OnTime) (port fs) : (s.pushFlits port fs).OnTime :=
  .ite ((h.modPort ..).schedule ..) (h.modPort ..)

theorem State.OnTime.sendFlits {s : State} (h : s.OnTime) (port m seq marked bytes) :
    (s.sendFlits port m seq marked bytes).OnTime := h.pushFlits ..

theorem State.OnTime.launchPacket {s : State} (h : s.OnTime) (m p delay n) : (s.launchPacket m p delay n).OnTime :=
  (h.chosen.sendFlits ..).schedule ..

theorem State.OnTime.enterPath {s : State} (h : s.OnTime) (m p delay n) : (s.enterPath m p delay n).OnTime := by
  unfold State.enterPath
  split
  · exact h
  · exact (h.modLink ..).launchPacket ..

theorem State.OnTime.sendPeer {s : State} (h : s.OnTime) (m p delay n) : (s.sendPeer m p delay n).OnTime :=
  .ite (h.enterPath ..) (h.modLink ..)

theorem State.OnTime.acked {s : State} (h : s.OnTime) (m seq) : (s.acked m seq).OnTime := by
  unfold State.acked
  extract_lets mine port t
  have ht : t.OnTime := (h.withPorts _).modLink ..
  split
  · exact (ht.modLink ..).enterPath ..
  · exact ht

/-! ### Machine/ScalarMem.lean -/

theorem State.OnTime.postAccess {s : State} (h : s.OnTime) (g) : (s.postAccess g).OnTime := by
  unfold State.postAccess
  extract_lets op
  split
  · exact h.post _
  · exact h

theorem State.OnTime.sendGlobal {s : State} (h : s.OnTime) (isLoad d size signed ea loc data) :
    (s.sendGlobal isLoad d size signed ea loc data).OnTime := by
  unfold State.sendGlobal
  extract_lets c lat g core k n k t
  have ht : t.OnTime := (h.chosen.withNextPacket _).setCpu _
  exact .ite ((h.setCpu _).postAccess _) (.ite (ht.performUpTo ..) ht)

theorem State.OnTime.landGlobal {s : State} (h : s.OnTime) (c seq) : (s.landGlobal c seq).OnTime := by
  unfold State.landGlobal
  extract_lets t
  have ht : t.OnTime := h.performUpTo ..
  split
  · exact ht
  · refine .ite (ht.modCore ..) ?_
    extract_lets s1 v s2
    have h2 : s2.OnTime := ((ht.modCore ..).touchRead ..).modCore ..
    exact .ite (h2.pendTrap ..) (h2.modCore ..)

theorem State.OnTime.handlerLoads {s : State} (h : s.OnTime) (t d size signed ea loc r) :
    (s.handlerLoads t d size signed ea loc r).OnTime := h.modCpu _

theorem State.OnTime.handlerGlobal {s : State} (h : s.OnTime) (isLoad d size signed ea loc data) :
    (s.handlerGlobal isLoad d size signed ea loc data).OnTime :=
  .ite (((h.modCpu _).withNextPacket _).performWhere ..) ((h.modCpu _).postAccess _)

theorem State.OnTime.handlerAccess {s : State} (h : s.OnTime) (seq) : (s.handlerAccess seq).OnTime := by
  unfold State.handlerAccess
  split
  · exact h.modCpu _
  · exact (h.landGlobal ..).modCpu _

theorem State.OnTime.load {s : State} (h : s.OnTime) (size signed d ea) : (s.load size signed d ea).OnTime := by
  unfold State.load
  split
  · extract_lets loc s1 r s2 heard
    have h2 : s2.OnTime := (h.ownPlateFirst _).modCpu _
    exact .ite ((h2.modCpu _).handlerLoads ..) (h2.modCpu _)
  · extract_lets s1
    have h1 : s1.OnTime := .ite (h.modCpu _) h
    exact .ite (h1.handlerGlobal ..) (h1.sendGlobal ..)
  · exact h

theorem State.OnTime.storeScalar {s : State} (h : s.OnTime) (size src ea) : (s.storeScalar size src ea).OnTime := by
  unfold State.storeScalar
  extract_lets data
  split
  · exact .ite (((h.ownPlateFirst _).modCpu _).setFlags ..) ((h.ownPlateFirst _).modCpu _)
  · exact .ite ((h.modCpu _).handlerGlobal ..) ((h.modCpu _).sendGlobal ..)
  · exact h

theorem loadIssue_onTime {s : State} (h : s.OnTime) (i size signed d a imm) : OutOnTime (loadIssue i size signed d a imm s) :=
  h.issue _ _ fun _ h => h.load ..

theorem storeIssue_onTime {s : State} (h : s.OnTime) (i size src a imm) : OutOnTime (storeIssue i size src a imm s) :=
  h.issue _ _ fun _ h => h.storeScalar ..

/-! ### Machine/Transfer.lean, Translate.lean -/

theorem State.OnTime.postReads {s : State} (h : s.OnTime) (of_ last gs) : (s.postReads of_ last gs).OnTime := by
  refine h.fold (fun s g h => ?_) _
  split
  · exact h.post _
  · exact h

theorem State.OnTime.sampleRun {s : State} (h : s.OnTime) (die last r) : (s.sampleRun die last r).1.OnTime := by
  unfold State.sampleRun
  split
  · exact h
  · refine .iteFst h ?_
    extract_lets zeros
    split
    · exact h
    · exact h.lifeAdd ..
    · exact .iteFst (h.lifeAdd ..) h

theorem State.OnTime.sampleRuns {s : State} (h : s.OnTime) (die last rs) : (s.sampleRuns die last rs).1.OnTime := by
  induction rs generalizing s with
  | nil => exact h
  | cons r rs ih => exact ih (h.sampleRun ..)

theorem State.OnTime.touchRuns {s : State} (h : s.OnTime) (rs) : (s.touchRuns rs).OnTime := h.fold (fun _ _ h => h.modCore ..) _

theorem State.OnTime.readEffs {s : State} (h : s.OnTime) (die last es) : (s.readEffs die last es).1.OnTime := by
  induction es generalizing s with
  | nil => exact h
  | cons e es ih => exact ih (h.sampleRuns ..)

theorem execSbind_onTime {s : State} (h : s.OnTime) (v) : OutOnTime (execSbind v s) := by
  refine h.issue _ _ fun s h => ?_
  split <;> exact h.modCpu _

theorem State.OnTime.askWalk {s : State} (h : s.OnTime) (c who ctx va) : (s.askWalk c who ctx va).OnTime := by
  unfold State.askWalk
  extract_lets d page same
  split
  · exact h.schedule ..
  · exact .ite ((h.modDie _ rfl).schedule ..) ((h.chosen.modDie _ rfl).schedule ..)

theorem State.OnTime.tlbMiss {s : State} (h : s.OnTime) (c va r) : (s.tlbMiss c va r).OnTime := (h.modCore ..).askWalk ..

theorem State.OnTime.leaveWalk {s : State} (h : s.OnTime) (c who) : (s.leaveWalk c who).OnTime := h.modDie _ rfl

theorem State.OnTime.walkOn {s : State} (h : s.OnTime) (c who ctx va) : (s.walkOn c who ctx va).OnTime := by
  unfold State.walkOn
  split
  · exact h.askWalk ..
  · extract_lets d first x t
    have ht : t.OnTime := h.modDie _ rfl
    exact .ite (h.schedule ..) (.ite (ht.schedule ..) (ht.chosen.schedule ..))

/-- A translation brought into a die's TLB leaves its DCLK. -/
theorem Die.tlbAdd_dclk (d : Die) (e : TlbEntry) : (d.tlbAdd e).dclk = d.dclk := rfl

theorem State.OnTime.tlbFill {s : State} (h : s.OnTime) (c ctx l) : (s.tlbFill c ctx l).OnTime :=
  (h.modDie _ (Die.tlbAdd_dclk ..)).modCore ..

theorem State.OnTime.translated {s : State} (h : s.OnTime) (c va r) : (s.translated c va r).OnTime := by
  unfold State.translated
  extract_lets ctx l t
  have ht : t.OnTime := h.leaveWalk ..
  clear_value l
  split
  · exact (ht.tlbFill ..).modCore ..
  · exact ht.chosen.schedule ..

theorem State.OnTime.installPtes {s : State} (h : s.OnTime) (ptes) : (s.installPtes ptes).OnTime :=
  h.fold (fun _ _ h => h.writeSpace ..) _

theorem State.OnTime.askIndex {s : State} (h : s.OnTime) (q) : (s.askIndex q).OnTime := by
  unfold State.askIndex
  split
  · exact h
  · split
    · exact h
    · exact ((h.withNextPacket _).postReads ..).modCpu _

theorem State.OnTime.runAhead {s : State} (h : s.OnTime) (fs) : (s.runAhead fs).OnTime := by
  induction fs generalizing s with
  | nil => exact h
  | cons f fs ih =>
    refine .ite (ih h) ?_
    extract_lets held
    split
    · exact ih h
    · split
      · exact h
      · exact .ite (ih (h.askIndex _)) h

theorem State.OnTime.foresee {s : State} (h : s.OnTime) : s.foresee.OnTime := by
  unfold State.foresee
  split
  · exact h
  · split
    · exact h
    · exact (h.modCpu _).runAhead _

theorem execTldi_onTime {s : State} (h : s.OnTime) (v) : OutOnTime (execTldi v s) :=
  h.issue _ _ fun _ h => (h.modCpu _).foresee

theorem State.OnTime.awaitIndex {s : State} (h : s.OnTime) (q) : (s.awaitIndex q).OnTime :=
  .ite ((h.chosen.modCpu _).schedule ..) ((State.OnTime.ite h (h.askIndex q)).modCpu _)

theorem State.OnTime.rereadIndex {s : State} (h : s.OnTime) (q) : (s.rereadIndex q).OnTime := by
  unfold State.rereadIndex
  split
  · exact h
  · split
    · exact h
    · exact ((h.sampleRuns ..).withNextPacket _).modCpu _

/-! ### Machine/Graph.lean -/

theorem State.OnTime.writeVa {s : State} (h : s.OnTime) (t va bs) : (s.writeVa t va bs).OnTime := by
  refine h.fold (fun s p h => ?_) _
  split
  · exact h.writeSpace ..
  · exact h

theorem State.OnTime.logEntry {s : State} (h : s.OnTime) (t e) : (s.logEntry t e).OnTime := .ite h ((h.writeVa ..).modTenant ..)

theorem State.OnTime.accept {s : State} (h : s.OnTime) (t node gbase gcount staged delay known) :
    (s.accept t node gbase gcount staged delay known).OnTime := by
  refine .ite (h.withHub _) (.ite (h.logEntry ..) (.ite ((h.withNextOrder _).modTenant ..) ?_))
  extract_lets u
  have hu : u.OnTime := h.logEntry ..
  split
  · exact hu
  · exact .ite hu (.ite (hu.logEntry ..) ((hu.withNextOrder _).modTenant ..))

theorem State.OnTime.takeActivation {s : State} (h : s.OnTime) (a) : (s.takeActivation a).OnTime := h.modTenant ..

/-! ### Machine/System.lean -/

theorem execNop_onTime {s : State} (h : s.OnTime) : OutOnTime (execNop s) := h.issue _ _ fun _ h => h

theorem execHalt_onTime {s : State} (h : s.OnTime) : OutOnTime (execHalt s) := by
  unfold execHalt
  split
  · exact h.preciseTrap ..
  · exact (h.beginIssue _).modCpu _

theorem execTrap_onTime {s : State} (h : s.OnTime) (n) : OutOnTime (execTrap n s) := by
  unfold execTrap
  split
  · exact h.preciseTrap ..
  · exact (h.beginIssue _).endTrapped ..

theorem State.OnTime.resume {s : State} (h : s.OnTime) : s.resume.OnTime := (h.modCpu _).withCurDone _

theorem execRtt_onTime {s : State} (h : s.OnTime) : OutOnTime (execRtt s) := by
  unfold execRtt
  split
  · exact h.preciseTrap ..
  · exact .ite h.resume (h.modCpu _)

theorem execRttResume_onTime {s : State} (h : s.OnTime) : OutOnTime (execRttResume s) := .ite (h.modCpu _).resume h

theorem State.OnTime.endBarrier {s : State} (h : s.OnTime) (i) : (s.endBarrier i).OnTime := by
  unfold State.endBarrier
  split
  · exact h.endTrapped ..
  · exact h.endIssue _

theorem State.OnTime.endFence {s : State} (h : s.OnTime) (i) : (s.endFence i).OnTime := by
  unfold State.endFence
  extract_lets slot t
  have ht : t.OnTime := (h.chosen.modCpu _).schedule ..
  split
  · exact (ht.pendTrap ..).endIssue _
  · exact ht.endIssue _

theorem execFence_onTime {s : State} (h : s.OnTime) (kind sc) : OutOnTime (execFence kind sc s) := by
  unfold execFence
  extract_lets i s1 s2 s3
  split
  · exact h.preciseTrap ..
  · have h1 : s1.OnTime := h.beginIssue _
    have h2 : s2.OnTime := .ite h1 (h1.fenceAcquire ..)
    have h3 : s3.OnTime := (h2.performAll _).fenceRelease ..
    exact .ite (h2.endBarrier _) (.ite (h3.endBarrier _) (h3.endFence _))

theorem execFenceAck_onTime {s : State} (h : s.OnTime) : OutOnTime (execFenceAck s) := by
  unfold execFenceAck
  split
  · extract_lets s1 s2
    have h1 : s1.OnTime := h.performAll _
    have h2 : s2.OnTime := h1.modCore ..
    refine .ite ?_ h1
    split
    · exact h2.pendTrap ..
    · exact h2
  · exact h

theorem execQdrain_onTime {s : State} (h : s.OnTime) (m) : OutOnTime (execQdrain m s) := h.issue _ _ fun _ h => h.modCpu _

theorem execModeset_onTime {s : State} (h : s.OnTime) (v) : OutOnTime (execModeset v s) := h.issue _ _ fun _ h => h.modCpu _

theorem execTmark_onTime {s : State} (h : s.OnTime) : OutOnTime (execTmark s) := h.issue _ _ fun _ h => h.modCpu _

theorem execSegb_onTime {s : State} (h : s.OnTime) : OutOnTime (execSegb s) := by
  unfold execSegb
  split
  · exact h.preciseTrap ..
  · exact (((h.beginIssue _).modCpu _).endIssue _).modCpu _

theorem execSege_onTime {s : State} (h : s.OnTime) (a sig) : OutOnTime (execSege a sig s) := by
  unfold execSege
  extract_lets i s1 c n pass again seg s2 named s3 s4
  split
  · exact h.preciseTrap ..
  · have h1 : s1.OnTime := h.beginIssue _
    split
    · exact (h1.setCpu _).withCurDone _
    · have h2 : s2.OnTime := h1.modCpu _
      have h3 : s3.OnTime := .ite h2 (h2.proofFault ..)
      have h4 : s4.OnTime := .ite (h3.countEscalation ..) h3
      refine .ite (h4.endBarrier _) ?_
      split
      · exact (h4.pendTrap ..).endTrapped ..
      · exact h4.endTrapped ..

theorem execGset_onTime {s : State} (h : s.OnTime) (a b) : OutOnTime (execGset a b s) := h.issue _ _ fun _ h => h.modCpu _

theorem execGclr_onTime {s : State} (h : s.OnTime) (a b) : OutOnTime (execGclr a b s) := h.issue _ _ fun _ h => h.modCpu _

theorem State.OnTime.acquireRecord {s : State} (h : s.OnTime) (r) : (s.acquireRecord r).OnTime := by
  unfold State.acquireRecord
  extract_lets t
  have ht : t.OnTime := h.modCpu _
  split
  · exact ht.consumeCopy ..
  · exact ht

theorem execEvpop_onTime {s : State} (h : s.OnTime) (d) : OutOnTime (execEvpop d s) := by
  unfold execEvpop
  split
  · exact h.preciseTrap ..
  · split
    · exact h
    · exact ((((h.beginIssue _).modCpu _).resultXs ..).acquireRecord _).endIssue _

theorem execEvpeek_onTime {s : State} (h : s.OnTime) (d) : OutOnTime (execEvpeek d s) := h.issue _ _ fun _ h => h.resultXs ..

theorem execEvqRecordArrival_onTime {s : State} (h : s.OnTime) : OutOnTime (execEvqRecordArrival s) := by
  unfold execEvqRecordArrival
  split
  · exact .ite (h.modCore ..) h
  · exact h

theorem execTlbinv_onTime {s : State} (h : s.OnTime) (a b) : OutOnTime (execTlbinv a b s) :=
  h.issue _ _ fun _ h => ((h.performAll _).modCpu _).sendCast _

theorem State.OnTime.performOwn {s : State} (h : s.OnTime) (t) : (s.performOwn t).OnTime :=
  h.fold (fun _ _ h => h.performWhere ..) _

theorem execTlbinvComplete_onTime {s : State} (h : s.OnTime) : OutOnTime (execTlbinvComplete s) := by
  unfold execTlbinvComplete
  split
  · split
    · refine .ite h ?_
      extract_lets mark t
      have ht : t.OnTime := h.performOwn _
      exact .ite ((ht.modCore ..).schedule ..) (ht.modCore ..)
    · exact h
  · exact h

/-! ### Machine/Home.lean -/

theorem State.OnTime.makeRelease {s : State} (h : s.OnTime) (sc) : (s.makeRelease sc).1.OnTime :=
  ((h.performAll _).ackWait _).covered ..

theorem State.OnTime.unclean {s : State} (h : s.OnTime) : s.unclean.OnTime := h.modCpu _

theorem State.OnTime.expect {s : State} (h : s.OnTime) (home dest slot acq barrier) :
    (s.expect home dest slot acq barrier).OnTime := (h.setCpu _).withNextRid _

/-- A beat that passes a crossbar leaves the die's DCLK. -/
theorem Die.beat_dclk (d : Die) (i o : Port) : (d.beat i o).dclk = d.dclk := rfl

theorem State.OnTime.homeBeat {s : State} (h : s.OnTime) (src dst) : (s.homeBeat src dst).OnTime :=
  .ite h (.ite (h.modDie _ (Die.beat_dclk ..)) ((h.modDie _ (Die.beat_dclk ..)).modDie _ (Die.beat_dclk ..)))

theorem State.OnTime.sendTo {s : State} (h : s.OnTime) (c home e) : (s.sendTo c home e).OnTime :=
  .ite (h.schedule ..) ((h.chosen.homeBeat ..).schedule ..)

theorem State.OnTime.sendSem {s : State} (h : s.OnTime) (dst i op rel) : (s.sendSem dst i op rel).OnTime := h.sendTo ..

theorem execSemadd_onTime {s : State} (h : s.OnTime) (i sc a) : OutOnTime (execSemadd i sc a s) :=
  h.issue _ _ fun _ h => (h.makeRelease _).unclean.sendSem ..

theorem execSemset_onTime {s : State} (h : s.OnTime) (i sc a) : OutOnTime (execSemset i sc a s) :=
  h.issue _ _ fun _ h => (h.makeRelease _).unclean.sendSem ..

theorem execSemwait_onTime {s : State} (h : s.OnTime) (i sc a) : OutOnTime (execSemwait i sc a s) := by
  unfold execSemwait
  extract_lets ins
  split
  · exact h.preciseTrap ..
  · refine .ite h (State.OnTime.endBarrier ?_ _)
    exact .ite (h.beginIssue _).unclean ((h.beginIssue _).unclean.learn ..)

theorem execSemwaitSatisfied_onTime {s : State} (h : s.OnTime) : OutOnTime (execSemwaitSatisfied s) := by
  unfold execSemwaitSatisfied
  split
  · split
    · exact .ite (h.modCore ..) h
    · exact h
  · exact h

theorem execSemrd_onTime {s : State} (h : s.OnTime) (d i) : OutOnTime (execSemrd d i s) :=
  h.issue _ _ fun _ h => h.unclean.resultX ..

theorem execSemradd_onTime {s : State} (h : s.OnTime) (i sc a b) : OutOnTime (execSemradd i sc a b s) :=
  h.issue _ _ fun _ h => (h.makeRelease _).unclean.sendSem ..

theorem execSemmset_onTime {s : State} (h : s.OnTime) (i sc a b) : OutOnTime (execSemmset i sc a b s) :=
  h.issue _ _ fun _ h => .ite (h.makeRelease _).unclean ((h.makeRelease _).unclean.sendCast _)

theorem execSemRemoteService_onTime {s : State} (h : s.OnTime) : OutOnTime (execSemRemoteService s) := by
  unfold execSemRemoteService
  split
  · refine .ite (h.schedule ..) ?_
    split
    · exact ((h.overwritten _).publish ..).modCore ..
    · exact (h.publish ..).modCore ..
  · exact h

theorem poolIssue_onTime {s : State} (h : s.OnTime) (i op d p sc) : OutOnTime (poolIssue i op d p sc s) := by
  refine h.issue _ _ fun s h => ?_
  split
  · exact h
  · extract_lets obj made r t c q u
    have hr : r.1.OnTime := .iteFst (h.makeRelease _) h
    have hu : u.OnTime := hr.unclean.sendTo ..
    exact .ite (hu.expect ..) hu

theorem State.OnTime.ringRelease {s : State} (h : s.OnTime) (sc) : (s.ringRelease sc).1.OnTime :=
  .iteFst ((h.chosen.ackWait _).covered ..) (h.chosen.makeRelease _)

theorem ringIssue_onTime {s : State} (h : s.OnTime) (i op dest r sc) : OutOnTime (ringIssue i op dest r sc s) := by
  unfold ringIssue
  extract_lets s1 releases acquires made r s2 c
  have h1 : s1.OnTime := (h.beginIssue _).unclean
  split
  · exact h.preciseTrap ..
  · split
    · exact h.preciseTrap ..
    · refine OutOnTime.ite (h.preciseTrap ..) ?_
      extract_lets home obj q s3 s4
      have hr : r.1.OnTime := .iteFst (h1.ringRelease _) h1
      have h3 : s3.OnTime := hr.sendTo ..
      have h4 : s4.OnTime := .ite h3 (h3.expect ..)
      exact State.OnTime.ite (h4.endBarrier _) (h4.endIssue _)

theorem launchIssue_onTime {s : State} (h : s.OnTime) (i staged a) : OutOnTime (launchIssue i staged a s) :=
  h.issue _ _ fun _ h => (h.makeRelease _).unclean.chosen.accept ..

/-! ### Machine/Copy.lean -/

theorem execWstore_onTime {s : State} (h : s.OnTime) (v) : OutOnTime (execWstore v s) := h.preciseTrap ..

theorem State.OnTime.putCopy {s : State} (h : s.OnTime) (k) : (s.putCopy k).OnTime := h.modCpu _

theorem State.OnTime.copyMiss {s : State} (h : s.OnTime) (c id va r) : (s.copyMiss c id va r).OnTime := (h.modCore ..).askWalk ..

theorem State.OnTime.noPath {s : State} (h : s.OnTime) (c id write) : (s.noPath c id write).OnTime := by
  unfold State.noPath
  extract_lets t
  have ht : t.OnTime := (h.copyStatus ..).dieError ..
  split
  · exact ht.loseWrite ..
  · exact ht

theorem State.OnTime.dropRow {s : State} (h : s.OnTime) (c id row) : (s.dropRow c id row).OnTime := h.modCore ..

theorem State.OnTime.readLeg {s : State} (h : s.OnTime) (c k l) : (s.readLeg c k l).OnTime := by
  unfold State.readLeg
  extract_lets rest
  split
  · exact (h.copyStatus ..).dropRow ..
  · refine .ite (h.modCore ..) ?_
    split
    · exact (h.noPath ..).dropRow ..
    · exact ((h.modCore ..).post _).modCore ..

theorem State.OnTime.legGone {s : State} (h : s.OnTime) (c id l) : (s.legGone c id l).OnTime := h.modCore ..

theorem State.OnTime.writeLeg {s : State} (h : s.OnTime) (c k l) : (s.writeLeg c k l).OnTime := by
  unfold State.writeLeg
  extract_lets row gone data gone'
  have hg : gone.OnTime := h.legGone ..
  refine .ite hg ?_
  split
  · exact hg.copyStatus ..
  · have hg' : gone'.OnTime := .ite (hg.copyStatus ..) hg
    refine .ite hg' ?_
    split
    · exact hg'.noPath ..
    · exact (hg'.post _).modCore ..

theorem State.OnTime.castCopy {s : State} (h : s.OnTime) (c k dsts) : (s.castCopy c k dsts).OnTime := by
  unfold State.castCopy
  extract_lets v one wrong s1 parts put ops marked bad n id s2 cast s3
  have h1 : s1.OnTime := .ite (h.copyStatus ..) h
  have h2 : s2.OnTime := h1.modCore ..
  have h3 : s3.OnTime := h2.sendCast _
  refine .ite h2 (h3.fold (fun _ _ h => h.fold (fun _ _ h => ?_) _) _)
  split
  · exact h.post _
  · exact h

theorem State.OnTime.advanceCopy {s : State} (h : s.OnTime) (c id fuel) : (State.advanceCopy c id fuel s).OnTime := by
  induction fuel generalizing s with
  | zero => exact h
  | succ f ih =>
    unfold State.advanceCopy
    split
    · exact h
    · refine .ite h ?_
      split
      · exact .ite (ih (h.readLeg ..)) (h.copyMiss ..)
      · split
        · refine .ite h ?_
          split
          · exact h.copyMiss ..
          · exact ih (h.castCopy ..)
        · split
          · exact h
          · exact .ite (ih (h.writeLeg ..)) (h.copyMiss ..)

theorem State.OnTime.advanceCopies {s : State} (h : s.OnTime) (c) : (s.advanceCopies c).OnTime :=
  h.fold (fun _ _ h => .ite h ((h.advanceCopy ..).copyIfDone ..)) _

theorem State.OnTime.startCopy {s : State} (h : s.OnTime) (q fn v p) : (s.startCopy q fn v p).OnTime := by
  unfold State.startCopy
  extract_lets r awaits s1 bar id k s2
  have h2 : s2.OnTime := ((h.performAll _).covered ..).putCopy _
  exact .ite (h2.copyIfDone ..) (h2.advanceCopies _)

theorem State.OnTime.pushRecord {s : State} (h : s.OnTime) (c r reserved) : (s.pushRecord c r reserved).OnTime :=
  .ite ((h.modCore ..).schedule ..) (h.modCore ..)

theorem State.OnTime.postTokens {s : State} (h : s.OnTime) (c e left right addr copy) :
    (s.postTokens c e left right addr copy).OnTime := by
  unfold State.postTokens
  extract_lets one
  have hone : ∀ {s : State} go k, s.OnTime → (one s go k).OnTime := fun _ _ h =>
    .ite h (.ite ((h.setCore ..).pendTrap ..) (h.setCore ..))
  exact hone _ _ (hone _ _ h)

theorem State.OnTime.finishCopy {s : State} (h : s.OnTime) (c k status data give) : (s.finishCopy c k status data give).OnTime :=
  .ite (((h.modCore ..).pushRecord ..).postTokens ..) ((h.modCore ..).pushRecord ..)

theorem execCopyComplete_onTime {s : State} (h : s.OnTime) : OutOnTime (execCopyComplete s) := by
  unfold execCopyComplete
  split
  · split
    · exact h
    · refine .ite (h.schedule ..) ?_
      extract_lets t data
      have ht : t.OnTime := by
        unfold t
        split
        · exact .ite (h.modCore ..) h
        · exact h
      exact (ht.finishCopy ..).advanceCopies _
  · exact h

theorem State.OnTime.faultCopy {s : State} (h : s.OnTime) (q fn v f) : (s.faultCopy q fn v f).OnTime :=
  ((h.putCopy _).pendTrap ..).schedule ..

theorem execCopyDispatchFaultRecord_onTime {s : State} (h : s.OnTime) : OutOnTime (execCopyDispatchFaultRecord s) := by
  unfold execCopyDispatchFaultRecord
  split
  · split
    · exact h
    · exact h.finishCopy ..
  · exact h

/-! ### Machine/Ports.lean -/

theorem State.OnTime.thaw {s : State} (h : s.OnTime) (c) : (s.thaw c).OnTime := .ite (h.schedule ..) h

theorem State.OnTime.control {s : State} (h : s.OnTime) (port kind lseq dst pairSeq payload) :
    (s.control port kind lseq dst pairSeq payload).OnTime := h.modPort ..

theorem State.OnTime.answerPacket {s : State} (h : s.OnTime) (port m seq r) : (s.answerPacket port m seq r).OnTime :=
  (State.OnTime.ite h (h.sendFlits ..)).control ..

theorem State.OnTime.inboundBack {s : State} (h : s.OnTime) (id num) : (s.inboundBack id num).OnTime := by
  unfold State.inboundBack
  split
  · exact h
  · exact .ite (h.withInbound _) (((h.withInbound _).modLink ..).answerPacket ..)

theorem State.OnTime.settled {s : State} (h : s.OnTime) (c of_ num) : (s.settled c of_ num).OnTime := by
  unfold State.settled
  split
  · exact ((h.modCore ..).advanceCopies _).thaw _
  · exact (h.modCore ..).thaw _
  · exact (h.modCore ..).thaw _
  · next id =>
    extract_lets t
    have ht : t.OnTime := h.modCore ..
    split
    · exact .ite (ht.copyIfDone ..) (ht.advanceCopies _)
    · exact ht
  · exact h.inboundBack ..
  · exact h

theorem State.OnTime.sampleRange {s : State} (h : s.OnTime) (die last sp a n rs) : (s.sampleRange die last sp a n rs).1.OnTime := by
  induction rs generalizing s with
  | nil => exact h
  | cons r rs ih => exact ih (.iteFst (h.sampleRun ..) h)

theorem State.OnTime.sampleEffs {s : State} (h : s.OnTime) (die sp a n es) : (s.sampleEffs die sp a n es).1.OnTime := by
  induction es generalizing s with
  | nil => exact h
  | cons e es ih => exact ih (h.sampleRange ..)

theorem State.OnTime.sampleTile {s : State} (h : s.OnTime) (die num sp a n ls) : (s.sampleTile die num sp a n ls).1.OnTime := by
  induction ls generalizing s with
  | nil => exact h
  | cons l ls ih => exact ih (.iteFst (h.sampleEffs ..) h)

theorem State.OnTime.readFailed {s : State} (h : s.OnTime) (c id status sp a n) : (s.readFailed c id status sp a n).OnTime := by
  unfold State.readFailed
  split
  · exact h
  · exact ((h.copyStatus ..).fold (fun _ _ h => h.dropRow ..) _).modCore ..

theorem State.OnTime.serveRuns {s : State} (h : s.OnTime) (c of_ last sp a n) : (s.serveRuns c of_ last sp a n).1.OnTime := by
  unfold State.serveRuns
  split
  · split
    · exact h
    · exact (h.sampleRange ..).modCore ..
  · refine .iteFst (h.readFailed ..) ?_
    split
    · exact h
    · exact (h.sampleRange ..).modCore ..
  · exact h

theorem State.OnTime.serveRead {s : State} (h : s.OnTime) (d o p last) : (s.serveRead d o p last).OnTime := by
  unfold State.serveRead
  extract_lets c t heard r src again
  have ht : t.OnTime := h.touchRead ..
  split
  · exact (h.performWhere ..).sendBack ..
  · exact ((ht.sampleTile ..).modCore ..).sendBack ..
  · exact (ht.withInbound _).sendBack ..
  · exact .ite ((ht.serveRuns ..).deliver ..) ((ht.serveRuns ..).sendBack ..)

theorem State.OnTime.inboundOp {s : State} (h : s.OnTime) (id o) : (s.inboundOp id o).OnTime := by
  unfold State.inboundOp
  split
  · exact h.writeSpace ..
  · exact .ite h (h.combine ..)
  · exact .ite h ((h.combine ..).withInbound _)
  · exact h

theorem State.OnTime.serveWrite {s : State} (h : s.OnTime) (w) : (s.serveWrite w).OnTime := by
  unfold State.serveWrite
  extract_lets down t
  have ht : t.OnTime := h.fold (fun _ _ h => h.portOp ..) _
  split
  · exact h.performWhere ..
  · exact .ite (ht.copyStatus ..) (ht.modCore ..)
  · exact (State.OnTime.ite (h.withInbound _) h).fold (fun _ _ h => h.inboundOp ..) _
  · exact ht

theorem State.OnTime.serve {s : State} (h : s.OnTime) (d o p) : (s.serve d o p).OnTime := by
  unfold State.serve
  split
  · exact h.serveRead ..
  · exact (h.castData ..).settled ..
  · exact h.settled ..
  · exact (h.serveWrite _).settled ..

theorem State.OnTime.bankWait {s : State} (h : s.OnTime) (g p) : (s.bankWait g p).1.OnTime :=
  .iteFst (h.modCore ..) (.iteFst h (h.modCore ..))

theorem State.OnTime.portWait {s : State} (h : s.OnTime) (d o p) : (s.portWait d o p).1.OnTime := by
  unfold State.portWait
  extract_lets k scrub at_ pause refresh met
  split
  · exact h
  · exact h
  · split
    · exact .ite h (h.modOut ..)
    · exact h
    · split
      · exact h.bankWait ..
      · exact h
    · exact h
  · exact h

theorem execMemoryPortArrival_onTime {s : State} (h : s.OnTime) : OutOnTime (execMemoryPortArrival s) := by
  unfold execMemoryPortArrival
  split
  · next d o _ =>
    extract_lets now buffer
    split
    · exact h
    · exact h.schedule ..
    · next p _ _ =>
      have hw := h.portWait d o p
      refine .ite (hw.schedule ..) (State.OnTime.serve ?_ ..)
      split
      · exact (hw.modOut ..).schedule ..
      · exact hw.modOut ..
  · exact h

theorem State.OnTime.peerLost {s : State} (h : s.OnTime) (m p die) : (s.peerLost m p die).OnTime := by
  unfold State.peerLost
  extract_lets bank core s1 s2
  have h2 : s2.OnTime := .ite ((h.dieError ..).lifeAdd ..) (h.dieError ..)
  split
  · split
    · exact (h2.readFailed ..).settled ..
    · exact ((h2.copyStatus ..).loseWrite ..).settled ..
  · exact h2

theorem State.OnTime.peerOut {s : State} (h : s.OnTime) (die m port p) : (s.peerOut die m port p).OnTime := by
  unfold State.peerOut
  extract_lets q o isRead
  split
  · exact h.sendPeer ..
  · exact h.peerLost ..

theorem State.OnTime.peerDone {s : State} (h : s.OnTime) (m p) : (s.peerDone m p).OnTime := by
  unfold State.peerDone
  split
  · exact h
  · split
    · exact (State.OnTime.iteFst ((h.serveRuns ..).serveRuns ..) (h.serveRuns ..)).sendBack ..
    · exact (h.serveWrite _).settled ..

theorem execEndToEndAck_onTime {s : State} (h : s.OnTime) : OutOnTime (execEndToEndAck s) := by
  unfold execEndToEndAck
  split
  · split
    · exact h
    · split
      · exact h
      · exact .ite (h.schedule ..) ((h.acked ..).peerDone ..)
  · exact h

theorem State.OnTime.carry {s : State} (h : s.OnTime) (d o p) : (s.carry d o p).OnTime := by
  unfold State.carry
  extract_lets k t u
  have hu : u.OnTime := .ite h (h.lifeAdd ..)
  refine .ite ((hu.chosen.modOut ..).schedule ..) ?_
  split
  · exact h.peerOut ..
  · exact h.chosen.deliver ..

theorem execCrossbarGrant_onTime {s : State} (h : s.OnTime) : OutOnTime (execCrossbarGrant s) := by
  unfold execCrossbarGrant
  split
  · extract_lets now x ready
    refine .ite h (.ite (h.schedule ..) ?_)
    split
    · exact h.chosen.schedule ..
    · exact ((h.chosen.modDie _ rfl).modOut ..).carry ..
  · exact h

theorem execD2dDelivery_onTime {s : State} (h : s.OnTime) : OutOnTime (execD2dDelivery s) := by
  unfold execD2dDelivery
  split
  · exact h.request ..
  · exact h

theorem State.OnTime.copyTranslated {s : State} (h : s.OnTime) (c id) : (s.copyTranslated c id).OnTime := by
  unfold State.copyTranslated
  extract_lets ctx t
  have ht : t.OnTime := h.leaveWalk ..
  split
  · exact h
  · extract_lets l
    clear_value l
    split
    · exact ((ht.tlbFill ..).modCore ..).advanceCopies _
    · exact ht.chosen.schedule ..

theorem State.OnTime.aheadTranslated {s : State} (h : s.OnTime) (c ctx page) : (s.aheadTranslated c ctx page).OnTime := by
  unfold State.aheadTranslated
  extract_lets who l t
  have ht : t.OnTime := h.leaveWalk ..
  clear_value l
  split
  · exact ht.tlbFill ..
  · exact ht

theorem execTlbMissResolved_onTime {s : State} (h : s.OnTime) : OutOnTime (execTlbMissResolved s) := by
  unfold execTlbMissResolved
  split
  · split
    · exact h.leaveWalk ..
    · exact State.OnTime.ite (h.walkOn ..) (h.copyTranslated ..)
  · split
    · exact State.OnTime.ite (h.walkOn ..) (h.translated ..)
    · exact h.leaveWalk ..
  · exact State.OnTime.ite (h.walkOn ..) (h.aheadTranslated ..)
  · exact h

theorem execPageFaultResolved_onTime {s : State} (h : s.OnTime) : OutOnTime (execPageFaultResolved s) := by
  unfold execPageFaultResolved
  split
  · split
    · split
      · exact (h.installPtes _).tlbMiss ..
      · exact h.modCore ..
    · exact h
  · split
    · exact h
    · split
      · exact (h.installPtes _).copyMiss ..
      · exact (h.modCore ..).advanceCopies _
  · exact h

/-! ### Machine/Reduction.lean -/

theorem State.OnTime.sendRed {s : State} (h : s.OnTime) (p) : (s.sendRed p).OnTime := h.chosen.schedule ..

theorem State.OnTime.modNode {s : State} (h : s.OnTime) (c n f) : (s.modNode c n f).OnTime := h.modCore ..

theorem State.OnTime.writeRow {s : State} (h : s.OnTime) (c off bs marked) : (s.writeRow c off bs marked).OnTime := h.modCore ..

theorem State.OnTime.addToRow {s : State} (h : s.OnTime) (c off fmt op tile marked) : (s.addToRow c off fmt op tile marked).OnTime :=
  h.writeRow ..

theorem State.OnTime.startRnode {s : State} (h : s.OnTime) (q v p) : (s.startRnode q v p).OnTime := by
  unfold State.startRnode
  extract_lets node r s1 sc c d len rows now record k desc arm dl old n s2 s3 s4 s5
  have h1 : s1.OnTime := (h.performAll _).covered ..
  have h5 : s5.OnTime := (((h1.putCopy _).modNode ..).modCpu _).writeRow ..
  refine .ite ((h1.putCopy _).schedule ..) ?_
  split
  · exact (h1.putCopy _).schedule ..
  · exact (h5.schedule ..).schedule ..

theorem execNodeArmingRecord_onTime {s : State} (h : s.OnTime) : OutOnTime (execNodeArmingRecord s) := by
  unfold execNodeArmingRecord
  split
  · split
    · exact h
    · exact h.finishCopy ..
  · exact h

theorem State.OnTime.startRcont {s : State} (h : s.OnTime) (q v p) : (s.startRcont q v p).OnTime := by
  unfold State.startRcont
  extract_lets t r s1 bytes dst record k s2
  have h1 : s1.OnTime := (h.performAll _).covered ..
  exact .ite ((h1.chosen.putCopy _).schedule ..) ((h1.putCopy _).sendRed _)

theorem State.OnTime.answer {s : State} (h : s.OnTime) (p a) : (s.answer p a).OnTime := by
  unfold State.answer
  split
  · exact h.chosen.schedule ..
  · exact h

theorem execRcontAnswer_onTime {s : State} (h : s.OnTime) : OutOnTime (execRcontAnswer s) := by
  unfold execRcontAnswer
  split
  · split
    · exact h
    · split
      · exact h.finishCopy ..
      · exact h.finishCopy ..
  · exact h

theorem State.OnTime.toParent {s : State} (h : s.OnTime) (c i n tile bitmap marked known) :
    (s.toParent c i n tile bitmap marked known).OnTime := by
  unfold State.toParent
  extract_lets dst p q
  refine .ite ?_ (h.sendRed _)
  split
  · exact h.sendPeer ..
  · exact h.peerLost ..

theorem State.OnTime.oweRecord {s : State} (h : s.OnTime) (c i result status bitmap) :
    (s.oweRecord c i result status bitmap).OnTime := (h.modNode ..).schedule ..

theorem State.OnTime.landRow {s : State} (h : s.OnTime) (c r) : (s.landRow c r).OnTime := by
  unfold State.landRow
  split
  · exact h
  · exact h.writeRow ..
  · exact h.addToRow ..
  · exact (h.fold (fun _ _ h => h.touchRead ..) _).writeRow ..

theorem State.OnTime.landEarlier {s : State} (h : s.OnTime) (c i) : (s.landEarlier c i).OnTime :=
  (h.fold (fun _ _ h => h.landRow ..) _).modNode ..

theorem State.OnTime.markNode {s : State} (h : s.OnTime) (c i m) : (s.markNode c i m).OnTime := h.modNode ..

theorem State.OnTime.forwardNode {s : State} (h : s.OnTime) (c i last) : (s.forwardNode c i last).OnTime := by
  unfold State.forwardNode
  extract_lets n full next onTime r sum s1 s2 m value s3 give s4 s5 result
  have h1 : s1.OnTime := .ite (h.fold (fun _ _ h => h.touchRead ..) _) h
  have h2 : s2.OnTime := (h1.modNode ..).markNode ..
  have h3 : s3.OnTime := .ite (h2.writeRow ..) h2
  have h5 : s5.OnTime := (h2.modCore ..).modNode ..
  exact .ite (.ite h3 (h3.toParent ..)) (h5.oweRecord ..)

theorem State.OnTime.storeTile {s : State} (h : s.OnTime) (c i p late) : (s.storeTile c i p late).OnTime :=
  (h.modNode ..).writeRow ..

theorem State.OnTime.addPacket {s : State} (h : s.OnTime) (c i p) : (s.addPacket c i p).OnTime := by
  unfold State.addPacket
  extract_lets n bad t
  have ht : t.OnTime := (h.modNode ..).markNode ..
  exact .ite (ht.addToRow ..) (ht.writeRow ..)

theorem State.OnTime.combineNode {s : State} (h : s.OnTime) (c i p) : (s.combineNode c i p).OnTime := by
  unfold State.combineNode
  extract_lets n full s1 s2
  have h1 : s1.OnTime := h.storeTile ..
  have h2 : s2.OnTime := h.addPacket ..
  exact .ite (.ite (h1.forwardNode ..) h1) (.ite (h.forwardNode ..) (.ite (h2.forwardNode ..) h2))

theorem State.OnTime.lateAtRoot {s : State} (h : s.OnTime) (c i p) : (s.lateAtRoot c i p).OnTime := by
  unfold State.lateAtRoot
  extract_lets n late s1 full s2 m
  have h1 : s1.OnTime := h.landEarlier ..
  have h2 : s2.OnTime := h1.storeTile ..
  exact .ite (h.modCore ..) (.ite (.ite h2 (h2.oweRecord ..)) (.ite (h1.addPacket ..) (h1.oweRecord ..)))

theorem State.OnTime.refusePacket {s : State} (h : s.OnTime) (p code) : (s.refusePacket p code).OnTime :=
  .ite (h.answer ..) ((h.dieError ..).lifeAdd ..)

theorem State.OnTime.takePacket {s : State} (h : s.OnTime) (p) : (s.takePacket p).OnTime := by
  unfold State.takePacket
  extract_lets c i n arrived s1 held s2 s3
  have h1 : s1.OnTime := h.modNode ..
  have hheld : ∀ {t : State}, t.OnTime → (held t).OnTime := fun ht => ht.modNode ..
  have h2 : s2.OnTime := h1.answer ..
  have h3 : s3.OnTime := .ite (h2.toParent ..) (.ite ((hheld h2).lateAtRoot ..) (h2.lateAtRoot ..))
  split
  · exact h.refusePacket ..
  · exact .ite (((hheld h1).answer ..).combineNode ..) (.ite (h3.modNode ..) h3)

theorem execReductionPacketArrival_onTime {s : State} (h : s.OnTime) : OutOnTime (execReductionPacketArrival s) := by
  unfold execReductionPacketArrival
  split
  · exact h.takePacket _
  · exact h

theorem execNodeDeadline_onTime {s : State} (h : s.OnTime) : OutOnTime (execNodeDeadline s) := by
  unfold execNodeDeadline
  split
  · exact .ite (h.forwardNode ..) h
  · exact h

theorem execRootRecordWrite_onTime {s : State} (h : s.OnTime) : OutOnTime (execRootRecordWrite s) := by
  unfold execRootRecordWrite
  split
  · extract_lets n due
    split
    · exact ((h.landRow ..).modNode ..).schedule ..
    · exact h
    · extract_lets s1 s2
      have h2 : s2.OnTime := (h.modNode ..).pushRecord ..
      split
      · exact h2.sendTo ..
      · exact h2
  · exact h

/-! ### Machine/EngineDispatch.lean -/

theorem State.OnTime.popCopies {s : State} (h : s.OnTime) (e q) : (s.popCopies e q).OnTime := by
  refine h.fold (fun s k h => ?_) _
  split
  · exact (h.modCpu _).consumeCopy ..
  · exact h

theorem State.OnTime.sendLoad {s : State} (h : s.OnTime) (e q d legs) : (s.sendLoad e q d legs).OnTime :=
  .ite (.ite (((h.readEffs ..).withNextPacket _).modCpu _) ((h.readEffs ..).modCpu _))
    (((h.withNextPacket _).postReads ..).modCpu _)

theorem State.OnTime.sendStore {s : State} (h : s.OnTime) (e q d) : (s.sendStore e q d).OnTime := by
  refine State.OnTime.modCpu ((h.withNextPacket _).fold (fun s w h => ?_) _) _
  split
  · exact h.post _
  · exact h

theorem State.OnTime.refreshGroup {s : State} (h : s.OnTime) (d g) : (s.refreshGroup d g).OnTime :=
  .ite (h.modDie _ rfl) ((h.modDie _ rfl).schedule ..)

theorem State.OnTime.programRefresh {s : State} (h : s.OnTime) (g) : (s.programRefresh g).OnTime := h.refreshGroup ..

theorem State.OnTime.prefetch {s : State} (h : s.OnTime) (vas) : (s.prefetch vas).OnTime :=
  h.fold (fun _ _ h => .ite h (h.askWalk ..)) _

theorem State.OnTime.dispatchFaulted {s : State} (h : s.OnTime) (e q d f) : (s.dispatchFaulted e q d f).OnTime :=
  ((h.popCopies ..).modCpu _).pendTrap ..

theorem State.OnTime.dispatchGood {s : State} (h : s.OnTime) (e q d) : (s.dispatchGood e q d).OnTime := by
  unfold State.dispatchGood
  extract_lets x again effs s1 s2 s3 s4 s5 s6 d'
  have h1 : s1.OnTime := (h.popCopies ..).modCpu _
  have h2 : s2.OnTime := .ite h1 (h1.sampleRuns ..)
  have h3 : s3.OnTime := .ite (h2.runAhead _) h2
  have h4 : s4.OnTime := h3.modCpu _
  have h5 : s5.OnTime := by
    unfold s5
    split
    · exact h4.programRefresh _
    · exact h4
  have h6 : s6.OnTime := h5.prefetch _
  exact .ite (h6.sendStore ..) (h6.sendLoad ..)

theorem State.OnTime.dispatchEngine {s : State} (h : s.OnTime) (e q) : (s.dispatchEngine e q).OnTime := by
  unfold State.dispatchEngine
  split
  · exact h.tlbMiss ..
  · refine .ite (h.awaitIndex _) ?_
    split
    · exact h
    · split
      · exact h.dispatchFaulted ..
      · exact .ite ((h.chosen.modCpu _).schedule ..) (h.dispatchGood ..)

theorem State.OnTime.dispatchCopy {s : State} (h : s.OnTime) (q) : (s.dispatchCopy q).OnTime := by
  unfold State.dispatchCopy
  extract_lets s1
  have h1 : s1.OnTime := (h.popCopies ..).modCpu _
  split
  · extract_lets race s2
    have h2 : s2.OnTime := h1.modCpu _
    split
    · exact h1.faultCopy ..
    · split
      · exact h2.startRnode ..
      · exact h2.startRcont ..
      · exact h2.startCopy ..
  · exact h

theorem execEngineDispatch_onTime {s : State} (h : s.OnTime) : OutOnTime (execEngineDispatch s) := by
  unfold execEngineDispatch
  split
  · split
    · exact State.OnTime.ite (h.dispatchCopy _) (h.dispatchEngine ..)
    · exact h
  · exact h

/-! ### Machine/HomeService.lean -/

theorem State.OnTime.gathered {s : State} (h : s.OnTime) (c rid) : (s.gathered c rid).OnTime := by
  unfold State.gathered
  split
  · exact h.modCore ..
  · exact h

theorem State.OnTime.sendReply {s : State} (h : s.OnTime) {op : Type} (q : HomeReq op) (r) : (s.sendReply q r).OnTime :=
  (h.homeBeat ..).schedule ..

theorem State.OnTime.landReply {s : State} (h : s.OnTime) (c rid) : (s.landReply c rid).OnTime := by
  unfold State.landReply
  extract_lets s1
  have h1 : s1.OnTime := h.modCore ..
  split
  · exact h
  · extract_lets put raise
    split
    · extract_lets s2 s3
      have h3 : s3.OnTime := (h1.modCore ..).learn ..
      split
      · exact h3.pendTrap ..
      · exact h3
    · exact h1.pendTrap ..
    · exact h1.pendTrap ..
    · exact h1

theorem execHomeReplyArrival_onTime {s : State} (h : s.OnTime) : OutOnTime (execHomeReplyArrival s) := by
  unfold execHomeReplyArrival
  split
  · exact h.modCore ..
  · exact h

theorem State.OnTime.handlerReply {s : State} (h : s.OnTime) (rid) : (s.handlerReply rid).OnTime := by
  unfold State.handlerReply
  split
  · exact h.modCpu _
  · exact .ite (h.modCpu _) (((h.modCpu _).landReply ..).modCpu _)

theorem State.OnTime.homeRead {s : State} (h : s.OnTime) (home u) : (s.homeRead home u).OnTime := h.modCore ..

theorem execPoolService_onTime {s : State} (h : s.OnTime) : OutOnTime (execPoolService s) := by
  unfold execPoolService
  split
  · extract_lets u
    split
    · exact h
    · extract_lets r s1 s2 counted s3
      have h1 : s1.OnTime := (State.OnTime.ite h (h.publish ..)).gathered ..
      have h2 : s2.OnTime := (h1.homeRead ..).modCore ..
      have h3 : s3.OnTime := .ite (h2.modKernel ..) h2
      split
      · exact h3.sendReply ..
      · exact h3
  · exact h

theorem State.OnTime.wakeRing {s : State} (h : s.OnTime) (u) : (s.wakeRing u).OnTime := by
  unfold State.wakeRing
  extract_lets go
  have hgo : ∀ {s : State} w, s.OnTime → (go s w).OnTime := by
    intro s w h
    unfold go
    split
    · split
      · exact h
      · exact h.schedule ..
    · exact h
  exact hgo _ (hgo _ h)

theorem State.OnTime.ringDo {s : State} (h : s.OnTime) (q u) : (s.ringDo q u).OnTime := by
  unfold State.ringDo
  extract_lets k
  split
  · exact h.modCore ..
  · extract_lets s1 s2 s3
    have h1 : s1.OnTime := .ite h ((h.publish ..).gathered ..)
    have h2 : s2.OnTime := h1.modCore ..
    have h3 : s3.OnTime := .ite h2 (h2.sendReply ..)
    exact h3.wakeRing _

theorem execRingService_onTime {s : State} (h : s.OnTime) : OutOnTime (execRingService s) := by
  unfold execRingService
  split
  · split
    · exact .ite ((h.homeRead ..).modCore ..) ((h.homeRead ..).ringDo ..)
    · exact h
  · exact h

theorem execRingWaitServiced_onTime {s : State} (h : s.OnTime) : OutOnTime (execRingWaitServiced s) := by
  unfold execRingWaitServiced
  split
  · split
    · exact .ite (h.ringDo ..) h
    · exact h
  · exact h

/-! ### Machine/Landing.lean -/

theorem State.OnTime.onCore {s : State} (h : s.OnTime) (c) {f : State → State} (k : ∀ t, t.OnTime → (f t).OnTime) :
    (s.onCore c f).OnTime := (k _ (h.withCur c)).withCur _

theorem State.OnTime.landEff {s : State} (h : s.OnTime) (l e) : (s.landEff l e).OnTime := by
  unfold State.landEff
  split
  · exact h.performUpTo ..
  · exact h.landGlobal ..
  · exact h.landReply ..
  · exact h.touchRead ..
  · exact h.modCpu _
  · exact h.setFlags ..
  · exact h.modCpu _
  · exact h.pendTrap ..
  · exact h.pendTrap ..
  · exact h.modCpu _
  · exact h.modCpu _
  · exact h.modCpu _

theorem State.OnTime.landNow {s : State} (h : s.OnTime) (l) : (s.landNow l).OnTime := by
  unfold State.landNow
  extract_lets s1 s2 s3
  have h2 : s2.OnTime := (h.modCpu _).fold (fun _ _ h => h.landEff ..) _
  have h3 : s3.OnTime := by
    unfold s3
    split
    · exact h2.postTokens ..
    · exact h2
  exact h3.modCpu _

theorem State.OnTime.landOne {s : State} (h : s.OnTime) (l) : (s.landOne l).OnTime := by
  refine .ite (h.modCpu _) ?_
  split
  · exact h.modCpu _
  · exact .ite ((h.chosen.modCpu _).schedule ..) (h.landNow _)

theorem execResultLanding_onTime {s : State} (h : s.OnTime) : OutOnTime (execResultLanding s) := by
  unfold execResultLanding
  split
  · exact h.landOne _
  · exact h

theorem execLateAccessArrival_onTime {s : State} (h : s.OnTime) : OutOnTime (execLateAccessArrival s) := by
  unfold execLateAccessArrival
  split
  · exact h.modCore ..
  · exact h

theorem execGroup4ReadPromotion_onTime {s : State} (h : s.OnTime) : OutOnTime (execGroup4ReadPromotion s) := by
  unfold execGroup4ReadPromotion
  split
  · extract_lets k
    split
    · exact h
    · exact .ite h (h.modCore ..)
  · exact h

theorem State.OnTime.rereadLandings {s : State} (h : s.OnTime) (ls) : (s.rereadLandings ls).1.OnTime := by
  induction ls generalizing s with
  | nil => exact h
  | cons l ls ih => exact ih (.iteFst (h.readEffs ..) h)

theorem State.OnTime.rereadRange {s : State} (h : s.OnTime) (w lo n none_) : (s.rereadRange w lo n none_).1.OnTime := by
  unfold State.rereadRange
  split
  · exact h
  · extract_lets r
    have hr : r.1.OnTime := (h.touchRuns _).sampleRuns ..
    split
    · exact hr
    · exact hr

/-- However a replay ends, it ends on time. -/
def SettledOnTime : Settled → Prop
  | .ok s => s.OnTime
  | .escalate s _ _ _ => s.OnTime

theorem State.OnTime.settleLines {s : State} (h : s.OnTime) (w ls) : SettledOnTime (s.settleLines w ls) := by
  induction ls generalizing s with
  | nil => exact h
  | cons l ls ih =>
    have hr := h.rereadRange w (64 * l) 64 (BitVec.ofNat 64 (64 * l))
    unfold State.settleLines
    split
    · next he => rw [he] at hr; exact hr
    · next he => rw [he] at hr; exact ih (hr.modCpu _)

theorem State.OnTime.settleSlots {s : State} (h : s.OnTime) (w q ks) : SettledOnTime (s.settleSlots w q ks) := by
  induction ks generalizing s with
  | nil => exact h
  | cons k ks ih =>
    unfold State.settleSlots
    extract_lets lo bad one
    have hone : ∀ a, a.1.OnTime → ∀ g ∈ bad, (one a g).1.OnTime := by
      intro a ha g _
      unfold one
      split
      · exact ha
      · have hr := ha.rereadRange w (lo + 64 * g) 64 (Config.poisonAddr q.seq)
        split
        · next he => rw [he] at hr; exact hr
        · next he => rw [he] at hr; exact hr
    have hf := List.foldlRecOn (motive := fun a => a.1.OnTime) bad one (b := (s, .ok [])) h hone
    split
    · next he => rw [he] at hf; exact hf
    · next he => rw [he] at hf; exact ih (hf.modCpu _)

theorem State.OnTime.reexecute {s : State} (h : s.OnTime) (rs) : (s.reexecute rs).OnTime := by
  induction rs generalizing s with
  | nil => exact h
  | cons r rs ih =>
    unfold State.reexecute
    extract_lets sto x
    refine .ite (ih h) ?_
    split
    · exact ih (h.modCpu _)
    · exact ih h

theorem State.OnTime.settle {s : State} (h : s.OnTime) (q) : SettledOnTime (s.settle q) := by
  unfold State.settle
  split
  · exact h
  · next w _ =>
    split
    · exact h
    · extract_lets m
      have hl := h.settleLines w (m.1 ++ w.loadedLines s.cpu.marks m.2.2).eraseDups
      split
      · next he => rw [he] at hl; exact hl
      · next t he =>
        rw [he] at hl
        have hs := State.OnTime.settleSlots hl w q m.2.1
        split
        · next he => rw [he] at hs; exact hs
        · next u he =>
          rw [he] at hs
          extract_lets s1 s2
          have h2 : s2.OnTime := (State.OnTime.modCpu hs _).reexecute _
          split
          · exact h2
          · exact h2

theorem State.OnTime.replay {s : State} (h : s.OnTime) : s.replay.OnTime := by
  unfold State.replay
  extract_lets t
  have ht : t.OnTime := h.modCpu _
  split
  · exact ht
  · next q _ =>
    have hs := (ht.countReplay t.cur q.addr.toNat).settle q
    split
    · next he => rw [he] at hs; exact hs
    · next he => rw [he] at hs; exact (State.OnTime.countEscalation hs ..).pendTrap ..

theorem execReplayRereadDone_onTime {s : State} (h : s.OnTime) : OutOnTime (execReplayRereadDone s) := by
  unfold execReplayRereadDone
  split
  · refine .ite h (h.onCore _ fun s h => .ite ((h.rereadLandings _).modCpu _) ?_)
    split
    · exact (h.rereadIndex _).modCpu _
    · exact h.replay
  · exact h

/-! ### Machine/Walker.lean -/

theorem State.OnTime.startOn {s : State} (h : s.OnTime) (k n c at_) : (s.startOn k n c at_).OnTime := (h.modCore ..).modCore ..

theorem execIterationStart_onTime {s : State} (h : s.OnTime) : OutOnTime (execIterationStart s) := by
  unfold execIterationStart
  split
  · split
    · exact h
    · refine .ite h ?_
      split
      · exact h
      · exact .ite (h.schedule ..) (((h.startOn ..).modKernel ..).schedule ..)
  · exact h

theorem execHaltComplete_onTime {s : State} (h : s.OnTime) : OutOnTime (execHaltComplete s) := by
  unfold execHaltComplete
  extract_lets c s1 s2 kid s3 s4
  have h1 : s1.OnTime := h.modCpu _
  have h2 : s2.OnTime := .ite h1.endCycle h1
  have h4 : s4.OnTime := (h.modCpu _).modKernel ..
  refine .ite h ?_
  split
  · exact h2.takeTrap ..
  · exact (((h4.withCurDone _).schedule ..).schedule ..).schedule ..

theorem State.OnTime.successors {s : State} (h : s.OnTime) (a ok) : (s.successors a ok).OnTime := by
  unfold State.successors
  extract_lets go
  have hgo : ∀ {s : State} n, s.OnTime → (go s n).OnTime := fun _ h => .ite h (h.accept ..)
  split
  · exact h
  · exact .ite (hgo _ (hgo _ h)) (hgo _ h)

theorem State.OnTime.wakeTenant {s : State} (h : s.OnTime) (t) : (s.wakeTenant t).OnTime :=
  (h.fold (fun _ _ h => h.schedule ..) _).fold (fun _ _ h => h.schedule ..) _

theorem State.OnTime.shutIfIdle {s : State} (h : s.OnTime) : s.shutIfIdle.OnTime := .ite ((h.withHub _).schedule ..) h

theorem State.OnTime.endReleases {s : State} (h : s.OnTime) (cs) : (s.endReleases cs).1.OnTime := by
  induction cs generalizing s with
  | nil => exact h
  | cons c cs ih => exact ih (h.endRelease _)

theorem execKernelEnd_onTime {s : State} (h : s.OnTime) : OutOnTime (execKernelEnd s) := by
  unfold execKernelEnd
  split
  · split
    · exact h
    · next k _ =>
      extract_lets e r src act s1 s2 s3 s4
      have h1 : s1.OnTime := (h.endReleases _).fold (fun _ _ h => h.modCore ..) _
      have h2 : s2.OnTime := h1.fold (fun _ _ h => h.modCore ..) _
      have h4 : s4.OnTime := ((h2.withKernels _).logEntry ..).successors ..
      exact .ite (h.schedule ..) (.ite ((h.breakKernel k).schedule ..) (.ite h (.ite (h.schedule ..) (h4.wakeTenant _).shutIfIdle)))
  · exact h

/-! ### Machine/Launch.lean -/

theorem State.OnTime.nodeError {s : State} (h : s.OnTime) (a code) : (s.nodeError a code).OnTime := (h.logEntry ..).successors ..

theorem State.OnTime.makePools {s : State} (h : s.OnTime) (kid t cores ds) : (s.makePools kid t cores ds).1.OnTime := by
  induction ds generalizing s with
  | nil => exact h
  | cons d ds ih => exact .iteFst (ih h) (.iteFst (ih h) (ih ((h.modCore ..).overwritten _)))

theorem State.OnTime.makeRings {s : State} (h : s.OnTime) (kid cores i ds) : (s.makeRings kid cores i ds).1.OnTime := by
  induction ds generalizing s i with
  | nil => exact h
  | cons d ds ih => exact .iteFst (ih h _) (ih ((h.modCore ..).overwritten _) _)

theorem State.OnTime.launch {s : State} (h : s.OnTime) (a r argp) : (s.launch a r argp).OnTime := by
  unfold State.launch
  extract_lets k cores t
  have ht : t.OnTime := h.withNextKid _
  clear_value cores
  split
  · exact (ht.withKernels _).chosen.schedule ..
  · exact (ht.withKernels _).schedule ..

theorem execKernNode_onTime {s : State} (h : s.OnTime) : OutOnTime (execKernNode s) := by
  unfold execKernNode
  split
  · extract_lets t refuse
    have ht : t.OnTime := h.takeActivation _
    have hrefuse : ∀ code, (refuse code).OnTime := fun _ => (ht.logEntry ..).successors ..
    split
    · exact ht.nodeError ..
    · refine .ite (ht.nodeError ..) ?_
      split
      · exact hrefuse _
      · split
        · exact hrefuse _
        · exact ht.launch ..
  · exact h

theorem State.OnTime.gangStarts {s : State} (h : s.OnTime) (bound ds) : (s.gangStarts bound ds).1.OnTime := by
  induction ds generalizing s with
  | nil => exact h
  | cons d ds ih => exact ih h.chosen

theorem State.OnTime.freshCores {s : State} (h : s.OnTime) (cores known) : (s.freshCores cores known).OnTime := h

theorem State.OnTime.placeKernel {s : State} (h : s.OnTime) (k cores stagedImage) : (s.placeKernel k cores stagedImage).OnTime := by
  unfold State.placeKernel
  extract_lets t image guards k' s1 s2 p r g first k'' s3
  have h2 : s2.OnTime := (h.fold (fun _ _ h => h.modCore ..) _).freshCores ..
  have h3 : s3.OnTime := ((h2.makePools ..).makeRings ..).gangStarts ..
  exact (h3.withKernels _).schedule ..

theorem execKernelPlacement_onTime {s : State} (h : s.OnTime) : OutOnTime (execKernelPlacement s) := by
  unfold execKernelPlacement
  split
  · split
    · exact h
    · refine .ite h ?_
      split
      · exact .ite h (.ite (h.schedule ..) (h.placeKernel ..))
      · refine .ite h ?_
        split
        · exact .ite (h.schedule ..) ((h.placeKernel ..).fold (fun _ _ h => h.schedule ..) _)
        · split
          · exact h.schedule ..
          · exact h
  · exact h

/-- Translations brought into a die's TLB leave its DCLK. -/
theorem Die.foldl_tlbAdd_dclk (d : Die) (es : List Leaf) (f : Leaf → TlbEntry) :
    (es.foldl (fun d l => d.tlbAdd (f l)) d).dclk = d.dclk := by
  induction es generalizing d with
  | nil => rfl
  | cons e es ih => exact ih _

theorem execStagingComplete_onTime {s : State} (h : s.OnTime) : OutOnTime (execStagingComplete s) := by
  unfold execStagingComplete
  split
  · split
    · exact h
    · extract_lets ctx vas image leaves s1 s2 g s3
      have h1 : s1.OnTime := h.fold (fun _ _ h => h.modDie _ (Die.foldl_tlbAdd_dclk ..)) _
      have h2 : s2.OnTime := h1.fold (fun _ _ h => h.modCore ..) _
      exact .ite h ((h2.modKernel ..).schedule ..)
  · exact h

/-! ### Machine/Memories.lean -/

theorem execWsBackstopRefresh_onTime {s : State} (h : s.OnTime) : OutOnTime (execWsBackstopRefresh s) := by
  unfold execWsBackstopRefresh
  split
  · exact .ite (h.schedule ..) ((h.refreshGroup ..).schedule ..)
  · exact h

theorem execWsRefreshEnd_onTime {s : State} (h : s.OnTime) : OutOnTime (execWsRefreshEnd s) := by
  unfold execWsRefreshEnd
  split
  · exact .ite h (.ite (h.modDie _ rfl) ((h.modDie _ rfl).refreshGroup ..))
  · exact h

theorem execHbmRefresh_onTime {s : State} (h : s.OnTime) : OutOnTime (execHbmRefresh s) := by
  unfold execHbmRefresh
  split
  · exact h.chosen.modDie _ rfl
  · exact h

theorem State.OnTime.retire {s : State} (h : s.OnTime) (d ch) : (s.retire d ch).OnTime := by
  unfold State.retire
  extract_lets t gone walk die core
  have ht : t.OnTime := h.modDie _ rfl
  exact (ht.withDies (f := die) fun _ => rfl).withCores _

theorem execHbmLaneRepair_onTime {s : State} (h : s.OnTime) : OutOnTime (execHbmLaneRepair s) := by
  unfold execHbmLaneRepair
  split
  · exact .ite ((h.retire ..).withHub _) ((((h.chosen.modDie _ rfl).dieError ..).withHub _).schedule ..)
  · exact h

theorem execHbmRepairPauseEnd_onTime {s : State} (h : s.OnTime) : OutOnTime (execHbmRepairPauseEnd s) := by
  unfold execHbmRepairPauseEnd
  split
  · exact h.modDie _ rfl
  · exact h

theorem State.OnTime.markLine {s : State} (h : s.OnTime) (sp line) : (s.markLine sp line).OnTime := by
  cases sp with
  | plate c => exact h.modCore ..
  | hbm | tier2 | wstore | peer | host => exact h

theorem State.OnTime.hubMemoryError {s : State} (h : s.OnTime) (line uc) : (s.hubMemoryError line uc).OnTime :=
  .ite ((h.hubError ..).withHub _) (h.hubError ..)

theorem State.OnTime.spoilFlash {s : State} (h : s.OnTime) (place) : (s.spoilFlash place).OnTime :=
  .ite (h.withHub _) (h.withHub _)

theorem State.OnTime.scrubAccess {s : State} (h : s.OnTime) (sp line) : (s.scrubAccess sp line).OnTime := by
  unfold State.scrubAccess
  split
  · exact h
  · exact h
  · exact h
  · split
    · exact h.chosen.modDie _ rfl
    · exact h

theorem State.OnTime.lineError {s : State} (h : s.OnTime) (sp line uc info) : (s.lineError sp line uc info).OnTime := by
  unfold State.lineError
  extract_lets core r t
  have ht : t.OnTime := by
    unfold t
    split
    · extract_lets u
      have hu : u.OnTime := (h.dieError ..).lifeAdd ..
      clear_value u
      split
      · exact hu.lifeAdd ..
      · exact hu
    · exact .ite (h.hubError ..) h
  exact .ite (ht.markLine ..) ht

theorem execPatrolScrub_onTime {s : State} (h : s.OnTime) : OutOnTime (execPatrolScrub s) := by
  unfold execPatrolScrub
  split
  · split
    · exact h
    · exact h.hubMemoryError ..
    · exact State.OnTime.ite ((h.hubError ..).spoilFlash _) (h.hubError ..)
  · extract_lets t
    have ht : t.OnTime := h.scrubAccess ..
    split
    · exact ht
    · exact ht.lineError ..
  · exact h

theorem execCxlPortFailure_onTime {s : State} (h : s.OnTime) : OutOnTime (execCxlPortFailure s) := by
  unfold execCxlPortFailure
  split
  · exact (h.hubError ..).withHub _
  · exact h

theorem State.OnTime.headerRecord {s : State} (h : s.OnTime) (d port kind sp) : (s.headerRecord d port kind sp).OnTime :=
  .ite (h.hubError ..) (.ite (h.hubError ..)
    (.ite ((h.dieError ..).lifeAdd ..) (.ite ((h.dieError ..).lifeAdd ..) ((h.dieError ..).lifeAdd ..))))

/-- A packet changed on its way between dies still comes when it was due. -/
theorem State.OnTime.mapPacket {s : State} (h : s.OnTime) (num f) : (s.mapPacket num f).OnTime := by
  unfold State.mapPacket
  extract_lets one out item
  have hitem : ∀ a, (item a).due = a.due := by
    intro a
    unfold item
    split <;> rfl
  exact State.OnTime.withItems (h.withDies (f := fun d => { d with outs := d.outs.map out }) fun _ => rfl) hitem

/-- Steps made late are taken off the agenda and scheduled anew. -/
theorem State.OnTime.delaySteps {s : State} (h : s.OnTime) (n late) : (s.delaySteps n late).OnTime :=
  State.OnTime.fold (fun _ _ h => h.schedule ..) _ (h.filter (p := fun a => !late a.what) rfl rfl fun _ => rfl)

theorem State.OnTime.resentOnce {s : State} (h : s.OnTime) (c op) : (s.resentOnce c op).OnTime := by
  unfold State.resentOnce
  extract_lets n t late
  have ht : t.OnTime := h.chosen
  split
  · exact (ht.mapPacket ..).withDies fun _ => rfl
  · exact ht.modTenant ..
  · exact ht
  · exact ht.delaySteps ..

theorem State.OnTime.loseRun {s : State} (h : s.OnTime) (die atLanding p va lo n r) :
    (s.loseRun die atLanding p va lo n r).1.OnTime := by
  unfold State.loseRun
  extract_lets zeros q
  refine .iteFst ?_ h
  split
  · exact h
  · exact h.lifeAdd ..
  · exact .iteFst h (h.sampleRun ..)

theorem State.OnTime.readLost {s : State} (h : s.OnTime) (p va lo n) : (s.readLost p va lo n).OnTime := by
  unfold State.readLost
  extract_lets c now eff landing
  have hnow : ∀ s r, s.OnTime → (now s r).1.OnTime := fun _ _ h => h.loseRun ..
  have heff : ∀ s e, s.OnTime → (eff s e).1.OnTime := fun _ _ h => State.OnTime.mapWith (fun _ _ h => h.loseRun ..) _ h
  have hlanding : ∀ m s l, s.OnTime → (landing m s l).1.OnTime := fun _ _ _ h => .iteFst (State.OnTime.mapWith heff _ h) h
  split
  · exact h.modCore ..
  · exact (State.OnTime.mapWith (hlanding _) _ h).modCore ..
  · refine State.OnTime.modCore (State.OnTime.mapWith (fun _ _ h => ?_) _ h) ..
    exact .iteFst (State.OnTime.mapWith hnow _ h) h
  · split
    · exact (State.OnTime.mapWith hnow _ h).modCore ..
    · exact h
  · exact h.withInbound _
  · exact h

theorem State.OnTime.beatBad {s : State} (h : s.OnTime) (p va k) : (s.beatBad p va k).OnTime := by
  unfold State.beatBad
  split
  · exact h.readLost ..
  · exact h
  · exact h.mapPacket ..

theorem execHeaderError_onTime {s : State} (h : s.OnTime) : OutOnTime (execHeaderError s) := by
  unfold execHeaderError
  split
  · split
    · exact (h.headerRecord ..).beatBad ..
    · exact (h.headerRecord ..).resentOnce ..
  · exact h

theorem State.OnTime.dropPacket {s : State} (h : s.OnTime) (num) : (s.dropPacket num).OnTime := by
  unfold State.dropPacket
  extract_lets out die gone s1 sent s2
  have h1 : s1.OnTime :=
    State.OnTime.filter (h.withDies (f := die) fun _ => rfl) (p := fun a => !gone a) rfl rfl fun _ => rfl
  have h2 : s2.OnTime := h1.withLinks _
  exact h2.fold (fun _ _ h => h.acked ..) _

theorem State.OnTime.castLost {s : State} (h : s.OnTime) (id c) : (s.castLost id c).OnTime := (h.withCasts _).postWaiting.wakeCast _

theorem State.OnTime.inboundFailed {s : State} (h : s.OnTime) (id) : (s.inboundFailed id).OnTime := h.withInbound _

theorem State.OnTime.packetLost {s : State} (h : s.OnTime) (p va) : (s.packetLost p va).OnTime := by
  unfold State.packetLost
  extract_lets c trap
  split
  · exact (h.inboundFailed _).settled ..
  · exact (h.inboundFailed _).settled ..
  · exact (h.readLost ..).settled ..
  · exact (h.readLost ..).settled ..
  · exact (((h.copyStatus ..).castLost ..).copyPart ..).settled ..
  · exact (h.copyStatus ..).settled ..
  · exact ((h.modCore ..).pendTrap ..).settled ..
  · exact (h.pendTrap ..).settled ..

theorem State.OnTime.forgetEvent {s : State} (h : s.OnTime) (p) : (s.forgetEvent p).OnTime :=
  h.filter (p := fun a => !p a.what) rfl rfl fun _ => rfl

theorem execPacketAbandon_onTime {s : State} (h : s.OnTime) : OutOnTime (execPacketAbandon s) := by
  unfold execPacketAbandon
  split
  · next d port c op _ =>
    extract_lets t
    have ht : t.OnTime := (h.headerRecord ..).lifeAdd ..
    split
    · exact (ht.dropPacket _).packetLost ..
    · exact (ht.dropPacket _).packetLost ..
    · split
      · exact (ht.forgetEvent _).finishCopy ..
      · exact (ht.forgetEvent _).lifeAdd ..
    · exact (ht.forgetEvent _).pendTrap ..
    · exact (ht.modTenant ..).pendTrap ..
    · exact ((ht.forgetEvent _).modCore ..).pendTrap ..
  · exact h

theorem execCoreStateParity_onTime {s : State} (h : s.OnTime) : OutOnTime (execCoreStateParity s) := by
  unfold execCoreStateParity
  split
  · extract_lets uc s1 n s2
    have h2 : s2.OnTime := (h.dieError ..).lifeAdd ..
    split
    · exact h2.modCore ..
    · exact h2.modCore ..
    · exact h2.pendTrap ..
  · exact h

theorem State.OnTime.modBank {s : State} (h : s.OnTime) (die bank f) : (s.modBank die bank f).OnTime := by
  unfold State.modBank
  split
  · exact h.modDie _ rfl
  · split
    · exact h.withHub _
    · exact h

theorem execEbstatWrite_onTime {s : State} (h : s.OnTime) : OutOnTime (execEbstatWrite s) := by
  unfold execEbstatWrite
  split
  · exact h.modBank ..
  · exact h

theorem execEbceWrite_onTime {s : State} (h : s.OnTime) : OutOnTime (execEbceWrite s) := by
  unfold execEbceWrite
  split
  · exact h.modBank ..
  · exact h

theorem State.OnTime.countSeconds {s : State} (h : s.OnTime) (d) : (s.countSeconds d).OnTime := (h.lifeAdd ..).modDie _ rfl

theorem State.OnTime.writeLife {s : State} (h : s.OnTime) : s.writeLife.OnTime :=
  (h.fold (fun _ _ h => h.countSeconds _) _).withHub _

theorem execLifeRecordUpdate_onTime {s : State} (h : s.OnTime) : OutOnTime (execLifeRecordUpdate s) := h.writeLife.schedule ..

/-! ### Machine/Biryar.lean -/

theorem State.OnTime.sendPart {s : State} (h : s.OnTime) (port t id x) : (s.sendPart port t id x).OnTime := by
  unfold State.sendPart
  extract_lets isRead
  split
  · exact h
  · refine State.OnTime.request ?_ ..
    exact h

theorem State.OnTime.takeIn {s : State} (h : s.OnTime) (port m seq t p) : (s.takeIn port m seq t p).OnTime := by
  unfold State.takeIn
  extract_lets s1 id x
  have h1 : s1.OnTime := h.modLink ..
  split
  · exact (h1.chosen.schedule ..).answerPacket ..
  · extract_lets parts s2
    have h2 : s2.OnTime := by
      refine State.OnTime.fold (fun _ _ h => h.sendPart ..) _ ?_
      exact h1
    exact .ite (h2.inboundBack ..) h2

theorem State.OnTime.takePeerPacket {s : State} (h : s.OnTime) (port m seq p) : (s.takePeerPacket port m seq p).OnTime := by
  unfold State.takePeerPacket
  split
  · exact h.answerPacket ..
  · refine .ite (.ite (h.withInbound _) (h.answerPacket ..)) ?_
    split
    · exact h.takeIn ..
    · exact h.answerPacket ..

theorem State.OnTime.relay {s : State} (h : s.OnTime) (f) : (s.relay f).OnTime := by
  unfold State.relay
  split
  · exact h
  · exact h.pushFlits ..

theorem State.OnTime.peerAnswers {s : State} (h : s.OnTime) (m seq bytes marked) : (s.peerAnswers m seq bytes marked).OnTime := by
  unfold State.peerAnswers
  split
  · exact h.writeSpace ..
  · exact h.writeSpace ..
  · exact h

theorem State.OnTime.packetIn {s : State} (h : s.OnTime) (port f m) : (s.packetIn port f m).OnTime := by
  unfold State.packetIn
  split
  · exact h.peerAnswers ..
  · exact h.takePeerPacket ..

theorem State.OnTime.ackFlit {s : State} (h : s.OnTime) (f) : (s.ackFlit f).OnTime := by
  unfold State.ackFlit
  extract_lets m seq t
  have ht : t.OnTime := h.acked ..
  split
  · exact h
  · refine .ite (h.schedule ..) ?_
    split
    · exact (ht.readFailed ..).settled ..
    · exact (ht.copyStatus ..).settled ..
    · exact ht

theorem State.OnTime.dataFlit {s : State} (h : s.OnTime) (port f m) : (s.dataFlit port f m).OnTime := by
  unfold State.dataFlit
  extract_lets s1 last s2
  have h1 : s1.OnTime := (h.modPort ..).control ..
  have h2 : s2.OnTime := h1.modLink ..
  refine .ite (h1.relay _) ?_
  split
  · exact .ite (h2.packetIn ..) h2
  · exact h2

theorem execBiryarFlitReceive_onTime {s : State} (h : s.OnTime) : OutOnTime (execBiryarFlitReceive s) := by
  unfold execBiryarFlitReceive
  split
  · refine .ite (h.control ..) ?_
    split
    · exact .ite h (h.dataFlit ..)
    · exact h.modPort ..
    · exact h.schedule ..
    · exact .ite (h.relay _) (h.ackFlit _)
    · exact h
  · exact h

theorem State.OnTime.cutPath {s : State} (h : s.OnTime) (on) : (s.cutPath on).OnTime := by
  unfold State.cutPath
  extract_lets mine gone ms
  exact State.OnTime.fold (fun _ _ h => h.schedule ..) _ (h.filter (p := fun a => !gone a) rfl rfl fun _ => rfl)

theorem State.OnTime.downPort {s : State} (h : s.OnTime) (port) : (s.downPort port).OnTime := (h.modPort ..).cutPath _

theorem execPortDown_onTime {s : State} (h : s.OnTime) : OutOnTime (execPortDown s) := by
  unfold execPortDown
  split
  · exact .ite h (.ite (h.schedule ..) (h.downPort _))
  · exact h

theorem State.OnTime.resend {s : State} (h : s.OnTime) (m p) : (s.resend m p).OnTime := by
  unfold State.resend
  extract_lets s1 w applied s2
  have h1 : s1.OnTime := h.modLink ..
  have h2 : s2.OnTime := .ite (h1.fold (fun _ _ h => h.portOp ..) _) h1
  refine .ite h ?_
  split
  · exact ((h.modLink ..).modPort ..).launchPacket ..
  · exact h2.chosen.peerLost ..

theorem State.OnTime.loseHeld {s : State} (h : s.OnTime) (m held) : (s.loseHeld m held).OnTime :=
  .ite h ((h.modLink ..).fold (fun _ _ h => h.peerLost ..) _)

theorem execPathResend_onTime {s : State} (h : s.OnTime) : OutOnTime (execPathResend s) := by
  unfold execPathResend
  split
  · split
    · exact (h.fold (fun _ _ h => h.resend ..) _).loseHeld ..
    · exact h
  · exact h

theorem execBiryarNack_onTime {s : State} (h : s.OnTime) : OutOnTime (execBiryarNack s) := by
  unfold execBiryarNack
  split
  · extract_lets p again run lane n fails s1 s2 s3
    have h2 : s2.OnTime := (h.chosen.modPort ..).lifeAdd ..
    have h3 : s3.OnTime := .ite (h2.schedule ..) h2
    exact .ite h (.ite h3 (((h3.dieError ..).lifeAdd ..).downPort _))
  · exact h

theorem execLaneFallback_onTime {s : State} (h : s.OnTime) : OutOnTime (execLaneFallback s) := by
  unfold execLaneFallback
  split
  · extract_lets d t w lanes left
    have ht : t.OnTime := (h.dieError ..).lifeAdd ..
    split
    · exact ht.downPort _
    · exact (ht.modPort ..).chosen.modDie _ rfl
  · exact h

theorem execBiryarPortTrained_onTime {s : State} (h : s.OnTime) : OutOnTime (execBiryarPortTrained s) := by
  unfold execBiryarPortTrained
  split
  · split
    · exact h.modPort ..
    · exact h.modPort ..
  · exact h

theorem State.OnTime.withLink {s : State} (h : s.OnTime) (m) : (s.withLink m).OnTime := .ite h (h.withLinks _)

theorem State.OnTime.osWrite {s : State} (h : s.OnTime) (t va bs) : (s.osWrite t va bs).OnTime := by
  refine h.fold (fun s p h => ?_) _
  split
  · exact h.writeSpace ..
  · exact h

theorem State.OnTime.setPath {s : State} (h : s.OnTime) (m k up) : (s.setPath m k up).OnTime := by
  unfold State.setPath
  split
  · exact h
  · exact .ite (h.modLink ..) ((h.modLink ..).cutPath _)

theorem State.OnTime.putTable {s t : State} (h : s.OnTime) (ht : t.OnTime) : (s.putTable t).OnTime := .ite h ht

theorem State.OnTime.windowWrite {s : State} (h : s.OnTime) (off v) : (s.windowWrite off v).OnTime := by
  unfold State.windowWrite
  split
  · exact h.modPort ..
  · exact .ite (h.modBank ..) (.ite (h.modBank ..) h)
  · exact h

theorem State.OnTime.moveFrame {s : State} (h : s.OnTime) (src dst pte) : (s.moveFrame src dst pte).OnTime :=
  ((h.writeSpace ..).fold (fun _ _ h => h.markLine ..) _).installPtes _

theorem State.OnTime.osPut {s : State} (h : s.OnTime) (w) : (s.osPut w).OnTime := by
  unfold State.osPut
  split
  · exact h.modPort ..
  · exact (h.withLink _).modLink ..
  · exact (h.withLink _).modLink ..
  · exact h.putTable (h.modOut ..)
  · exact h.putTable (h.withHub _)
  · exact h.installPtes _
  · exact h.modTenant ..
  · exact h.modCore ..
  · exact h.withHub _
  · exact h.setPath ..
  · exact h.osWrite ..
  · exact h.modTenant ..
  · exact h.windowWrite ..
  · exact h.withHub _
  · exact h.moveFrame ..
  · split
    · exact h.modTenant ..
    · exact h

theorem execBiryarStatusWrite_onTime {s : State} (h : s.OnTime) : OutOnTime (execBiryarStatusWrite s) := by
  unfold execBiryarStatusWrite
  split
  · exact h.osPut _
  · exact h

/-! ### Machine/Branch.lean, Cfg.lean, Csr.lean -/

theorem State.OnTime.endBranch {s : State} (h : s.OnTime) (i target annul) : (s.endBranch i target annul).OnTime := by
  cases target with
  | some t => exact h.modCpu _
  | none => exact (h.seq _).modCpu _

theorem branchIssue_onTime {s : State} (h : s.OnTime) {n : Nat} (i cond nul) (disp : BitVec n) (feeds) :
    OutOnTime (branchIssue i cond nul disp feeds s) := by
  unfold branchIssue
  split
  · exact h.preciseTrap ..
  · exact (State.OnTime.ite ((h.beginIssue _).modCpu _) (h.beginIssue _)).endBranch ..

theorem jumpEffect_onTime {s : State} (h : s.OnTime) (i d target) : (jumpEffect i d target s).OnTime :=
  ((h.beginIssue _).resultX ..).endBranch ..

theorem execJal_onTime {s : State} (h : s.OnTime) (d disp) : OutOnTime (execJal d disp s) := by
  unfold execJal
  extract_lets i
  split
  · exact h.preciseTrap ..
  · exact jumpEffect_onTime h ..

theorem execJalr_onTime {s : State} (h : s.OnTime) (d a imm) : OutOnTime (execJalr d a imm s) := by
  unfold execJalr
  extract_lets i target
  split
  · exact h.preciseTrap ..
  · exact .ite (h.preciseTrap ..) (jumpEffect_onTime h ..)

theorem loopIssue_onTime {s : State} (h : s.OnTime) (i lvl rot fti count len) : OutOnTime (loopIssue i lvl rot fti count len s) := by
  unfold loopIssue
  extract_lets c0 own first last s1 s2 n1 s3 r1 r2 u
  have h2 : s2.OnTime := .ite (h.beginIssue _) ((h.beginIssue _).modCpu _)
  split
  · exact h.preciseTrap ..
  · exact .ite (h.preciseTrap ..) ((((h2.modCpu _).seq _).seq _).modCpu _)

theorem execLbrk_onTime {s : State} (h : s.OnTime) (lvl) : OutOnTime (execLbrk lvl s) := h.issue _ _ fun _ h => h.modCpu _

theorem execVwset_onTime {s : State} (h : s.OnTime) (i a b) : OutOnTime (execVwset i a b s) := h.issue _ _ fun _ h => h.modCpu _

theorem execVwget_onTime {s : State} (h : s.OnTime) (d i) : OutOnTime (execVwget d i s) := h.issue _ _ fun _ h => h.resultXs ..

theorem execShpset_onTime {s : State} (h : s.OnTime) (a) : OutOnTime (execShpset a s) := h.issue _ _ fun _ h => h.modCpu _

theorem execFtset_onTime {s : State} (h : s.OnTime) (i a) : OutOnTime (execFtset i a s) := h.issue _ _ fun _ h => h.modCpu _

theorem execMset_onTime {s : State} (h : s.OnTime) (i a b) : OutOnTime (execMset i a b s) :=
  h.issue _ _ fun _ h => .ite (h.modCpu _) (h.modCpu _)

theorem execRotset_onTime {s : State} (h : s.OnTime) (i a) : OutOnTime (execRotset i a s) := h.issue _ _ fun _ h => h.modCpu _

theorem csrIssue_onTime {s : State} (h : s.OnTime) (i op d a idx) : OutOnTime (csrIssue i op d a idx s) := by
  refine h.issue _ _ fun s h => ?_
  split
  · exact h
  · exact (State.OnTime.ite (h.modCpu _) h).resultX ..

/-! ### Machine/Nodes.lean -/

theorem State.OnTime.openNode {s : State} (h : s.OnTime) (a) : (s.openNode a).1.OnTime := h.takeActivation _

theorem State.OnTime.nodeDone {s : State} (h : s.OnTime) (a) : (s.nodeDone a).OnTime := h.successors ..

theorem State.OnTime.follow {s : State} (h : s.OnTime) (a n known) : (s.follow a n known).OnTime := .ite h (h.chosen.accept ..)

theorem State.OnTime.nodeRelease {s : State} (h : s.OnTime) (l n sc known) : (s.nodeRelease l n sc known).OnTime := h.setFlags ..

theorem execCondNode_onTime {s : State} (h : s.OnTime) : OutOnTime (execCondNode s) := by
  unfold execCondNode
  split
  · next a _ =>
    have ho := h.openNode a
    split
    · next he => rw [he] at ho; exact ho.nodeError ..
    · next he =>
      rw [he] at ho
      refine .ite (ho.nodeError ..) ?_
      split
      · exact ho.nodeError ..
      · exact ho.follow ..
  · exact h

theorem execLoopNode_onTime {s : State} (h : s.OnTime) : OutOnTime (execLoopNode s) := by
  unfold execLoopNode
  split
  · next a _ =>
    have ho := h.openNode a
    split
    · next he => rw [he] at ho; exact ho.nodeError ..
    · next he =>
      rw [he] at ho
      refine .ite (ho.nodeError ..) ?_
      split
      · exact .ite (ho.follow ..) ((((ho.writeVa ..).fold (fun _ _ h => h.setFlags ..) _).nodeRelease ..).follow ..)
      · exact ho.nodeError ..
  · exact h

theorem State.OnTime.setJoined {s : State} (h : s.OnTime) (a known) : (s.setJoined a known).OnTime := h

theorem execJoinNode_onTime {s : State} (h : s.OnTime) : OutOnTime (execJoinNode s) := by
  unfold execJoinNode
  split
  · next a _ =>
    have ho := h.openNode a
    split
    · next he => rw [he] at ho; exact ho.nodeError ..
    · next he =>
      rw [he] at ho
      exact .ite (ho.nodeError ..) (.ite (((ho.writeVa ..).setJoined ..).nodeDone _) ((ho.writeVa ..).setJoined ..))
  · exact h

theorem State.OnTime.signalStore {s : State} (h : s.OnTime) (a va bs) : (s.signalStore a va bs).OnTime := by
  unfold State.signalStore
  extract_lets t
  have ht : t.OnTime := h.writeVa ..
  split
  · exact ht.nodeRelease ..
  · exact ht

theorem execSignalNode_onTime {s : State} (h : s.OnTime) : OutOnTime (execSignalNode s) := by
  unfold execSignalNode
  split
  · next a _ =>
    have ho := h.openNode a
    split
    · next he => rw [he] at ho; exact ho.nodeError ..
    · next he =>
      rw [he] at ho
      extract_lets va f v t
      have ht : t.OnTime := .ite (ho.signalStore ..) ho
      exact .ite (ho.nodeError ..) (.ite (ho.nodeError ..)
        (.ite (ht.nodeDone _) (.ite ((ht.modTenant ..).nodeDone _) (ht.nodeError ..))))
  · exact h

theorem execEndNode_onTime {s : State} (h : s.OnTime) : OutOnTime (execEndNode s) := by
  unfold execEndNode
  split
  · next a _ =>
    have ho := h.openNode a
    split
    · next he => rw [he] at ho; exact ho.nodeError ..
    · next he => rw [he] at ho; exact .ite (ho.nodeError ..) ho
  · exact h

theorem State.OnTime.hubRead {s : State} (h : s.OnTime) (t b row) : (s.hubRead t b row).1.OnTime := by
  unfold State.hubRead
  extract_lets pad
  split
  · exact h
  · exact .iteFst h ((h.touchRuns _).sampleRuns ..)

theorem State.OnTime.hubWrite {s : State} (h : s.OnTime) (t rel cmd pois run data) :
    (s.hubWrite t rel cmd pois run data).1.OnTime := by
  unfold State.hubWrite
  split
  · exact h
  · extract_lets segs
    refine .iteFst h (h.fold (fun s p h => ?_) _)
    split
    · exact (State.OnTime.ite ((h.writeSpace ..).writeSpace ..) (h.writeSpace ..)).nodeRelease ..
    · exact h

theorem State.OnTime.hubRows {s : State} (h : s.OnTime) (t rel cmd pattern src dst rs st) :
    (s.hubRows t rel cmd pattern src dst rs st).1.OnTime := by
  induction rs generalizing s st with
  | nil => exact h
  | cons r rs ih =>
    unfold State.hubRows
    extract_lets n got
    have hgot : got.1.OnTime := .iteFst h (h.hubRead ..)
    clear_value got
    split
    · exact hgot
    · exact .iteFst (hgot.hubWrite ..) (ih (hgot.hubWrite ..) _)

theorem State.OnTime.hubCommand {s : State} (h : s.OnTime) (t rel cmd pattern src dst) :
    (s.hubCommand t rel cmd pattern src dst).1.OnTime :=
  .iteFst h (.iteFst h (.iteFst h (h.hubRows ..)))

theorem State.OnTime.copyBegin {s : State} (h : s.OnTime) (a bs) : (s.copyBegin a bs).OnTime := by
  unfold State.copyBegin
  extract_lets t cmd
  split
  · exact .ite (h.schedule ..) ((h.withCopyNodes _).chosen.schedule ..)
  · exact h.nodeError ..

theorem execCopyNode_onTime {s : State} (h : s.OnTime) : OutOnTime (execCopyNode s) := by
  unfold execCopyNode
  split
  · next a _ =>
    have ho := h.openNode a
    split
    · next he => rw [he] at ho; exact ho.nodeError ..
    · next he =>
      rw [he] at ho
      split
      · exact .ite (ho.nodeError ..) (ho.copyBegin ..)
      · extract_lets r u drop
        have hu : u.OnTime := ho.hubCommand ..
        have hdrop : (drop u).OnTime := hu.withCopyNodes _
        exact .ite (hdrop.nodeError ..) (.ite (hdrop.nodeDone _) ((hu.withCopyNodes _).chosen.schedule ..))
  · exact h

/-! ### Machine/Host.lean -/

theorem State.OnTime.osNote {s : State} (h : s.OnTime) (what arg) : (s.osNote what arg).OnTime := h.withHub _

theorem execActivate_onTime {s : State} (h : s.OnTime) : OutOnTime (execActivate s) := by
  unfold execActivate
  split
  · split
    · exact h
    · exact .ite (h.osNote ..) (h.accept ..)
  · exact h

theorem execCancel_onTime {s : State} (h : s.OnTime) : OutOnTime (execCancel s) := by
  unfold execCancel
  split
  · split
    · exact .ite (h.markFaulted ..) h
    · exact h
  · exact h

theorem State.OnTime.hostReturns {s : State} (h : s.OnTime) (bs) : (s.hostReturns bs).OnTime := h.withHub _

theorem execHostRegisterWrite_onTime {s : State} (h : s.OnTime) : OutOnTime (execHostRegisterWrite s) := by
  unfold execHostRegisterWrite
  split
  · split
    · exact h.hostReturns _
    · exact h.modTenant ..
    · split
      · exact h.hostReturns _
      · exact h.hostReturns _
    · exact .ite (h.writeVa ..) h
    · exact h.withHub _
    · exact h.writeSpace ..
    · exact h.hostReturns _
    · exact h
  · exact h

theorem execVfEnable_onTime {s : State} (h : s.OnTime) : OutOnTime (execVfEnable s) := h.modTenant ..

theorem execVfDisable_onTime {s : State} (h : s.OnTime) : OutOnTime (execVfDisable s) := h.modTenant ..

theorem State.OnTime.armBackstops {s : State} (h : s.OnTime) : s.armBackstops.OnTime :=
  h.fold (fun _ _ h => h.fold (fun _ _ h => h.schedule ..) _) _

theorem execPowerOn_onTime {s : State} (h : s.OnTime) : OutOnTime (execPowerOn s) := by
  refine .ite h ?_
  split
  · exact (h.withHub _).armBackstops
  · exact h.withHub _

theorem State.OnTime.enumerate {s : State} (h : s.OnTime) (found) : (s.enumerate found).OnTime := h.withHub _

theorem State.OnTime.limitPower {s : State} (h : s.OnTime) (w) : (s.limitPower w).OnTime := .ite (h.withHub _) h

theorem execModuleOsInit_onTime {s : State} (h : s.OnTime) : OutOnTime (execModuleOsInit s) := by
  unfold execModuleOsInit
  split
  · refine .ite h ?_
    extract_lets maps s1 hub s2 s3 s4 hub' s5
    have h1 : s1.OnTime := h.fold (fun _ _ h => h.modDie _ rfl) _
    have h2 : s2.OnTime := h1
    have h3 : s3.OnTime := ((h2.limitPower _).enumerate _).fold (fun _ _ h => h.osPut _) _
    have h4 : s4.OnTime := h3.fold (fun _ _ h => h.osPut _) _
    have h5 : s5.OnTime := h4
    exact h5.schedule ..
  · exact h

/-- At reset no step is on its way, and no die has counted a cycle. -/
theorem State.reset_onTime : State.reset.OnTime :=
  ⟨.nil, fun _ h => absurd h List.not_mem_nil, fun d => by simp [State.reset, State.die, Die.reset]⟩

/-- Power that is lost takes the time with it: the die cycles are counted from the reset that follows. -/
theorem execPowerLoss_onTime (s : State) : OutOnTime (execPowerLoss s) :=
  State.reset_onTime.congr rfl rfl fun _ => rfl

theorem State.OnTime.answered {s : State} (h : s.OnTime) (a) : (s.answered a).OnTime := h.withHub _

theorem execSpdmRequest_onTime {s : State} (h : s.OnTime) : OutOnTime (execSpdmRequest s) := by
  unfold execSpdmRequest
  split
  · exact .ite (h.answered _) h
  · exact h

theorem execPldmReport_onTime {s : State} (h : s.OnTime) : OutOnTime (execPldmReport s) := .ite (h.answered _) h

theorem execPldmFwUpdate_onTime {s : State} (h : s.OnTime) : OutOnTime (execPldmFwUpdate s) := by
  unfold execPldmFwUpdate
  split
  · exact .ite h (h.withHub _)
  · exact h

theorem execPowerLimitSet_onTime {s : State} (h : s.OnTime) : OutOnTime (execPowerLimitSet s) := by
  unfold execPowerLimitSet
  split
  · exact .ite (h.limitPower _) h
  · exact h

theorem State.OnTime.throttle {s : State} (h : s.OnTime) (d n) : (s.throttle d n).OnTime :=
  h.fold (fun _ _ h => .ite ((h.setCore ..).lifeAdd ..) h) _

theorem State.OnTime.close {s : State} (h : s.OnTime) : s.close.OnTime :=
  ((h.withHub _).fold (fun _ _ h => h.schedule ..) _).shutIfIdle

theorem execThermalLimit_onTime {s : State} (h : s.OnTime) : OutOnTime (execThermalLimit s) := by
  unfold execThermalLimit
  split
  · extract_lets s1 hub s2 hot s3
    have h1 : s1.OnTime := (h.countSeconds _).modDie _ rfl
    have h3 : s3.OnTime := (h1.withHub _).fold (fun _ _ h => h.chosen.throttle ..) _
    exact .ite h3 h3.close
  · exact h

theorem execKernelImageLoad_onTime {s : State} (h : s.OnTime) : OutOnTime (execKernelImageLoad s) := by
  unfold execKernelImageLoad
  split
  · refine .ite h (.ite (h.osNote ..) ?_)
    exact ((((h.osWrite ..).osWrite ..).osWrite ..).fold (fun _ _ h => h.osWrite ..) _).osWrite ..
  · exact h

theorem execTenantPoolCreate_onTime {s : State} (h : s.OnTime) : OutOnTime (execTenantPoolCreate s) := by
  unfold execTenantPoolCreate
  split
  · exact .ite (h.osNote ..) ((h.modCore ..).overwritten _)
  · exact h

theorem execTenantPoolDestroy_onTime {s : State} (h : s.OnTime) : OutOnTime (execTenantPoolDestroy s) := by
  unfold execTenantPoolDestroy
  split
  · extract_lets home u gone
    refine .ite h ?_
    clear_value gone
    split
    · exact h
    · exact (h.modCore ..).wakeTenant _
  · exact h

theorem execCoreOwnershipChange_onTime {s : State} (h : s.OnTime) : OutOnTime (execCoreOwnershipChange s) := by
  unfold execCoreOwnershipChange
  split
  · refine .ite h ?_
    split
    · exact (h.schedule ..).schedule ..
    · extract_lets s1 hub s2
      have h2 : s2.OnTime := (h.modCore ..).withHub _
      split
      · exact h2.wakeTenant _
      · exact h2
  · exact h

/-! ### Machine/Preempt.lean, Trap.lean -/

theorem execPreemptRequest_onTime {s : State} (h : s.OnTime) : OutOnTime (execPreemptRequest s) := by
  unfold execPreemptRequest
  split
  · split
    · exact h
    · exact .ite h (((h.modKernel ..).schedule ..).schedule ..)
  · exact h

theorem State.OnTime.stopHere {s : State} (h : s.OnTime) : s.stopHere.OnTime := ((h.modCpu _).withCurDone _).schedule ..

theorem State.OnTime.writeContext {s : State} (h : s.OnTime) (v next) : (s.writeContext v next).OnTime :=
  ((h.withHbm _).writeSpace ..).withHbm _

theorem State.OnTime.saveCores {s : State} (h : s.OnTime) (k area cs) : (s.saveCores k area cs).1.OnTime := by
  induction cs generalizing s with
  | nil => exact h
  | cons c cs ih => exact ih (((((h.performAll _).endRelease _).withSynced _).modCore ..).writeContext ..)

theorem execPreemptSave_onTime {s : State} (h : s.OnTime) : OutOnTime (execPreemptSave s) := by
  unfold execPreemptSave
  split
  · split
    · exact h
    · exact .ite h (.ite (h.schedule ..) (((h.saveCores ..).modKernel ..).wakeTenant _).shutIfIdle)
  · exact h

theorem execPreemptWithdraw_onTime {s : State} (h : s.OnTime) : OutOnTime (execPreemptWithdraw s) := by
  unfold execPreemptWithdraw
  split
  · split
    · exact h
    · split
      · exact h
      · exact .ite h ((((h.modKernel ..).fold (fun _ _ h => h.modCore ..) _).withHub _).schedule ..)
  · exact h

theorem State.OnTime.resumeCore {s : State} (h : s.OnTime) (k v c) : (s.resumeCore k v c).1.OnTime :=
  ((h.setCore ..).withSynced _).onCore _ fun _ h => ((h.seq _).seq _).modCpu _

theorem State.OnTime.resumeAll {s : State} (h : s.OnTime) (k ps) : (s.resumeAll k ps).1.OnTime := by
  induction ps generalizing s with
  | nil => exact h
  | cons p ps ih => exact ih (h.resumeCore ..)

theorem execResumption_onTime {s : State} (h : s.OnTime) : OutOnTime (execResumption s) := by
  unfold execResumption
  split
  · split
    · exact h
    · extract_lets places
      split
      · exact .ite h (.ite (h.schedule ..) ((((h.chosen.modKernel ..).resumeAll ..).modKernel ..).schedule ..))
      · exact h
  · exact h

theorem execHandlerTrap_onTime {s : State} (h : s.OnTime) : OutOnTime (execHandlerTrap s) := by
  unfold execHandlerTrap
  split
  · exact (h.modCpu _).takeTrap ..
  · exact h

theorem execModesetComplete_onTime {s : State} (h : s.OnTime) : OutOnTime (execModesetComplete s) := by
  unfold execModesetComplete
  extract_lets c
  split
  · exact .ite (h.modCpu _) h
  · exact h

theorem execQdrainComplete_onTime {s : State} (h : s.OnTime) : OutOnTime (execQdrainComplete s) := by
  unfold execQdrainComplete
  extract_lets c
  split
  · exact .ite (h.modCpu _).endCycle h
  · exact h

/-! ### Machine/Exec.lean -/

theorem aluIssue_onTime {s : State} (h : s.OnTime) (i f w d a b) : OutOnTime (aluIssue i f w d a b s) := h.issueX ..

theorem mulIssue_onTime {s : State} (h : s.OnTime) (i f w d a b) : OutOnTime (mulIssue i f w d a b s) := h.issueX ..

theorem aluUnary_onTime {s : State} (h : s.OnTime) (i f w d a) : OutOnTime (aluUnary i f w d a s) := h.issueX ..

theorem immIssue_onTime {s : State} (h : s.OnTime) (i f d a v) : OutOnTime (immIssue i f d a v s) := h.issueX ..

theorem brIssue_onTime {s : State} (h : s.OnTime) (i cond a b nul disp) : OutOnTime (brIssue i cond a b nul disp s) :=
  branchIssue_onTime h ..

theorem briIssue_onTime {s : State} (h : s.OnTime) (i cond a v nul disp) : OutOnTime (briIssue i cond a v nul disp s) :=
  branchIssue_onTime h ..

/-- No instruction and no step of the hardware leaves the order of time. -/
theorem exec_onTime {s : State} (h : s.OnTime) (i : Instr) : OutOnTime (exec i s) := by
  unfold exec
  cases i with
  | add | sub | and | or | xor | andn | sll | srl | sra | rol | min | max | minu | maxu | slt | sltu | seq
    => exact aluIssue_onTime h ..
  | mul | mulh | mulhu => exact mulIssue_onTime h ..
  | div | divu | rem | remu => exact divIssue_onTime h ..
  | clz | ctz | popc | brev | bswap => exact aluUnary_onTime h ..
  | movz | movn | slli | srli | srai | li | lih => exact h.issueX ..
  | addi | andi | ori | xori | slti | sltiu | seqi | addil | andil | oril | xoril => exact immIssue_onTime h ..
  | ldb | ldbu | ldh | ldhu | ldw | ldwu | ldd => exact loadIssue_onTime h ..
  | stb | sth | stw | std => exact storeIssue_onTime h ..
  | beq | bne | blt | bge | bltu | bgeu => exact brIssue_onTime h ..
  | bra => exact branchIssue_onTime h ..
  | jalr => exact execJalr_onTime h ..
  | nop => exact execNop_onTime h
  | halt => exact execHalt_onTime h
  | trap => exact execTrap_onTime h ..
  | rtt => exact execRtt_onTime h
  | fence => exact execFence_onTime h ..
  | qdrain => exact execQdrain_onTime h ..
  | modeset => exact execModeset_onTime h ..
  | segb => exact execSegb_onTime h
  | tmark => exact execTmark_onTime h
  | gset => exact execGset_onTime h ..
  | gclr => exact execGclr_onTime h ..
  | evpop => exact execEvpop_onTime h ..
  | evpeek => exact execEvpeek_onTime h ..
  | tlbinv => exact execTlbinv_onTime h ..
  | lbrk => exact execLbrk_onTime h ..
  | csrr | csrw | csrs | csrc => exact csrIssue_onTime h ..
  | loop | loopi => exact loopIssue_onTime h ..
  | semadd => exact execSemadd_onTime h ..
  | semset => exact execSemset_onTime h ..
  | semwait => exact execSemwait_onTime h ..
  | semrd => exact execSemrd_onTime h ..
  | semradd => exact execSemradd_onTime h ..
  | semmset => exact execSemmset_onTime h ..
  | pwbegin | pwend | pwnext | prbegin | prend | prnext | pquery => exact poolIssue_onTime h ..
  | racq | rpub | rtake | rfree | rclose | rbrk | rstat => exact ringIssue_onTime h ..
  | launch | launchs => exact launchIssue_onTime h ..
  | vwset => exact execVwset_onTime h ..
  | vwget => exact execVwget_onTime h ..
  | shpset => exact execShpset_onTime h ..
  | ftset => exact execFtset_onTime h ..
  | mset => exact execMset_onTime h ..
  | rotset => exact execRotset_onTime h ..
  | jal => exact execJal_onTime h ..
  | beqi | bnei | blti | bgei | bltui | bgeui => exact briIssue_onTime h ..
  | sege => exact execSege_onTime h ..
  | vadd | vsub | vmul | vfma | vfms | vfnma | vmin | vmax | vabs | vneg | vaddsub | vavg | vmulh | vshl | vshr | vsra | vand
    | vor | vxor | vnot | vsel | vmov | vclamp | vabsd | vcmpeq | vcmpne | vcmplt | vcmple | vcmpgt | vcmpge | vclass | vrcp
    | vrsqrt | vsqrt | vexp2 | vlog2 | vexp | vtanh | vsigm | vsilu | vgelu | vsin | vcos | vdiv | vrsum | vrmax | vrmin
    | vramax | vcsum | vcmax | vscan | vdot | vtopk | vsortr | vmrgk | vcompr | vexpnd | vbcast | vtrans | viota | vgathr
    | vscatr | vcvt | vrqnt | vmxq | vmxdq | vunpk3 | vpack3 | vunpk4 | vpack4 | vsat | vrnd | pld | pst | pcomp | pinv | ppow
    | prand | pidn | pcyc | pxch | vperm | pcycv | tld | tldw | tpref | sadv | wref | tst | tsti | tstm | cpy | cpya | cmcast
    | catom | cfill | rnode | rcont => exact h.issueV ..
  | tldi => exact execTldi_onTime h ..
  | sbind => exact execSbind_onTime h ..
  | wstore => exact execWstore_onTime h ..
  | mma | mmas | mmat | mdrain | mdrainmx | mldac | mclr | wbld | wbinv => exact h.issueM ..
  | engineDispatch => exact execEngineDispatch_onTime h
  | resultLanding => exact execResultLanding_onTime h
  | group4ReadPromotion => exact execGroup4ReadPromotion_onTime h
  | handlerTrap => exact execHandlerTrap_onTime h
  | rttResume => exact execRttResume_onTime h
  | haltComplete => exact execHaltComplete_onTime h
  | modesetComplete => exact execModesetComplete_onTime h
  | qdrainComplete => exact execQdrainComplete_onTime h
  | fenceAck => exact execFenceAck_onTime h
  | semwaitSatisfied => exact execSemwaitSatisfied_onTime h
  | semRemoteService => exact execSemRemoteService_onTime h
  | poolService => exact execPoolService_onTime h
  | ringService => exact execRingService_onTime h
  | ringWaitServiced => exact execRingWaitServiced_onTime h
  | homeReplyArrival => exact execHomeReplyArrival_onTime h
  | lateAccessArrival => exact execLateAccessArrival_onTime h
  | evqRecordArrival => exact execEvqRecordArrival_onTime h
  | copyComplete => exact execCopyComplete_onTime h
  | copyDispatchFaultRecord => exact execCopyDispatchFaultRecord_onTime h
  | memoryPortArrival => exact execMemoryPortArrival_onTime h
  | nodeArmingRecord => exact execNodeArmingRecord_onTime h
  | reductionPacketArrival => exact execReductionPacketArrival_onTime h
  | nodeDeadline => exact execNodeDeadline_onTime h
  | rootRecordWrite => exact execRootRecordWrite_onTime h
  | rcontAnswer => exact execRcontAnswer_onTime h
  | iterationStart => exact execIterationStart_onTime h
  | tlbMissResolved => exact execTlbMissResolved_onTime h
  | pageFaultResolved => exact execPageFaultResolved_onTime h
  | tlbinvComplete => exact execTlbinvComplete_onTime h
  | replayRereadDone => exact execReplayRereadDone_onTime h
  | wsBackstopRefresh => exact execWsBackstopRefresh_onTime h
  | wsRefreshEnd => exact execWsRefreshEnd_onTime h
  | hbmRefresh => exact execHbmRefresh_onTime h
  | patrolScrub => exact execPatrolScrub_onTime h
  | hbmLaneRepair => exact execHbmLaneRepair_onTime h
  | hbmRepairPauseEnd => exact execHbmRepairPauseEnd_onTime h
  | cxlPortFailure => exact execCxlPortFailure_onTime h
  | crossbarGrant => exact execCrossbarGrant_onTime h
  | d2dDelivery => exact execD2dDelivery_onTime h
  | noticeWindow => exact execNoticeWindow_onTime h
  | hubNotice => exact execHubNotice_onTime h
  | multicastApply => exact execMulticastApply_onTime h
  | biryarFlitReceive => exact execBiryarFlitReceive_onTime h
  | biryarNack => exact execBiryarNack_onTime h
  | laneFallback => exact execLaneFallback_onTime h
  | portDown => exact execPortDown_onTime h
  | pathResend => exact execPathResend_onTime h
  | endToEndAck => exact execEndToEndAck_onTime h
  | headerError => exact execHeaderError_onTime h
  | packetAbandon => exact execPacketAbandon_onTime h
  | coreStateParity => exact execCoreStateParity_onTime h
  | activate => exact execActivate_onTime h
  | cancel => exact execCancel_onTime h
  | hostRegisterWrite => exact execHostRegisterWrite_onTime h
  | vfEnable => exact execVfEnable_onTime h
  | ebstatWrite => exact execEbstatWrite_onTime h
  | ebceWrite => exact execEbceWrite_onTime h
  | kernNode => exact execKernNode_onTime h
  | kernelPlacement => exact execKernelPlacement_onTime h
  | stagingComplete => exact execStagingComplete_onTime h
  | copyNode => exact execCopyNode_onTime h
  | condNode => exact execCondNode_onTime h
  | loopNode => exact execLoopNode_onTime h
  | joinNode => exact execJoinNode_onTime h
  | signalNode => exact execSignalNode_onTime h
  | endNode => exact execEndNode_onTime h
  | kernelEnd => exact execKernelEnd_onTime h
  | tenantPoolCreate => exact execTenantPoolCreate_onTime h
  | preemptRequest => exact execPreemptRequest_onTime h
  | preemptSave => exact execPreemptSave_onTime h
  | preemptWithdraw => exact execPreemptWithdraw_onTime h
  | resumption => exact execResumption_onTime h
  | powerOn => exact execPowerOn_onTime h
  | moduleOsInit => exact execModuleOsInit_onTime h
  | spdmRequest => exact execSpdmRequest_onTime h
  | pldmReport => exact execPldmReport_onTime h
  | pldmFwUpdate => exact execPldmFwUpdate_onTime h
  | powerLimitSet => exact execPowerLimitSet_onTime h
  | thermalLimit => exact execThermalLimit_onTime h
  | lifeRecordUpdate => exact execLifeRecordUpdate_onTime h
  | kernelImageLoad => exact execKernelImageLoad_onTime h
  | tenantPoolDestroy => exact execTenantPoolDestroy_onTime h
  | coreOwnershipChange => exact execCoreOwnershipChange_onTime h
  | biryarPortTrained => exact execBiryarPortTrained_onTime h
  | biryarStatusWrite => exact execBiryarStatusWrite_onTime h
  | vfDisable => exact execVfDisable_onTime h
  | powerLoss => exact execPowerLoss_onTime s

/-! ### Machine/Cycle.lean -/

theorem State.OnTime.rest {s : State} (h : s.OnTime) : s.rest.OnTime := h

theorem State.OnTime.endHandler {s : State} (h : s.OnTime) : s.endHandler.OnTime := (h.modCpu _).rest

theorem State.OnTime.turn {s : State} (h : s.OnTime) (k : ∀ a ∈ s.agenda, s.time < a.due) : s.turn.OnTime := by
  unfold State.turn
  split
  · exact h
  · exact h.tick k

theorem State.OnTime.pass {s : State} (h : s.OnTime) : s.pass.OnTime :=
  .ite (h.annulStep.modCpu _).rest (h.annulStep.modCpu _).endCycle

theorem State.OnTime.afterIssue {s t : State} (h : t.OnTime) : (s.afterIssue t).OnTime :=
  have hr := h.modCpu Core.released
  .ite h (.ite hr.endHandler (.ite hr (.ite hr.endCycle (.ite (hr.modCpu _).rest hr))))

theorem State.OnTime.handlerLanding {s : State} (h : s.OnTime) (p) : (s.handlerLanding p).OnTime := by
  unfold State.handlerLanding
  extract_lets gone
  have hg : gone.OnTime := h.modCpu _
  split
  · exact hg.touchRead ..
  · exact hg.pendTrap ..
  · exact h.handlerReply _
  · exact h.handlerAccess _
  · exact hg

/-- What is done without a step, if that comes next, is on time. -/
def MoveOnTime : Action → Prop
  | .move t => t.OnTime
  | .due _ => True
  | .event _ => True
  | .issue _ => True

theorem MoveOnTime.ite {p : Prop} [Decidable p] {a b : Action} (h : MoveOnTime a) (k : MoveOnTime b) :
    MoveOnTime (if p then a else b) := by
  split <;> assumption

theorem State.OnTime.planIssue {s : State} (h : s.OnTime) : MoveOnTime s.planIssue := by
  unfold State.planIssue
  extract_lets pc
  refine .ite (h.tlbMiss ..).rest ?_
  split
  · exact .ite h.pass (.ite ((h.modCpu _).preciseTrap ..) (h.tlbMiss ..).rest)
  · exact .ite h.pass (h.preciseTrap ..)
  · refine .ite (State.OnTime.ite (h.preciseTrap ..) h.pass) ?_
    split
    · exact h.rest
    · exact h.endCycle
    · split
      · exact (h.tlbMiss ..).rest
      · trivial

theorem State.OnTime.planHandler {s : State} (h : s.OnTime) : MoveOnTime s.planHandler := by
  unfold State.planHandler
  extract_lets c now
  split
  · exact h.handlerLanding _
  · exact .ite trivial (.ite (.ite trivial h.rest) (.ite (h.preciseTrap ..) (.ite (h.modCpu _) h.planIssue)))

theorem State.OnTime.planDrain {s : State} (h : s.OnTime) (d) : MoveOnTime (s.planDrain d) := by
  have hr := (h.modCpu fun c => { c with engFree := c.engFree.set (engIx .cp) 0 }).rest
  cases d with
  | halt => exact .ite h.endCycle (.ite trivial (.ite hr h.endCycle))
  | qdrain m => exact .ite trivial (.ite hr h.endCycle)
  | modeset v => exact .ite trivial h.endCycle
  | modesetWait v n => exact .ite (h.modCpu _) h.endCycle

theorem State.OnTime.planOpen {s : State} (h : s.OnTime) : MoveOnTime s.planOpen := by
  unfold State.planOpen
  extract_lets c
  refine .ite trivial ?_
  split
  · trivial
  · refine .ite h.rest ?_
    split
    · exact h.planDrain _
    · exact .ite h.endCycle (.ite h.stopHere h.planIssue)

theorem State.OnTime.planBoundary {s : State} (h : s.OnTime) : MoveOnTime s.planBoundary := by
  unfold State.planBoundary
  extract_lets c open_
  have ho : MoveOnTime open_ := h.modCpu _
  refine .ite trivial (.ite trivial ?_)
  split
  · exact .ite (h.modCpu _) ho
  · refine .ite ho ?_
    split
    · exact ho
    · exact (h.tlbMiss ..).rest
    · exact (h.awaitIndex _).rest
    · exact (h.modCpu _).preciseTrap ..

theorem State.OnTime.planCore {s : State} (h : s.OnTime) : MoveOnTime s.planCore := by
  unfold State.planCore
  extract_lets c
  split
  · exact .ite (h.modCpu _) (.ite h.planOpen h.rest)
  · split
    · trivial
    · exact h.rest
  · exact h.rest
  · exact .ite h.refetch (.ite h.planHandler (.ite h.planOpen h.planBoundary))

theorem State.OnTime.planRest {s : State} (h : s.OnTime) (k : ∀ a ∈ s.agenda, s.time < a.due) : MoveOnTime s.planRest := by
  unfold State.planRest
  split
  · trivial
  · exact .ite (h.turn k) h.planCore

/-- The die cycle passes only while nothing of the agenda is due. -/
theorem State.OnTime.plan {s : State} (h : s.OnTime) : MoveOnTime s.plan := by
  unfold State.plan
  split
  · next a _ he =>
    split
    · trivial
    · next hd => exact h.planRest (h.none_due he (Nat.lt_of_not_le hd))
  · next he => exact h.planRest (by simp [he])

/-! ### The order of time -/

theorem onTime_of_next {s t : State} {i : Instr} (h : s.OnTime) (e : exec i s = .next t) : t.OnTime := by
  have := exec_onTime h i
  rwa [e] at this

/-- Settles O60: every operation of the model keeps the order of time, and a die cycle passes only while no step is due. -/
theorem timeStaysInOrder : Obligations.TimeStaysInOrder := by
  intro s t h hs
  obtain ⟨e, _, he⟩ | ⟨e, _, he⟩ | ⟨i, u, _, hu, rfl⟩ | hm := steps_cases hs
  · exact onTime_of_next (s := { s with agenda := s.agenda.tail, event := e }) (h.tail rfl rfl fun _ => rfl) he
  · exact onTime_of_next (s := { s with event := e }) h he
  · exact (onTime_of_next h hu).afterIssue
  · have := h.plan
    rwa [hm] at this
end Sys2Proof.Machine
end

section
/-! The configuration instructions (R146–R148). Each changes a view, the shape, an FT register or a mask, or lets a mask land; the
opening of an issue looks at none of these, so the change may be told from the core as it stood before the issue. -/

namespace Sys2Proof.Machine

/-! ### Issue -/

/-- A precise fault of the instruction's own, where no check that every instruction makes turns it away. -/
theorem State.issue_traps {s : State} {i : Instr} {fault : State → Option (Cause × Word)} {eff : State → State} {k : Cause} {b : Word}
    (he : exec i s = s.issue i fault eff) (ha : s.Allowed i) (hf : fault s = some (k, b)) : exec i s = .next (s.preciseTrap k b) := by
  rw [he, State.issue, show issueCheck i s.cpu = none from ha, hf]
  rfl

/-- `k` is the core `c` but for its configuration and what is on its way to land. -/
def Core.Configures (c k : Core) : Prop :=
  k = { c with vw := k.vw, shp := k.shp, ft := k.ft, masks := k.masks, landings := k.landings }

/-- The opening of an issue does not look at the configuration. -/
theorem Core.Configures.opened {c k : Core} (h : c.Configures k) (i : Instr) :
    k.opened i = k.relevel (c.closeExited c.chain.c0).lc (c.closeExited c.chain.c0).order (c.feed (firstParcel i)).seg.crc := by
  unfold Core.Configures at h
  generalize k.vw = vw, k.shp = shp, k.ft = ft, k.masks = masks, k.landings = landings at h
  subst h
  have hlevels (p : Word) : (Core.closeExited { c with vw, shp, ft, masks, landings } p).lc = (c.closeExited p).lc ∧
      (Core.closeExited { c with vw, shp, ft, masks, landings } p).order = (c.closeExited p).order := by
    unfold Core.closeExited
    show (if c.trapMode = true then _ else _ : Core).lc = _ ∧ (if c.trapMode = true then _ else _ : Core).order = _
    split <;> exact ⟨rfl, rfl⟩
  have hcrc (p : Nat) : (Core.feed { c with vw, shp, ft, masks, landings } p).seg.crc = (c.feed p).seg.crc := by
    unfold Core.feed
    show (if (c.seg.open_ && !c.trapMode) = true then _ else _ : Core).seg.crc = _
    split <;> rfl
  rw [Core.opened_relevel, (hlevels _).1, (hlevels _).2, hcrc]

/-- An issue that is not turned away, whose effect is on the configuration or lets something land. -/
theorem State.issue_configures {s : State} {i : Instr} {fault : State → Option (Cause × Word)} {eff : State → State} {k : Core}
    (he : exec i s = s.issue i fault eff) (ha : s.Allowed i) (hf : fault s = none) (hk : s.cpu.Configures k)
    (hc : ∀ lc order crc, eff (s.setCpu (s.cpu.relevel lc order crc)) = s.setCpu (k.relevel lc order crc)) : s.GoesOn i k := by
  refine State.issue_goesOn he ha hf ?_
  simp only [State.beginIssue_eq, State.cpu_setCpu, State.setCpu_setCpu]
  rw [Core.opened_relevel, hc, hk.opened]

/-! ### The values that are set -/

theorem append_eq_ofNat (y x : Word) : y ++ x = BitVec.ofNat 128 (y.toNat * 2 ^ 64 + x.toNat) := by
  apply BitVec.eq_of_toNat_eq
  have hy := y.isLt
  have hx := x.isLt
  rw [BitVec.toNat_append, ← Nat.shiftLeft_add_eq_or_of_lt hx, Nat.shiftLeft_eq, BitVec.toNat_ofNat, Nat.mod_eq_of_lt (by omega)]

/-- The upper half of a view. -/
theorem upperHalf_eq_ofNat (v : BitVec 128) : (v >>> 64).setWidth 64 = BitVec.ofNat 64 (v.toNat / 2 ^ 64) := by
  rw [← BitVec.ofNat_toNat, BitVec.toNat_ushiftRight, Nat.shiftRight_eq_div_pow]

/-- What FTSET keeps of its register. -/
theorem ftsetValue_eq_ofNat (x : Word) : (x.setWidth 29).setWidth 32 = BitVec.ofNat 32 (x.toNat % 2 ^ 29) := by
  rw [← BitVec.ofNat_toNat, BitVec.toNat_setWidth]

/-- Bits 63:14 of a shape are zero just where it lies below 2^14. -/
theorem shapeExcess_eq_zero (x : Word) : bitsOf x 14 50 = 0 ↔ x.toNat < 2 ^ 14 := by
  have := x.isLt
  unfold bitsOf
  omega

theorem bitsOf_lt {w : Nat} (v : BitVec w) (lo n : Nat) : bitsOf v lo n < 2 ^ n := Nat.mod_lt _ (Nat.two_pow_pos n)

/-- ROFF of a view replaced by a number of its 12 bits. -/
theorem setRoff_of_lt (v : BitVec 128) {r : Nat} (h : r < 2 ^ 12) :
    setRoff v r = BitVec.ofNat 128 (v.toNat % 2 ^ 103 + r * 2 ^ 103 + v.toNat / 2 ^ 115 * 2 ^ 115) := by
  rw [setRoff, Nat.mod_eq_of_lt h]

theorem total_eq_sum (l : List Nat) : total l = l.sum := List.sum_eq_foldl.symm

theorem sum_twoPow_range' (lo n : Nat) : ((List.range' lo n).map fun p => 2 ^ p).sum = (2 ^ n - 1) * 2 ^ lo := by
  induction n generalizing lo with
  | zero => exact (Nat.zero_mul _).symm
  | succ n ih =>
    have hn : 0 < 2 ^ n := Nat.two_pow_pos n
    obtain ⟨m, hm⟩ : ∃ m, 2 ^ n = m + 1 := ⟨2 ^ n - 1, by omega⟩
    rw [List.range'_succ, List.map_cons, List.sum_cons, ih, Nat.pow_succ, Nat.pow_succ, hm]
    have hdouble : m * (2 ^ lo * 2) = 2 * m * 2 ^ lo := by rw [Nat.mul_comm (2 ^ lo), ← Nat.mul_assoc, Nat.mul_comm m]
    rw [show (m + 1) * 2 - 1 = 2 * m + 1 by omega, Nat.add_sub_cancel, hdouble, Nat.add_mul, Nat.one_mul, Nat.add_comm]

/-- A run of mask bits is the sum of its bits. -/
theorem maskRun_eq_total (lo n : Nat) : maskRun lo n = BitVec.ofNat 4096 (total ((List.range' lo n).map fun p => 2 ^ p)) := by
  rw [total_eq_sum, sum_twoPow_range', maskRun]

/-! ### The instructions -/

theorem State.beginIssue_resultXs (s : State) (i : Instr) (lat : Nat) (l : List (Reg × Word)) :
    (s.beginIssue i).resultXs lat l = (s.setCpu (s.cpu.getsAll (s.now s.cur) lat l)).beginIssue i := by
  simp only [State.resultXs_eq, State.beginIssue_eq, State.cpu_setCpu, State.now_setCpu, State.cur_setCpu, State.setCpu_setCpu,
    Core.opened_getsAll]

theorem exec_vwset (s : State) (i a b : Reg) : exec (.vwset i a b) s = execVwset i a b s := rfl
theorem exec_vwget (s : State) (d i : Reg) : exec (.vwget d i) s = execVwget d i s := rfl
theorem exec_shpset (s : State) (a : Reg) : exec (.shpset a) s = execShpset a s := rfl
theorem exec_ftset (s : State) (k : Fin 16) (a : Reg) : exec (.ftset k a) s = execFtset k a s := rfl
theorem exec_rotset (s : State) (i a : Reg) : exec (.rotset i a) s = execRotset i a s := rfl
theorem exec_mset (s : State) (i a b : Reg) : exec (.mset i a b) s = execMset i a b s := rfl

section
variable {s : State} {i d a b : Reg} {k : Fin 16}

theorem vwset_goesOn (ha : s.Allowed (.vwset i a b)) :
    s.GoesOn (.vwset i a b)
      { s.cpu with vw := s.cpu.vw.set i (BitVec.ofNat 128 ((s.cpu.readX b).toNat * 2 ^ 64 + (s.cpu.readX a).toNat)) } := by
  rw [← append_eq_ofNat]
  exact State.issue_configures (exec_vwset ..) ha rfl rfl fun _ _ _ => State.modCpu_setCpu ..

theorem vwget_goesOn (ha : s.Allowed (.vwget d i)) :
    s.GoesOn (.vwget d i) (s.cpu.getsAll (s.now s.cur) 2
      [(d, BitVec.ofNat 64 s.cpu.vw[i].toNat), (regPlus d 1, BitVec.ofNat 64 (s.cpu.vw[i].toNat / 2 ^ 64))]) := by
  rw [BitVec.ofNat_toNat, ← upperHalf_eq_ofNat]
  refine State.issue_goesOn (exec_vwget ..) ha rfl ?_
  rw [← State.beginIssue_resultXs, State.beginIssue_eq, State.cpu_setCpu, Core.opened_relevel]
  rfl

theorem shpset_goesOn (ha : s.Allowed (.shpset a)) (h : (s.cpu.readX a).toNat < 2 ^ 14) :
    s.GoesOn (.shpset a) { s.cpu with shp := BitVec.ofNat 14 (s.cpu.readX a).toNat } := by
  rw [BitVec.ofNat_toNat]
  have hx : bitsOf (s.cpu.readX a) 14 50 = 0 := (shapeExcess_eq_zero _).2 h
  exact State.issue_configures (exec_shpset ..) ha (if_neg (Decidable.not_not.2 hx)) rfl fun _ _ _ => State.modCpu_setCpu ..

theorem shpset_traps (ha : s.Allowed (.shpset a)) (h : 2 ^ 14 ≤ (s.cpu.readX a).toNat) :
    exec (.shpset a) s = .next (s.preciseTrap .shapeLimit (s.cpu.readX a)) :=
  State.issue_traps (exec_shpset ..) ha (if_pos (mt (shapeExcess_eq_zero _).1 (Nat.not_lt.2 h)))

theorem ftset_goesOn (ha : s.Allowed (.ftset k a)) :
    s.GoesOn (.ftset k a) { s.cpu with ft := s.cpu.ft.set k (BitVec.ofNat 32 ((s.cpu.readX a).toNat % 2 ^ 29)) } := by
  rw [← ftsetValue_eq_ofNat]
  exact State.issue_configures (exec_ftset ..) ha rfl rfl fun _ _ _ => State.modCpu_setCpu ..

/-- A rotation within the view's window, which is below 4,096 rows. -/
theorem rotset_goesOn (ha : s.Allowed (.rotset i a)) (h : (s.cpu.readX a).toNat < bitsOf s.cpu.vw[i] 77 12) :
    s.GoesOn (.rotset i a) { s.cpu with vw := s.cpu.vw.set i (BitVec.ofNat 128
      (s.cpu.vw[i].toNat % 2 ^ 103 + (s.cpu.readX a).toNat * 2 ^ 103 + s.cpu.vw[i].toNat / 2 ^ 115 * 2 ^ 115)) } := by
  have hx : (s.cpu.readX a).toNat < 2 ^ 12 := Nat.lt_trans h (bitsOf_lt ..)
  rw [← setRoff_of_lt _ hx]
  refine State.issue_configures (exec_rotset ..) ha (if_neg ?_) rfl fun _ _ _ => State.modCpu_setCpu ..
  simp only [Bool.or_eq_true, decide_eq_true_eq]
  omega

theorem rotset_traps (ha : s.Allowed (.rotset i a)) (h : bitsOf s.cpu.vw[i] 77 12 ≤ (s.cpu.readX a).toNat) :
    exec (.rotset i a) s = .next (s.preciseTrap .viewBounds (BitVec.ofNat 64 i.val)) :=
  State.issue_traps (exec_rotset ..) ha (if_pos (by simp only [ge_iff_le, h, decide_true, Bool.or_true]))

theorem mset_goesOn (ha : s.Allowed (.mset i a b)) (h : (s.cpu.readX a).toNat + (s.cpu.readX b).toNat ≤ 4096) :
    let m := BitVec.ofNat 4096 (total ((List.range' (s.cpu.readX a).toNat (s.cpu.readX b).toNat).map fun p => 2 ^ p))
    s.GoesOn (.mset i a b) (if s.cpu.trapMode then { s.cpu with masks := s.cpu.masks.set (Fin.ofNat 8 i.val) m }
      else s.cpu.sends 1 [.mask (Fin.ofNat 8 i.val)] [.mask (Fin.ofNat 8 i.val) m]) := by
  intro m
  have hm : m = maskRun (s.cpu.readX a).toNat (s.cpu.readX b).toNat := (maskRun_eq_total _ _).symm
  rw [hm]
  refine State.issue_configures (exec_mset ..) ha (if_neg (Nat.not_lt.2 h)) ?_ fun lc order crc => ?_
  · split <;> rfl
  · simp only [State.cpu_setCpu, State.modCpu_setCpu]
    show (if s.cpu.trapMode = true then _ else _) = _
    split <;> rfl

theorem mset_traps (ha : s.Allowed (.mset i a b)) (h : 4096 < (s.cpu.readX a).toNat + (s.cpu.readX b).toNat) :
    exec (.mset i a b) s = .next (s.preciseTrap .shapeLimit (s.cpu.readX a)) :=
  State.issue_traps (exec_mset ..) ha (if_pos h)

end

/-- Settles O16: each instruction changes only its field of the configuration, which the opening of its issue does not look at; a fault
comes before any effect. -/
theorem configuration : Obligations.Configuration := by
  intro s i d a b k
  exact ⟨vwset_goesOn, fun ha _ h => rotset_goesOn ha h, rotset_traps, shpset_goesOn, shpset_traps, ftset_goesOn, vwget_goesOn,
    mset_goesOn, mset_traps⟩

end Sys2Proof.Machine
end

section
/-! The integer elements of the vector engine (R132, R135, R136): how an integer element is read, how a result is put at the width of
the format, and the relations and masks of the compares. -/

namespace Sys2Proof.Machine

/-! ### Integer elements read and put -/

theorem intValue_eq (unsigned : Bool) (w bits : Nat) :
    intValue unsigned w bits = if unsigned then ((bits % 2 ^ w : Nat) : Int) else signedOf w (bits % 2 ^ w) := by
  unfold intValue signedOf
  cases unsigned with
  | true => rfl
  | false =>
    simp only [Bool.not_false, Bool.true_and, decide_eq_true_eq, ge_iff_le, Bool.false_eq_true, if_false]
    by_cases h : bits % 2 ^ w < 2 ^ (w - 1)
    · rw [if_pos h, if_neg (Nat.not_le.2 h)]
    · rw [if_neg h, if_pos (Nat.not_lt.1 h)]

theorem intBounds_eq (unsigned : Bool) (w : Nat) :
    intBounds unsigned w = (if unsigned then 0 else -2 ^ (w - 1), if unsigned then 2 ^ w - 1 else 2 ^ (w - 1) - 1) := by
  cases unsigned <;> rfl

/-- The bounds of a format are in order, 0 or less and −1 or more. -/
theorem intBounds_le (unsigned : Bool) (w : Nat) : (intBounds unsigned w).1 ≤ (intBounds unsigned w).2 := by
  have hw : (0 : Int) < 2 ^ w := Int.pow_pos (by decide)
  have hv : (0 : Int) < 2 ^ (w - 1) := Int.pow_pos (by decide)
  cases unsigned with
  | true => show (0 : Int) ≤ 2 ^ w - 1; omega
  | false => show -(2 ^ (w - 1) : Int) ≤ 2 ^ (w - 1) - 1; omega

/-- A result clamped to a format's range where SAT asks for it. -/
def Fmt.clampInt (f : Fmt) (sat : Bool) (v : Int) : Int :=
  if sat then max (intBounds f.unsigned f.bits).1 (min (intBounds f.unsigned f.bits).2 v) else v

/-- R132: the bits of an integer result are those of the exact value, clamped under SAT and then wrapped. -/
theorem Fmt.putInt_bits (f : Fmt) (sat : Bool) (v : Int) : (f.putInt sat v).1 = (f.clampInt sat v % 2 ^ f.bits).toNat := by
  have h := intBounds_le f.unsigned f.bits
  unfold Fmt.putInt Fmt.clampInt
  cases sat with
  | false => rfl
  | true =>
    simp only [Bool.true_and, decide_eq_true_eq, if_true]
    generalize (intBounds f.unsigned f.bits).1 = lo, (intBounds f.unsigned f.bits).2 = hi at h ⊢
    by_cases hlo : v < lo
    · rw [if_pos hlo, show max lo (min hi v) = lo by omega]
    · by_cases hhi : hi < v
      · rw [if_neg hlo, if_pos hhi, show max lo (min hi v) = hi by omega]
      · rw [if_neg hlo, if_neg hhi, show max lo (min hi v) = v by omega]

/-- R132: ST is set just where SAT clamps. -/
theorem Fmt.putInt_flags (f : Fmt) (v : Int) :
    (f.putInt true v).2 = flagST ↔ v < (intBounds f.unsigned f.bits).1 ∨ (intBounds f.unsigned f.bits).2 < v := by
  have hst : (0 : VFlags) ≠ flagST := by decide
  unfold Fmt.putInt
  simp only [Bool.true_and, decide_eq_true_eq]
  by_cases hlo : v < (intBounds f.unsigned f.bits).1
  · rw [if_pos hlo]
    exact ⟨fun _ => .inl hlo, fun _ => rfl⟩
  · by_cases hhi : (intBounds f.unsigned f.bits).2 < v
    · rw [if_neg hlo, if_pos hhi]
      exact ⟨fun _ => .inr hhi, fun _ => rfl⟩
    · rw [if_neg hlo, if_neg hhi]
      exact ⟨fun h => absurd h hst, fun h => absurd h (not_or.2 ⟨hlo, hhi⟩)⟩

/-! ### The operations of major 0x00 (R135) -/

section
variable {x : Ctx} (hx : x.fmt.isInt = true) (p : Nat) (a b d : Elem)
include hx

theorem arith2_int (gi : Int → Int → Int → Int) (gf : Bool → Num → Num → Num → Exact × VFlags) :
    arith2 gi gf x p a b d = mark2 a b (x.fmt.putInt x.sat (gi (x.int a) (x.int b) (x.int d))) := by
  rw [arith2, if_pos hx, intOp]

theorem arith2_bits (gi : Int → Int → Int → Int) (gf : Bool → Num → Num → Num → Exact × VFlags) :
    (arith2 gi gf x p a b d).1.bits = (x.fmt.clampInt x.sat (gi (x.int a) (x.int b) (x.int d)) % 2 ^ x.fmt.bits).toNat := by
  rw [arith2_int hx, ← Fmt.putInt_bits]
  rfl

theorem arith3_bits (gi : Int → Int → Int → Int) (gf : Bool → Num → Num → Num → Exact × VFlags) :
    (arith3 gi gf x p a b d).1.bits = (x.fmt.clampInt x.sat (gi (x.int a) (x.int b) (x.int d)) % 2 ^ x.fmt.bits).toNat := by
  rw [arith3, if_pos hx, intOp, ← Fmt.putInt_bits]
  rfl

theorem opAbs_bits : (opAbs x p a b d).1.bits = (x.fmt.clampInt x.sat (x.int a).natAbs % 2 ^ x.fmt.bits).toNat := by
  rw [opAbs, if_pos hx, intOp, ← Fmt.putInt_bits]
  rfl

theorem opNeg_bits : (opNeg x p a b d).1.bits = (x.fmt.clampInt x.sat (-x.int a) % 2 ^ x.fmt.bits).toNat := by
  rw [opNeg, if_pos hx, intOp, ← Fmt.putInt_bits]
  rfl

theorem opClamp_bits :
    (opClamp x p a b d).1.bits = (x.fmt.clampInt x.sat (min (max (x.int a)
      (if x.fmt.unsigned then 0 else min (-x.int b) (intBounds x.fmt.unsigned x.fmt.bits).2)) (x.int b)) % 2 ^ x.fmt.bits).toNat := by
  rw [opClamp, if_pos hx, intOp, ← Fmt.putInt_bits]
  rfl

end

theorem natAbs_eq_ite (a : Int) : (a.natAbs : Int) = if a < 0 then -a else a := by
  split <;> omega

theorem natAbs_sub_eq_ite (a b : Int) : ((a - b).natAbs : Int) = if a < b then b - a else a - b := by
  split <;> omega

/-- VADDSUB adds, subtracts or leaves out `a` as the sign of `c` says. -/
theorem add_mul_sign_eq_ite (d a c : Int) : d + a * c.sign = if 0 < c then d + a else if c < 0 then d - a else d := by
  rcases Int.lt_trichotomy c 0 with h | h | h
  · rw [Int.sign_eq_neg_one_of_neg h, if_neg (by omega), if_pos h]; omega
  · rw [h, Int.sign_zero, if_neg (by decide), if_neg (by decide)]; omega
  · rw [Int.sign_eq_one_of_pos h, if_pos h]; omega

/-- VSRA's element, which is below 2^w, shifted as a signed number whatever the format. -/
theorem opSra_bits {x : Ctx} (p : Nat) {a : Elem} (b d : Elem) (ha : a.bits < 2 ^ x.fmt.bits) :
    (opSra x p a b d).1.bits =
      (signedOf x.fmt.bits a.bits / ((2 ^ (b.bits % x.fmt.bits) : Nat) : Int) % 2 ^ x.fmt.bits).toNat := by
  rw [opSra, mark2, intValue_eq, Nat.mod_eq_of_lt ha, Int.natCast_pow]
  rfl

theorem opNot_bits {x : Ctx} (p : Nat) {a : Elem} (b d : Elem) (ha : a.bits < 2 ^ x.fmt.bits) :
    (opNot x p a b d).1.bits = 2 ^ x.fmt.bits - 1 - a.bits := by
  rw [opNot, Nat.mod_eq_of_lt ha]

/-- Settles O36: each operation is exact over the integers that its elements read as; putting the result clamps and wraps it. -/
theorem integerElements : Obligations.IntegerElements := by
  intro x p a b d hx ha hb n val lo hi out A B D
  have hval (e : Elem) : x.int e = val e := intValue_eq ..
  have hlo : (intBounds x.fmt.unsigned x.fmt.bits).1 = lo := by rw [intBounds_eq]
  have hhi : (intBounds x.fmt.unsigned x.fmt.bits).2 = hi := by rw [intBounds_eq]
  have hout (r : Int) : (x.fmt.clampInt x.sat r % 2 ^ x.fmt.bits).toNat = out r := by rw [Fmt.clampInt, hlo, hhi]
  have h2 (gi gf) : (arith2 gi gf x p a b d).1.bits = out (gi A B D) := by rw [arith2_bits hx, hout, hval, hval, hval]
  have h3 (gi gf) : (arith3 gi gf x p a b d).1.bits = out (gi A B D) := by rw [arith3_bits hx, hout, hval, hval, hval]
  refine ⟨h2 .., h2 .., h2 .., h3 .., h3 .., h3 .., h2 .., h2 .., ?abs, ?neg, ?addsub, h2 .., ?clamp, ?absd, ?mulh, rfl, rfl,
    opSra_bits p b d ha, opNot_bits p b d ha, ?flags⟩
  case abs => rw [opAbs_bits hx, hout, hval, natAbs_eq_ite]
  case neg => rw [opNeg_bits hx, hout, hval, Int.zero_sub]
  case addsub => rw [opAddsub, h3, add_mul_sign_eq_ite]
  case clamp => rw [opClamp_bits hx, hout, hhi, hval, hval]
  case absd => rw [opAbsd, h2, natAbs_sub_eq_ite]
  case mulh => rw [opMulh, mark2, hval, hval]
  case flags =>
    intro hs
    rw [opAdd, arith2_int hx, hs, hval, hval, ← hlo, ← hhi]
    exact x.fmt.putInt_flags _

/-! ### Compares (R136) -/

theorem relation_int {x : Ctx} (hx : x.fmt.isInt = true) (ne : Bool) (r : Ordering → Bool) (a b : Elem) :
    (relation ne r x a b).1 = r (compare (x.int a) (x.int b)) := by
  rw [relation, if_pos hx]

/-- Counting positions from `p` moves the whole mask up by `p`. -/
theorem maskFrom_eq_mul (p : Nat) (es : List Elem) : maskFrom p es = 2 ^ p * maskFrom 0 es := by
  induction es generalizing p with
  | nil => rfl
  | cons a as ih =>
    have hshift : 2 ^ (p + 1) * maskFrom 0 as = 2 ^ p * (2 ^ (0 + 1) * maskFrom 0 as) :=
      (congrArg (· * maskFrom 0 as) (Nat.pow_add 2 p 1)).trans (Nat.mul_assoc ..)
    rw [maskFrom, maskFrom, ih (p + 1), ih (0 + 1), hshift, Nat.mul_add]
    split
    · rfl
    · rw [Nat.pow_zero, Nat.mul_one]

theorem maskFrom_cons (a : Elem) (as : List Elem) : maskFrom 0 (a :: as) = 2 * maskFrom 0 as + (decide (a.bits ≠ 0)).toNat := by
  rw [maskFrom, maskFrom_eq_mul, Nat.add_comm]
  by_cases h : a.bits = 0
  · rw [if_pos h, decide_eq_false (Decidable.not_not.2 h)]; rfl
  · rw [if_neg h, decide_eq_true h]; rfl

/-- R136: bit `p` of a mask is the result of element `p`, and no bit beyond the elements is set. -/
theorem maskFrom_testBit (es : List Elem) (p : Nat) :
    (maskFrom 0 es).testBit p = (es.map fun e => decide (e.bits ≠ 0)).getD p false := by
  induction es generalizing p with
  | nil => exact Nat.zero_testBit p
  | cons a as ih =>
    have hb := Bool.toNat_lt (decide (a.bits ≠ 0))
    rw [maskFrom_cons]
    cases p with
    | zero =>
      rw [Nat.testBit_zero, Nat.mul_add_mod, Nat.mod_eq_of_lt hb]
      show decide ((decide (a.bits ≠ 0)).toNat = 1) = decide (a.bits ≠ 0)
      cases decide (a.bits ≠ 0) <;> rfl
    | succ p =>
      rw [Nat.testBit_succ, show (2 * maskFrom 0 as + (decide (a.bits ≠ 0)).toNat) / 2 = maskFrom 0 as by omega, ih]
      rfl

/-- Settles O38: a compare of integers goes by their order, and a mask holds one bit for each element. -/
theorem integerCompares : Obligations.IntegerCompares := by
  refine ⟨fun x a b hx => ?_, fun es p => ?_⟩
  · intro A B
    refine ⟨?eq, ?ne, ?lt, ?le, ?gt, ?ge⟩
    case eq => rw [relEq, relation_int hx, decide_eq_true_iff, Int.compare_eq_eq]
    case ne => rw [relNe, relation_int hx, decide_eq_true_iff, ne_eq, Int.compare_eq_eq]
    case lt => rw [relLt, relation_int hx, decide_eq_true_iff, Int.compare_eq_lt]
    case le => rw [relLe, relation_int hx, decide_eq_true_iff, Int.compare_ne_gt]
    case gt => rw [relGt, relation_int hx, decide_eq_true_iff, Int.compare_eq_gt]
    case ge => rw [relGe, relation_int hx, decide_eq_true_iff, Int.compare_ne_lt]
  · rw [BitVec.getLsbD_ofNat, maskFrom_testBit]

end Sys2Proof.Machine
end

section
/-! The matrix engine (R184–R198): what each of its instructions comes to at dispatch, the sum of an INT32 tile step, and what the effects
of MCLR and WBINV leave at a core. -/

namespace Sys2Proof.Machine

/-! ### Outcomes of a dispatch -/

/-- A dispatch that is turned away: nothing but its cause (R123). -/
def Dispatch.Fails (d : Dispatch) (f : Cause × Word) : Prop := d.fault = some f ∧ d.effs = []

/-- A dispatch whose results land with some flags of VSTAT (R99). -/
def Dispatch.Lands (d : Dispatch) (fl : VFlags) (l : List Eff) : Prop := d.fault = none ∧ d.effs = l ++ if fl = 0 then [] else [.vstat fl]

/-- The accumulator that an instruction names `j`-th (R184). -/
def accAt (m : MWord) (j : Nat) : Fin 4 := Fin.ofNat 4 (m.acc.val + j)

theorem accRes_eq (m : MWord) : accRes m = (List.range (m.mrepM1.val + 1)).map fun j => .acc (accAt m j) := rfl

theorem map_zipIdx_map_range {α β : Type} (n : Nat) (f : Nat → α) (g : α × Nat → β) :
    (((List.range n).map f).zipIdx.map g) = (List.range n).map fun j => g (f j, j) := by
  apply List.ext_getElem
  · simp only [List.length_map, List.length_zipIdx]
  · intro i _ _
    simp only [List.getElem_map, List.getElem_zipIdx, List.getElem_range, Nat.zero_add]

/-! ### Tile steps (R184–R186, R189) -/

/-- What a tile step gives its `j`-th accumulator. -/
def tileResult (k : TileKind) (m : MWord) (a b : Fmt) (isInt : Bool) (x : Env) (j : Nat) : Accum × VFlags :=
  let ws := (slotsRead k m a b).map fun (w : Fin 64) => x.c.wslots[w]
  let cols := (List.range 32).map fun c => stepTerms (kElems k a b) (mSteps m) 0 (bColumn ws b (k = .mmas) c)
  tileAccum isInt (satOf (mMod m x.q)) (((aRows k m a b x).drop (32 * j)).take 32) cols
    (if m.za then Accum.zero else x.c.chainAcc[accAt m j])

section
variable {k : TileKind} {m : MWord} {x : Env} {a b : Fmt} {isInt : Bool}

theorem tileStep_timing (k : TileKind) (m : MWord) (x : Env) :
    (tileStep k m x).lat = mSteps m * mRep m + 10 ∧ (tileStep k m x).occ = mSteps m * mRep m := by
  unfold tileStep
  split
  · exact ⟨rfl, rfl⟩
  · dsimp only
    split <;> exact ⟨rfl, rfl⟩

theorem tileStep_fails_format (h : tileFormats k m x = none) : (tileStep k m x).Fails x.q.formatFault := by
  simp only [tileStep, h]
  exact ⟨rfl, rfl⟩

theorem tileStep_fails_view (h : tileFormats k m x = some (a, b, isInt)) {f : Cause × Word}
    (hu : usesFault x.q.view (aUse k m a b :: aScaleUse k m a b) = some f) : (tileStep k m x).Fails f := by
  simp only [tileStep, h, hu]
  exact ⟨rfl, rfl⟩

theorem tileStep_lands (h : tileFormats k m x = some (a, b, isInt)) (hu : usesFault x.q.view (aUse k m a b :: aScaleUse k m a b) = none) :
    let rs := (List.range (mRep m)).map (tileResult k m a b isInt x)
    (tileStep k m x).reads = aUse k m a b :: aScaleUse k m a b ∧ (tileStep k m x).writes = accRes m ∧
      (tileStep k m x).Lands (rs.foldl (fun f r => f ||| r.2) 0) (rs.zipIdx.map fun r => .acc (accAt m r.2) x.q.seq r.1.1) := by
  intro rs
  rw [map_zipIdx_map_range, List.foldl_map]
  simp only [tileStep, h, hu, List.foldl_map, List.map_map]
  exact ⟨trivial, trivial, rfl, rfl⟩

end

/-! ### The sum of an INT32 K step (R186) -/

/-- A finite number whose exponent is 0. -/
def Num.Integral (t : Num) : Prop := ∃ neg n, t = .fin neg n 0

theorem Num.integral_ofInt (i : Int) : (Num.ofInt i).Integral := ⟨_, _, rfl⟩

theorem Num.at_ofInt (i : Int) : (Num.ofInt i).at_ 0 = i := by
  simp only [Num.ofInt, Num.at_, Int.sub_self, Int.toNat_zero, Int.pow_zero, Int.mul_one, decide_eq_true_eq]
  split <;> omega

theorem Num.Integral.mul {s t : Num} (hs : s.Integral) (ht : t.Integral) : (s.mul t).Integral := by
  obtain ⟨p, a, rfl⟩ := hs
  obtain ⟨q, b, rfl⟩ := ht
  exact ⟨_, _, rfl⟩

theorem Num.Integral.at_mul {s t : Num} (hs : s.Integral) (ht : t.Integral) : (s.mul t).at_ 0 = s.at_ 0 * t.at_ 0 := by
  obtain ⟨p, a, rfl⟩ := hs
  obtain ⟨q, b, rfl⟩ := ht
  cases p <;> cases q <;>
    simp only [Num.mul, Num.at_, Int.add_zero, Int.sub_self, Int.toNat_zero, Int.pow_zero, Int.mul_one, Int.natCast_mul, bne_self_eq_false,
      Bool.false_eq_true, if_false, if_true, Bool.bne_true, Bool.bne_false, Bool.not_false, Int.mul_neg, Int.neg_mul, Int.neg_neg]

theorem leastExp_of_integral {ts : List Num} (h : ∀ t ∈ ts, t.Integral) : leastExp ts = 0 := by
  unfold leastExp
  induction ts with
  | nil => rfl
  | cons t ts ih =>
    obtain ⟨⟨neg, n, rfl⟩, hts⟩ := List.forall_mem_cons.1 h
    rw [List.foldl_cons]
    show List.foldl _ (if (decide (n ≠ 0) && decide ((0 : Int) < 0)) = true then 0 else 0) ts = 0
    rw [ite_self]
    exact ih hts

theorem any_eq_false_of_integral {ts : List Num} (h : ∀ t ∈ ts, t.Integral) {p : Num → Bool} (hp : ∀ neg n e, p (.fin neg n e) = false) :
    ts.any p = false := by
  refine List.any_eq_false.2 fun t ht => ?_
  obtain ⟨neg, n, rfl⟩ := h t ht
  rw [hp]
  exact Bool.false_ne_true

/-- A sum of integral terms is the sum of their integers, exactly. -/
theorem sumNums_of_integral (down : Bool) {ts : List Num} (h : ∀ t ∈ ts, t.Integral) :
    ∃ neg n, (sumNums down ts).1 = .ratio neg n 1 0 ∧ (if neg then -(n : Int) else n) = ts.foldl (fun a t => a + t.at_ 0) 0 := by
  have hnan : ts.any Num.isNaN = false := any_eq_false_of_integral h fun _ _ _ => rfl
  have hpos : (ts.any fun t => decide (t = .inf false)) = false := any_eq_false_of_integral h fun _ _ _ => rfl
  have hneg : (ts.any fun t => decide (t = .inf true)) = false := any_eq_false_of_integral h fun _ _ _ => rfl
  simp only [sumNums, hnan, hpos, hneg, leastExp_of_integral h, Bool.false_eq_true, if_false, Bool.and_self]
  generalize ts.foldl (fun a t => a + t.at_ 0) (0 : Int) = v
  by_cases hv : v = 0
  · rw [if_neg (Decidable.not_not.2 hv)]
    exact ⟨_, _, rfl, by rw [hv]; split <;> rfl⟩
  · rw [if_pos hv]
    exact ⟨_, _, rfl, by simp only [decide_eq_true_eq]; split <;> omega⟩

/-- R186: an INT32 step wraps the exact sum, or clamps it under SAT. -/
theorem roundStep_sumNums_of_integral (sat : Bool) {ts : List Num} (h : ∀ t ∈ ts, t.Integral) :
    (roundStep true sat (sumNums false ts)).1 = (Fmt.int32.clampInt sat (ts.foldl (fun (a : Int) (t : Num) => a + t.at_ 0) 0) % 2 ^ 32).toNat := by
  obtain ⟨neg, n, hsum, hval⟩ := sumNums_of_integral false h
  simp only [roundStep, if_true, hsum, Fmt.putInt_bits, hval]
  rfl

theorem getD_toArray_map_ofInt (row : List Int) (i : Nat) :
    (row.map Num.ofInt).toArray.getD i Num.zero = Num.ofInt (row.getD i 0) := by
  rw [Array.getD_eq_getD_getElem?, List.getElem?_toArray, List.getElem?_map, List.getD_eq_getElem?_getD]
  cases row[i]? <;> rfl

/-- R186: an element of an INT32 accumulator after one K step over integers. -/
theorem tileElem_int (sat : Bool) (row : List Int) (ts : List (Nat × Int)) (c : BitVec 32) :
    (tileElem true sat (row.map Num.ofInt).toArray [ts.map fun t => (t.1, Num.ofInt t.2)] (c.toNat, 0)).1 =
      (Fmt.int32.clampInt sat (ts.foldl (fun (a : Int) (t : Nat × Int) => a + row.getD t.1 0 * t.2) c.toInt) % 2 ^ 32).toNat := by
  have hterms : ∀ t ∈ Num.ofInt c.toInt :: ts.map fun (t : Nat × Int) => (Num.ofInt (row.getD t.1 0)).mul (Num.ofInt t.2), t.Integral := by
    refine List.forall_mem_cons.2 ⟨Num.integral_ofInt _, List.forall_mem_map.2 fun t _ => ?_⟩
    exact (Num.integral_ofInt _).mul (Num.integral_ofInt _)
  have hsum := roundStep_sumNums_of_integral sat hterms
  simp only [List.foldl_cons, List.foldl_map, (Num.integral_ofInt _).at_mul (Num.integral_ofInt _), Num.at_ofInt, Int.zero_add] at hsum
  simp only [tileElem, accNum, BitVec.ofNat_toNat, BitVec.setWidth_eq, if_true, List.map_map, Function.comp_def, getD_toArray_map_ofInt]
  exact hsum

/-! ### Drains (R195, R196) -/

/-- The view that MDRAIN takes its scales from. -/
def drainScaleUse (m : MWord) : ViewUse := { pos := 3, vw := m.qview, row := 0, step := 1, off := 0, rows := 1, bytes := 128 }

/-- The views that MDRAIN reads: its scales where parcel 4 gives none. -/
def drainReads (m : MWord) : List ViewUse := if m.scale = 0 then [drainScaleUse m] else []

/-- The scales of MDRAIN. -/
def drainScales (m : MWord) (x : Env) : List Elem :=
  if m.scale = 0 then ((x.c.useBytes (x.q.view (drainScaleUse m).vw) (drainScaleUse m)).map (elemsOf 32)).headD []
  else List.replicate 32 ⟨m.scale.toNat, false⟩

/-- The formats of its entry or its scale view that MDRAIN turns away (R195). -/
def DrainMismatch (m : MWord) (q : QEntry) : Prop :=
  (mSfmt m q ≠ 0 ∧ mSfmt m q ≠ 8) ∨ (m.scale = 0 ∧ viewFmt (q.view m.qview) ≠ 0 ∧ viewFmt (q.view m.qview) ≠ 8)

/-- The test by which the model finds a mismatch. -/
theorem drainMismatch_iff (m : MWord) (q : QEntry) :
    DrainMismatch m q ↔ ((mSfmt m q ≠ 0 && mSfmt m q ≠ 8) ||
      (decide (m.scale = 0) && viewFmt (q.view m.qview) ≠ 0 && viewFmt (q.view m.qview) ≠ 8)) = true := by
  simp only [DrainMismatch, Bool.or_eq_true, Bool.and_eq_true, decide_eq_true_eq, and_assoc]

section
variable {m : MWord} {x : Env} {f : Fmt}

theorem dispatchMdrain_timing (m : MWord) (x : Env) : (dispatchMdrain m x).lat = 28 ∧ (dispatchMdrain m x).occ = 2 * mRep m := by
  unfold dispatchMdrain
  dsimp only
  split
  · exact ⟨rfl, rfl⟩
  · split
    · exact ⟨rfl, rfl⟩
    · split <;> exact ⟨rfl, rfl⟩

theorem dispatchMdrain_fails_format (h : setR (mDrainFmt m x.q) = false ∨ DrainMismatch m x.q) :
    (dispatchMdrain m x).Fails x.q.formatFault := by
  unfold dispatchMdrain
  dsimp only
  split
  · exact ⟨rfl, rfl⟩
  · next hf =>
    rcases h with h | h
    · rw [h] at hf
      cases hf
    · rw [if_pos ((drainMismatch_iff m x.q).1 h)]
      exact ⟨rfl, rfl⟩

theorem dispatchMdrain_fails_view (hs : setR (mDrainFmt m x.q) = true) (hf : fmtOf (mDrainFmt m x.q) = some f)
    (hb : ¬ DrainMismatch m x.q) {e : Cause × Word}
    (hu : usesFault x.q.view (drainUse m (4 * f.bits) :: drainReads m) = some e) : (dispatchMdrain m x).Fails e := by
  rw [drainMismatch_iff] at hb
  simp only [drainReads, drainScaleUse] at hu
  simp only [dispatchMdrain, hs, hf, if_true, if_neg hb, hu]
  exact ⟨rfl, rfl⟩

theorem dispatchMdrain_lands (hs : setR (mDrainFmt m x.q) = true) (hf : fmtOf (mDrainFmt m x.q) = some f)
    (hb : ¬ DrainMismatch m x.q) (hu : usesFault x.q.view (drainUse m (4 * f.bits) :: drainReads m) = none) :
    let u := drainUse m (4 * f.bits)
    let rs := drainRound (drainCtx m x f) (drainScales m x) 0 (drainRows m x)
    (dispatchMdrain m x).Lands (allFlags rs) [writeUse (x.q.view u.vw) u ((allElems rs).toBytes f.bits)] := by
  rw [drainMismatch_iff] at hb
  simp only [drainReads, drainScaleUse] at hu
  simp only [dispatchMdrain, hs, hf, if_true, if_neg hb, hu, drainScales]
  refine ⟨rfl, ?_⟩
  by_cases hq : m.scale = 0
  · simp only [if_pos hq]
    rfl
  · simp only [if_neg hq]
    rfl

theorem dispatchMdrainmx_timing (m : MWord) (x : Env) : (dispatchMdrainmx m x).lat = 36 ∧ (dispatchMdrainmx m x).occ = 4 * mRep m := by
  unfold dispatchMdrainmx
  dsimp only
  split
  · exact ⟨rfl, rfl⟩
  · split
    · exact ⟨rfl, rfl⟩
    · split <;> exact ⟨rfl, rfl⟩

theorem dispatchMdrainmx_fails_format (h : setMx (mDrainMxFmt m x.q) = false ∨ (mSfmt m x.q ≠ 0 ∧ mSfmt m x.q ≠ 14)) :
    (dispatchMdrainmx m x).Fails x.q.formatFault := by
  unfold dispatchMdrainmx
  dsimp only
  split
  · exact ⟨rfl, rfl⟩
  · next hf =>
    rcases h with h | ⟨h0, h14⟩
    · rw [h] at hf
      cases hf
    · simp only [h0, h14, ne_eq, not_false_eq_true, decide_true, Bool.and_self, if_true]
      exact ⟨rfl, rfl⟩

/-- The view that takes the scale bytes of MDRAINMX. -/
def drainMxScaleUse (m : MWord) (f : Fmt) : ViewUse := { drainUse m f.scaleBytes with pos := 3, vw := m.qview }

theorem dispatchMdrainmx_fails_view (hs : setMx (mDrainMxFmt m x.q) = true) (hf : fmtOf (mDrainMxFmt m x.q) = some f)
    (hb : ¬ (mSfmt m x.q ≠ 0 ∧ mSfmt m x.q ≠ 14)) {e : Cause × Word}
    (hu : usesFault x.q.view [drainUse m (4 * f.bits), drainMxScaleUse m f] = some e) : (dispatchMdrainmx m x).Fails e := by
  simp only [drainMxScaleUse] at hu
  simp only [dispatchMdrainmx, hs, hf, if_true, Bool.and_eq_true, decide_eq_true_eq, if_neg hb, hu]
  exact ⟨rfl, rfl⟩

theorem dispatchMdrainmx_lands (hs : setMx (mDrainMxFmt m x.q) = true) (hf : fmtOf (mDrainMxFmt m x.q) = some f)
    (hb : ¬ (mSfmt m x.q ≠ 0 ∧ mSfmt m x.q ≠ 14))
    (hu : usesFault x.q.view [drainUse m (4 * f.bits), drainMxScaleUse m f] = none) :
    let u := drainUse m (4 * f.bits)
    let w := drainMxScaleUse m f
    let rs := drainBlocks (drainCtx m x f) 0 (drainRows m x)
    (dispatchMdrainmx m x).Lands (rs.foldl (fun a r => a ||| r.2.2) 0)
      [writeUse (x.q.view u.vw) u (Tile.toBytes f.bits (rs.map (·.2.1))), writeUse (x.q.view w.vw) w (rs.map (·.1))] := by
  simp only [drainMxScaleUse] at hu
  simp only [dispatchMdrainmx, hs, hf, if_true, Bool.and_eq_true, decide_eq_true_eq, if_neg hb, hu]
  exact ⟨rfl, rfl⟩

/-! ### Accumulator loads (R197) and weight slots (R192) -/

/-- The format of MLDAC: CFMT, or for 0 the view's. -/
def mldacFmt (m : MWord) (q : QEntry) : Nat := orElseFmt m.cfmt.toNat (viewFmt (q.view m.dview))

theorem dispatchMldac_timing (m : MWord) (x : Env) : (dispatchMldac m x).lat = 20 ∧ (dispatchMldac m x).occ = 2 * mRep m := by
  unfold dispatchMldac
  dsimp only
  split
  · exact ⟨rfl, rfl⟩
  · split <;> exact ⟨rfl, rfl⟩

theorem dispatchMldac_fails_format (h : mldacFmt m x.q ≠ 4 ∧ mldacFmt m x.q ≠ 8) : (dispatchMldac m x).Fails x.q.formatFault := by
  unfold mldacFmt at h
  simp only [dispatchMldac, Bool.and_eq_true, decide_eq_true_eq, if_pos h]
  exact ⟨rfl, rfl⟩

theorem dispatchMldac_fails_view (h : mldacFmt m x.q = 4 ∨ mldacFmt m x.q = 8) {e : Cause × Word}
    (hu : usesFault x.q.view [drainUse m 128] = some e) : (dispatchMldac m x).Fails e := by
  have hok : ¬ (mldacFmt m x.q ≠ 4 ∧ mldacFmt m x.q ≠ 8) := by omega
  unfold mldacFmt at hok
  simp only [dispatchMldac, Bool.and_eq_true, decide_eq_true_eq, if_neg hok, hu]
  exact ⟨rfl, rfl⟩

theorem dispatchMldac_lands (h : mldacFmt m x.q = 4 ∨ mldacFmt m x.q = 8) (hu : usesFault x.q.view [drainUse m 128] = none) :
    let u := drainUse m 128
    (dispatchMldac m x).Lands 0 ((List.range (mRep m)).map fun j => .acc (accAt m j) x.q.seq
      (accumOf (mldacFmt m x.q = 4) ((((x.c.useBytes (x.q.view u.vw) u).map (elemsOf 32)).drop (32 * j)).take 32))) := by
  have hok : ¬ (mldacFmt m x.q ≠ 4 ∧ mldacFmt m x.q ≠ 8) := by omega
  unfold mldacFmt at hok
  simp only [dispatchMldac, Bool.and_eq_true, decide_eq_true_eq, if_neg hok, hu]
  exact ⟨rfl, (List.append_nil _).symm⟩

/-- The format of WBLD: BFMT, or for 0 the view's. -/
def wbldFmt (m : MWord) (q : QEntry) : Nat := orElseFmt m.bfmt.toNat (viewFmt (q.view m.aview))

/-- The view that holds the slot images of WBLD. -/
def wbldUse (m : MWord) (f : Fmt) : ViewUse :=
  { pos := 1, vw := m.aview, row := m.arow.toNat, step := 1, off := 0, rows := 32, bytes := mSteps m * slotRow f false }

theorem dispatchWbld_timing (m : MWord) (x : Env) : (dispatchWbld m x).lat = 7 + mSteps m ∧ (dispatchWbld m x).occ = mSteps m := by
  unfold dispatchWbld
  dsimp only
  split
  · exact ⟨rfl, rfl⟩
  · split <;> exact ⟨rfl, rfl⟩

theorem dispatchWbld_fails_format (h : slotFmt (wbldFmt m x.q) = none) : (dispatchWbld m x).Fails x.q.formatFault := by
  unfold wbldFmt at h
  simp only [dispatchWbld, h]
  exact ⟨rfl, rfl⟩

theorem dispatchWbld_fails_view (h : slotFmt (wbldFmt m x.q) = some f) {e : Cause × Word} (hu : usesFault x.q.view [wbldUse m f] = some e) :
    (dispatchWbld m x).Fails e := by
  unfold wbldFmt at h
  unfold wbldUse at hu
  simp only [dispatchWbld, h, hu]
  exact ⟨rfl, rfl⟩

theorem dispatchWbld_lands (h : slotFmt (wbldFmt m x.q) = some f) (hu : usesFault x.q.view [wbldUse m f] = none) :
    let r := slotRow f false
    let u := wbldUse m f
    (dispatchWbld m x).Lands 0 ((List.range (mSteps m)).map fun j => .wslot (Fin.ofNat 64 (m.wslot.val + j))
      (slotOf f false ((x.c.useBytes (x.q.view u.vw) u).map fun row => (row.drop (j * r)).take r))) := by
  unfold wbldFmt at h
  unfold wbldUse at hu
  simp only [dispatchWbld, h, hu]
  exact ⟨rfl, (List.append_nil _).symm⟩

end

/-! ### What lands (R188, R193) -/

theorem Core.land_acc {c : Core} {a : Fin 4} {n : Nat} (h : c.accSeq[a] ≤ n) (v : Accum) :
    c.land (.acc a n v) = { c with acc := c.acc.set a v, accSeq := c.accSeq.set a n } := if_pos h

/-- A writer that no later writer has passed gives its value to each accumulator that it names, and to no other. -/
theorem Core.foldl_land_acc (n : Nat) (v : Accum) (as : List (Fin 4)) (c : Core) (h : ∀ a : Fin 4, c.accSeq[a] ≤ n) (k : Fin 4) :
    ((as.map fun a => Eff.acc a n v).foldl Core.land c).acc[k] = if k ∈ as then v else c.acc[k] := by
  induction as generalizing c with
  | nil => rfl
  | cons a as ih =>
    rw [List.map_cons, List.foldl_cons, Core.land_acc (h a), ih]
    · by_cases hk : k = a
      · subst hk
        simp only [Fin.getElem_fin, Vector.getElem_set_self, ite_self, List.mem_cons, true_or, if_true]
      · have hne : a.val ≠ k.val := fun e => hk (Fin.ext e.symm)
        simp only [Fin.getElem_fin, Vector.getElem_set_ne _ _ hne, List.mem_cons, hk, false_or]
    · intro b
      by_cases hb : b = a
      · subst hb
        simp only [Fin.getElem_fin, Vector.getElem_set_self, Nat.le_refl]
      · have hne : a.val ≠ b.val := fun e => hb (Fin.ext e.symm)
        simpa only [Fin.getElem_fin, Vector.getElem_set_ne _ _ hne] using h b

/-- `k` is the core `c` but that some of its weight slots have lost their valid bits, and windows may be spoiled (R358). -/
def Core.Invalidates (c : Core) (ws : List (Fin 64)) (k : Core) : Prop :=
  (∀ w : Fin 64, k.wslots[w] = { c.wslots[w] with valid := c.wslots[w].valid && !decide (w ∈ ws) }) ∧ k.acc = c.acc ∧ k.plate = c.plate

theorem Core.land_invalidate (c : Core) (w : Fin 64) : c.Invalidates [w] (c.land (.invalidate w)) := by
  refine ⟨fun v => ?_, rfl, rfl⟩
  show (c.wslots.set w { c.wslots[w] with valid := false })[v] = _
  by_cases hv : v = w
  · subst hv
    simp only [Fin.getElem_fin, Vector.getElem_set_self, List.mem_singleton, decide_true, Bool.not_true, Bool.and_false]
  · have hne : w.val ≠ v.val := fun e => hv (Fin.ext e.symm)
    simp only [Fin.getElem_fin, Vector.getElem_set_ne _ _ hne, List.mem_singleton, hv, decide_false, Bool.not_false, Bool.and_true]

theorem Core.Invalidates.trans {b c k : Core} {us vs : List (Fin 64)} (h : b.Invalidates us c) (g : c.Invalidates vs k) :
    b.Invalidates (us ++ vs) k := by
  obtain ⟨hw, ha, hp⟩ := h
  obtain ⟨gw, ga, gp⟩ := g
  refine ⟨fun w => ?_, ga.trans ha, gp.trans hp⟩
  simp only [gw, hw, List.mem_append, Bool.decide_or, Bool.not_or, Bool.and_assoc]

theorem Core.foldl_land_invalidate (ws : List (Fin 64)) (c : Core) : c.Invalidates ws ((ws.map Eff.invalidate).foldl Core.land c) := by
  induction ws generalizing c with
  | nil =>
    refine ⟨fun w => ?_, rfl, rfl⟩
    simp only [List.map_nil, List.foldl_nil, List.not_mem_nil, decide_false, Bool.not_false, Bool.and_true]
  | cons w ws ih => exact (c.land_invalidate w).trans (ih _)

/-- The weight slots that an instruction names, none of them beyond the last. -/
theorem mem_slotRange {s n : Nat} (h : s + n < 64) (w : Fin 64) :
    w ∈ ((List.range (n + 1)).map fun j => Fin.ofNat 64 (s + j)) ↔ s ≤ w.val ∧ w.val ≤ s + n := by
  simp only [List.mem_map, List.mem_range]
  constructor
  · rintro ⟨j, hj, rfl⟩
    rw [Fin.val_ofNat, Nat.mod_eq_of_lt (by omega)]
    omega
  · rintro ⟨hs, hn⟩
    refine ⟨w.val - s, by omega, Fin.ext ?_⟩
    rw [Fin.val_ofNat, Nat.mod_eq_of_lt (by omega)]
    omega

/-- The fields of an M instruction's first parcel that follow its function. -/
theorem encM_first (major fn : Nat) (m : MWord) : ∃ r, (encM major fn m).headD 0 = 3 + major * 4 + fn * 256 + 4096 * r := by
  refine ⟨bit m.tok.waitL + bit m.tok.waitR * 2 + bit m.tok.postL * 4 + bit m.tok.postR * 8 + m.aview.val * 16 + m.acc.val * 512 +
    m.mrepM1.val * 2048 + bit m.ft * 8192 + bit m.za * 16384 + bit m.asc * 32768, ?_⟩
  rw [encM, List.headD_cons]
  omega

/-- R60, R65: the class, the major and the function of an M instruction. -/
theorem encM_class {major fn : Nat} (hj : major < 64) (hf : fn < 16) (m : MWord) :
    let p := (encM major fn m).headD 0
    p % 4 = 3 ∧ p / 4 % 64 = major ∧ p / 256 % 16 = fn := by
  obtain ⟨r, hr⟩ := encM_first major fn m
  simp only [hr]
  omega

/-! ### The statements -/

/-- Settles O41: WBINV's effects clear the valid bits of the slots that it names and change nothing else of them. -/
theorem weightInvalidate : Obligations.WeightInvalidate := by
  intro s x m d hd hw
  obtain rfl : dispatchWbinv m x = d := Option.some.inj hd
  obtain ⟨hclass, hmajor, hfn⟩ := encM_class (major := 2) (fn := 1) (by decide) (by decide) m
  refine ⟨hclass, hmajor, hfn, rfl, rfl, fun c w => ?_⟩
  intro k
  have heffs : (dispatchWbinv m x).effs =
      ((List.range (m.kstepM1.val + 1)).map fun j => Fin.ofNat 64 (m.wslot.val + j)).map Eff.invalidate := by
    rw [List.map_map]
    rfl
  obtain ⟨hslots, hacc, hplate⟩ : c.Invalidates _ k := by
    show c.Invalidates _ ((dispatchWbinv m x).effs.foldl Core.land c)
    rw [heffs]
    exact c.foldl_land_invalidate _
  rw [hslots w]
  simp only [mem_slotRange hw, Bool.decide_and]
  exact ⟨trivial, trivial, trivial, hacc, hplate⟩

/-- Settles O40: each instruction's timing, faults and results are those of its dispatch function; an INT32 step sums integers exactly, and
MCLR's effects land on the accumulators that it names. -/
theorem accumulatorClear : Obligations.AccumulatorClear := by
  intro s x m d q reps steps acc fails bytes flagged tile
  have htile (i : Instr) (k : TileKind) (hi : dispatchOf i x s = some (tileStep k m x)) : tile i k := by
    intro hd
    obtain rfl : tileStep k m x = d := Option.some.inj (hi.symm.trans hd)
    obtain ⟨hlat, hocc⟩ := tileStep_timing k m x
    exact ⟨hlat, hocc, tileStep_fails_format, fun a b isInt h => ⟨fun f => tileStep_fails_view h, tileStep_lands h⟩⟩
  refine ⟨⟨htile _ _ rfl, htile _ _ rfl, htile _ _ rfl, ?int⟩, ?mdrain, ?mdrainmx, ?mldac, ?wbld, ?mclr⟩
  case int =>
    intro sat row ts c
    exact tileElem_int sat row ts c
  case mdrain =>
    intro hd
    obtain rfl : dispatchMdrain m x = d := Option.some.inj hd
    obtain ⟨hlat, hocc⟩ := dispatchMdrain_timing m x
    exact ⟨hlat, hocc, dispatchMdrain_fails_format, fun f hs hf hb =>
      ⟨fun e => dispatchMdrain_fails_view hs hf hb, dispatchMdrain_lands hs hf hb⟩⟩
  case mdrainmx =>
    intro hd
    obtain rfl : dispatchMdrainmx m x = d := Option.some.inj hd
    obtain ⟨hlat, hocc⟩ := dispatchMdrainmx_timing m x
    exact ⟨hlat, hocc, dispatchMdrainmx_fails_format, fun f hs hf hb =>
      ⟨fun e => dispatchMdrainmx_fails_view hs hf hb, dispatchMdrainmx_lands hs hf hb⟩⟩
  case mldac =>
    intro hd
    obtain rfl : dispatchMldac m x = d := Option.some.inj hd
    obtain ⟨hlat, hocc⟩ := dispatchMldac_timing m x
    exact ⟨hlat, hocc, dispatchMldac_fails_format, fun h => ⟨fun e => dispatchMldac_fails_view h, dispatchMldac_lands h⟩⟩
  case wbld =>
    intro hd
    obtain rfl : dispatchWbld m x = d := Option.some.inj hd
    obtain ⟨hlat, hocc⟩ := dispatchWbld_timing m x
    exact ⟨hlat, hocc, dispatchWbld_fails_format, fun f h => ⟨fun e => dispatchWbld_fails_view h, dispatchWbld_lands h⟩⟩
  case mclr =>
    intro hd
    obtain rfl : dispatchMclr m x = d := Option.some.inj hd
    refine ⟨rfl, rfl, rfl, rfl, fun c k h => ?_⟩
    have heffs : (dispatchMclr m x).effs =
        ((List.range reps).map (accAt m)).map fun a => Eff.acc a x.q.seq Accum.zero := by
      rw [List.map_map]
      rfl
    have hnamed : k ∈ (List.range reps).map (accAt m) ↔ ∃ j, j ≤ m.mrepM1.val ∧ k = acc j := by
      simp only [List.mem_map, List.mem_range, reps, Nat.lt_succ_iff, eq_comm (a := k)]
      rfl
    show ((dispatchMclr m x).effs.foldl Core.land c).acc[k] = _
    rw [heffs, Core.foldl_land_acc _ _ _ _ h]
    by_cases hk : ∃ j, j ≤ m.mrepM1.val ∧ k = acc j
    · rw [if_pos hk, if_pos (hnamed.2 hk)]
      rfl
    · rw [if_neg hk, if_neg (mt hnamed.1 hk)]

end Sys2Proof.Machine
end

section
/-! The permutation instructions (R200–R208): the dispatch that they share, the positions of the register that they make, and the index
vector of a composition and of an inverse. -/

namespace Sys2Proof.Machine

/-! ### The register that lands -/

@[simp] theorem makePerm_n (idx : List Nat) : (makePerm idx).n = idx.length := rfl
@[simp] theorem makePerm_idx (idx : List Nat) : (makePerm idx).idx = idx := rfl

/-- A position of the index vector is the entry that stands there. -/
theorem PermReg.at_of_lt (p : PermReg) {k : Nat} (h : k < p.idx.length) : p.at_ k = p.idx[k] := by
  rw [PermReg.at_, List.getElem?_eq_getElem h, Option.getD_some]

/-- R201: the vector that PCOMP forms reads the second permutation at the first one's entries. -/
theorem makePerm_map_at (a b : PermReg) {k : Nat} (h : k < a.idx.length) : (makePerm (a.idx.map b.at_)).at_ k = b.at_ (a.at_ k) := by
  have hmap : k < (makePerm (a.idx.map b.at_)).idx.length := by simpa using h
  rw [PermReg.at_of_lt _ hmap, a.at_of_lt h]
  exact List.getElem_map b.at_

@[simp] theorem length_inverseOf (p : List Nat) : (inverseOf p).length = p.length := by
  rw [inverseOf, List.length_map, List.length_range]

/-- An entry of the inverse is the first position at which the vector holds that value. -/
theorem getElem_inverseOf (p : List Nat) {i : Nat} (h : i < (inverseOf p).length) : (inverseOf p)[i] = p.idxOf i := by
  simp only [inverseOf, List.getElem_map, List.getElem_range]
  rfl

/-- R201: the inverse takes each entry back to its position, which is the only one that holds the entry. -/
theorem makePerm_inverseOf_at (a : PermReg) (hnodup : a.idx.Nodup) (hbound : ∀ k ∈ a.idx, k < a.idx.length) {k : Nat}
    (h : k < a.idx.length) : (makePerm (inverseOf a.idx)).at_ (a.at_ k) = k := by
  have hentry : a.at_ k < (inverseOf a.idx).length := by
    rw [length_inverseOf, a.at_of_lt h]
    exact hbound _ (List.getElem_mem h)
  calc (makePerm (inverseOf a.idx)).at_ (a.at_ k)
      = (inverseOf a.idx)[a.at_ k] := PermReg.at_of_lt _ hentry
    _ = a.idx.idxOf (a.at_ k) := getElem_inverseOf _ hentry
    _ = a.idx.idxOf a.idx[k] := by rw [a.at_of_lt h]
    _ = k := hnodup.idxOf_getElem k h

/-! ### The dispatch that they share -/

section
variable {lat burin : Nat} {v : VWord} {x : Env} {idx : List Nat} (hfmt : v.fmt = 0)
include hfmt

/-- R202: FMT = 0 is the format that these instructions allow. -/
theorem needFmt0_none : needFmt0 v x.q = none := if_pos hfmt

/-- R208: a permutation instruction without a fault writes its destination, all four parts together (R200). -/
theorem fromPerm_effs : (fromPerm lat burin v x none idx).effs = [.perm (permOf v.d) (makePerm idx)] := by
  rw [fromPerm, needFmt0_none hfmt]
  rfl

/-- R208: one that faults leaves its destination unchanged. -/
theorem fromPerm_fails (f : Cause × Word) : (fromPerm lat burin v x (some f) idx).Fails f := by
  rw [fromPerm, needFmt0_none hfmt]
  exact ⟨rfl, rfl⟩

end

section
variable {v : VWord} {x : Env} {i j : Fin 16} (h1 : v.s1 = .special i)
include h1

/-- What PINV of the register that S1 names comes to. -/
theorem dispatchPinv_special : let a := x.c.perms[i]
    dispatchPinv v x = fromPerm (30 + quarter a.n) (quarter a.n) v x none (inverseOf a.idx) := by
  rw [dispatchPinv, h1]
  rfl

/-- What PCOMP of the registers that S1 and S2 name comes to: their row counts are compared first. -/
theorem dispatchPcomp_special (h2 : v.s2 = .op (.special j)) : let a := x.c.perms[i]
    let b := x.c.perms[j]
    dispatchPcomp v x = fromPerm (30 + quarter a.n) (quarter a.n) v x
      (if a.n = b.n then none else some (.permInvalid, BitVec.ofNat 64 b.n)) (a.idx.map b.at_) := by
  rw [dispatchPcomp, h1, h2]
  rfl

end

/-! ### The statement -/

/-- Settles O39: each instruction's register is the one made of the identity, the composed or the inverse index vector, and PCOMP faults
when the row counts differ. -/
theorem permutations : Obligations.Permutations := by
  intro s x v i j a b
  refine ⟨?pidn, ?pcomp, ?pinv⟩
  case pidn =>
    intro d hd hfmt
    obtain rfl : dispatchPidn v x = d := Option.some.inj hd
    exact ⟨_, fromPerm_effs hfmt, rfl, by rw [makePerm_n, List.length_range], rfl⟩
  case pcomp =>
    intro d hd hfmt h1 h2
    obtain rfl : dispatchPcomp v x = d := Option.some.inj hd
    rw [dispatchPcomp_special h1 h2]
    constructor
    · intro hn
      rw [if_neg hn]
      exact fromPerm_fails hfmt _
    · intro hn
      rw [if_pos hn]
      refine ⟨_, fromPerm_effs hfmt, by rw [makePerm_n, List.length_map], fun k hk => makePerm_map_at a b ?_⟩
      rwa [makePerm_n, List.length_map] at hk
  case pinv =>
    intro d hd hfmt h1 hnodup hbound
    obtain rfl : dispatchPinv v x = d := Option.some.inj hd
    rw [dispatchPinv_special h1]
    refine ⟨_, fromPerm_effs hfmt, length_inverseOf _, fun k hk => makePerm_inverseOf_at a hnodup hbound ?_⟩
    rwa [makePerm_n, length_inverseOf] at hk

end Sys2Proof.Machine
end
